-- ==== Sys2Proof/Word.lean ====
section
/-! DEFINITION. The words of the device: bytes, 32-bit registers and lanes (R10), 64-bit counters. -/

namespace Sys2Proof

/-- One byte. -/
abbrev Byte := BitVec 8

/-- One register, payload word or lane value (R10, R135). -/
abbrev Word := BitVec 32

/-- One narrow-view word, counter pair or time value (R167, R319). -/
abbrev Quad := BitVec 64

/-- Number of core-type units: 64 cores and the 2 radio engines (R22, R24). -/
abbrev UnitIdx := Fin 66

end Sys2Proof
end

