-- ==== Sys2Proof/Syntax.lean ====
section
/-! DEFINITION. The commands: one constructor of Instr per row of spec/opcode_table.json, with the row's operands. -/

namespace Sys2Proof

/-- A timetable entry as it issues: BEAT and CYCLE of its header and its payload words (R45). -/
structure Entry where
  beat  : Nat
  cycle : Nat
  words : List Word
  deriving DecidableEq, Repr

/-- A mailbox command as the card interface reads it out of the command buffer (R462, R464): TAG, LEN,
whether the header bits marked zero are zero, whether CRC matches, and the payload bytes. -/
structure Frame where
  tag     : Word
  len     : Nat
  hdrZero : Bool
  crcOk   : Bool
  payload : List Byte
  deriving DecidableEq, Repr

/-- What SEC-DED finds on a scratchpad read of a step (R406): nothing, `n` corrected words, or one word
with a double error, whose stored bits stand flipped by `flip`. -/
inductive SramUpset where
  | none
  | corrected (n : Nat)
  | double (addr : Nat) (flip : Quad)
  deriving DecidableEq, Repr

/-- One erroneous symbol of a DRAM read: data block of the read, symbol 0 to 67 (R197), and its error. -/
structure SymErr where
  block  : Nat
  symbol : Nat
  flip   : Byte
  deriving DecidableEq, Repr

/-- What the ECC of a CSI-2 packet header finds (R302). -/
inductive HdrEcc where
  | clean
  | corrected
  | bad
  deriving DecidableEq, Repr

/-- Word 0 of a vector instruction but for OPC, which the command names (R138). `zero` is bits 31:27. -/
structure VOp where
  vd   : Fin 32
  va   : Fin 32
  vb   : Fin 32
  dfmt : BitVec 2
  aint : Bool
  bint : Bool
  zero : BitVec 5
  deriving DecidableEq, Repr

/-- The unit whose entry holds (R54): a core or radio engine, a rill or a channel. -/
inductive HoldUnit where
  | core (u : UnitIdx)
  | rill (r : Fin 32)
  | chan (c : Fin 128)
  deriving DecidableEq, Repr

/-- A timetable fetch that lands (R238): a group of a rill's queue or a half of a core's context. -/
inductive FetchKind where
  | group (r : Fin 32) (g : Fin 4)
  | context (c : Fin 64) (k : Fin 5)
  deriving DecidableEq, Repr

/-- A requester of the deadline class (R246). -/
inductive Requester where
  | stream (n : Fin 24)
  | radio (e : Fin 2)
  | rill (r : Fin 32)
  deriving DecidableEq, Repr

/-- A received 802.1AS Sync, or the time part of a Follow_Up (R324): domain, logMessageInterval, sequence
number, grandmaster identity and the grandmaster time it carries, already corrected for the path. -/
structure SyncMsg where
  domain : Nat
  logInt : Int
  twoStep : Bool
  seq    : Nat
  gm     : Quad
  time   : Quad
  deriving DecidableEq, Repr

/-- A received Announce (R324): domain, grandmaster identity and the rank of its priority vector, a
smaller number being the better master. -/
structure AnnounceMsg where
  domain : Nat
  gm     : Quad
  rank   : Nat
  deriving DecidableEq, Repr

/-- The fields of a MAC-format DSP instruction (R335). -/
structure MacOp where
  pair  : Fin 4
  agx   : Fin 8
  agy   : Fin 8
  agc   : Fin 8
  bsel  : BitVec 2
  noadv : Bool
  deriving DecidableEq, Repr

/-- The fields of a register-format DSP instruction (R335). -/
structure RegOp where
  dst : Fin 8
  sra : Fin 8
  srb : Fin 8
  sh  : BitVec 6
  deriving DecidableEq, Repr

/-- The fields of a memory-format DSP instruction (R335). -/
structure MemOp where
  reg : Fin 8
  ag  : Fin 8
  mem : BitVec 2
  sh  : BitVec 6
  deriving DecidableEq, Repr

/-- Why a DSP instruction traps (R342). -/
inductive DspTrap where
  | illegal
  | loopBody
  | address
  deriving DecidableEq, Repr

/-- The commands and events of the block, one constructor per row of the table. -/
inductive Instr where
  -- the card interface (R456 to R470)
  | cmd0
  | cmd3
  | cmd5
  | cmd7 (rca : BitVec 16)
  | cmd11
  | cmd15 (rca : BitVec 16)
  | cmd19
  | cmd52 (write : Bool) (fn : BitVec 3) (addr : BitVec 17) (data : Byte)
  | cmd53 (write block incr : Bool) (fn : BitVec 3) (addr : BitVec 17) (count : BitVec 9) (data : List Byte)
  | ioAbortAs (fn : BitVec 3)
  | ioAbortRes
  | streamPortRead
  | goIgnored
  | commandReply
  -- the mailbox commands (R468)
  | statusCmd (f : Frame)
  | readReg (f : Frame)
  | writeReg (f : Frame)
  | resetCmd (f : Frame)
  | journalRead (f : Frame)
  | certRead (f : Frame)
  | memWrite (f : Frame)
  | memRead (f : Frame)
  | storeWrite (f : Frame)
  | load (f : Frame)
  | park (f : Frame)
  | admitJob (f : Frame)
  | jobStop (f : Frame)
  | jobShares (f : Frame)
  | radioAdmit (f : Frame)
  | dspMsg (f : Frame)
  | seqOpen (f : Frame)
  | seqFeed (f : Frame)
  | seqClose (f : Frame)
  | seqRebind (f : Frame)
  | flashWrite (f : Frame)
  | flashVerify (f : Frame)
  | attest (f : Frame)
  | unknownOpcode (opcode : BitVec 16) (f : Frame)
  -- register accesses with a row of their own
  | registerWrite (addr : BitVec 40) (value : Word)
  | latchingRead (addr : BitVec 40)
  | rillBlockReset (r : Fin 32)
  | rillResetDone (r : Fin 32)
  | coreBlockReset (c : Fin 64)
  | coreResetDone
  | fuseProgram (key : BitVec 16) (slot : Fin 4)
  | fuseRevoke (key : BitVec 16) (slot : Fin 4)
  | fuseRaise (key : BitVec 16) (value : BitVec 7)
  | fuseOperationDone (ok : Bool)
  | ctlStrictWrite (value : Word)
  | contextEnable (n : Fin 24) (value : Word)
  | contextDisable (n : Fin 24) (value : Word)
  | dspRun
  | dspStop
  | iqCfgWrite (value : Word)
  | txArm (e : Fin 2) (delta : BitVec 8) (start : BitVec 18)
  | txCancel (e : Fin 2)
  -- events of the beat grid, power and temperature
  | beatBoundary
  | mr4Read (ops : List (BitVec 3 × BitVec 3))
  | zqCalibration
  | ownerChangeWake
  | energyDecision
  | tjSample (readings : List (BitVec 12))
  | fastCurrentLimit
  | throttleQuietEnd
  | supplyOutOfRange (milliVolt : BitVec 16)
  | hotSwapTrip
  | coldPlateCut
  | coldPlateRestore
  -- proofs and engine events
  | proofTileSlot (n : Fin 29)
  | goldenTileDone (c : Fin 64) (digestOk weirOk missed : Bool)
  | rerunOutcome (c : Fin 64)
  -- the matrix engine
  | engPass (u : UnitIdx) (e : Entry) (up : SramUpset)
  | engLoadCb (u : UnitIdx) (e : Entry)
  | passComplete (u : UnitIdx) (upset : List (Nat × Word))
  | weirVerdict (c : Fin 64)
  | hopParity (c : Fin 64)
  | engineDrainDone (u : UnitIdx)
  -- the vector engine
  | vecCascade (u : UnitIdx) (e : Entry) (up : SramUpset)
  | vecInsn (u : UnitIdx) (e : Entry) (up : SramUpset)
  | vecCistern (u : UnitIdx) (e : Entry)
  | vecEntryCommit (u : UnitIdx)
  | vadd (u : UnitIdx) (o : VOp) (w : Word)
  | vsub (u : UnitIdx) (o : VOp) (w : Word)
  | vmul (u : UnitIdx) (o : VOp) (w : Word)
  | vdiv (u : UnitIdx) (o : VOp) (w : Word)
  | vmax (u : UnitIdx) (o : VOp) (w : Word)
  | vmin (u : UnitIdx) (o : VOp) (w : Word)
  | vrelu (u : UnitIdx) (o : VOp) (w : Word)
  | vcvt (u : UnitIdx) (o : VOp) (w : Word)
  | vfunc (u : UnitIdx) (o : VOp) (w : Word)
  | vquant (u : UnitIdx) (o : VOp) (w : Word)
  | vbcast (u : UnitIdx) (o : VOp) (w : Word)
  | vldt (u : UnitIdx) (o : VOp) (w : Word)
  | vldb (u : UnitIdx) (o : VOp) (w : Word)
  | vstb (u : UnitIdx) (o : VOp) (w : Word)
  | vldc (u : UnitIdx) (o : VOp) (w : Word)
  | vstc (u : UnitIdx) (o : VOp) (w : Word)
  | vrelt (u : UnitIdx) (o : VOp) (w : Word)
  | vredmax (u : UnitIdx) (o : VOp) (w : Word)
  | vredsum (u : UnitIdx) (o : VOp) (w : Word)
  | vhad (u : UnitIdx) (o : VOp) (w : Word)
  -- the sequencer, basins and banks
  | basinDef (u : UnitIdx) (e : Entry)
  | basinPop (u : UnitIdx) (e : Entry)
  | basinFree (u : UnitIdx) (e : Entry)
  | bankSleep (u : UnitIdx) (e : Entry)
  | bankWake (u : UnitIdx) (e : Entry)
  | bankWakeDone (u : UnitIdx) (b : Fin 32)
  | seqPut (u : UnitIdx) (e : Entry)
  | seqMark (u : UnitIdx) (e : Entry)
  | contextFetch (c : Fin 64) (k : Fin 5)
  -- rills
  | rillIn (r : Fin 32) (slot : Fin 64)
  | rillOut (r : Fin 32) (slot : Fin 64)
  | rillNop (r : Fin 32) (slot : Fin 64)
  | completionArrival (ch : Fin 128) (idx : Fin 64)
  | basinLanding (c : Fin 64)
  | rillOutReadout (r : Fin 32) (slot : Fin 64) (block blocks : BitVec 10) (up : SramUpset)
  | rillRetire (r : Fin 32) (slot : Fin 64)
  | descriptorFetch (r : Fin 32) (g : Fin 4)
  | fetchLanded (k : FetchKind)
  | arbRequest (q : Requester)
  | arbiterGrant (ch : Fin 128)
  | rillTimeout (r : Fin 32) (slot : Fin 64)
  -- memory channels
  | chRead (ch : Fin 128) (e : Entry)
  | chWrite (ch : Fin 128) (e : Entry)
  | chRefresh (ch : Fin 128) (e : Entry)
  | chRetry (ch : Fin 128) (e : Entry)
  | eccCheckDone (ch : Fin 128) (idx : Fin 64) (errs : List SymErr)
  | controllerRetry (ch : Fin 128)
  | controllerRefresh (ch : Fin 128)
  | patrolScrub (ch : Fin 128) (errs : List SymErr)
  | loadRecordDone (rec : Fin 512)
  | ufsError (rec : Fin 512)
  -- sensors
  | frameStart (rx : Fin 8) (vc : BitVec 5) (fn : BitVec 16) (ecc : HdrEcc)
  | longPacket (rx : Fin 8) (vc : BitVec 5) (dt : BitVec 6) (ecc : HdrEcc) (crcOk : Bool) (payload : List Byte)
  | frameEnd (rx : Fin 8) (vc : BitVec 5) (ecc : HdrEcc)
  | ethernetFrame (p : Fin 4) (fcsOk : Bool) (bytes : List Byte)
  | frameDigestDone (n : Fin 24)
  | frameComplete (n : Fin 24)
  | frameTimeout (n : Fin 24)
  -- IEEE 802.1AS
  | sync (p : Fin 4) (m : SyncMsg)
  | followUp (p : Fin 4) (m : SyncMsg)
  | pdelayReq (p : Fin 4) (domain : Nat)
  | pdelayResp (p : Fin 4) (domain seq : Nat)
  | pdelayRespFollowUp (p : Fin 4) (domain seq : Nat) (delayNs : Int)
  | pdelayReqTimer
  | announce (p : Fin 4) (m : AnnounceMsg)
  | signaling (p : Fin 4) (domain : Nat)
  | syncReceiptTimeout
  | announceReceiptTimeout (p : Fin 4)
  -- the baseband DSP
  | cmac (o : MacOp)
  | cmacj (o : MacOp)
  | cmul (o : MacOp)
  | mac2 (o : MacOp)
  | sqmag (o : MacOp)
  | adda (o : RegOp)
  | suba (o : RegOp)
  | shra (o : RegOp)
  | shla (o : RegOp)
  | clra (o : RegOp)
  | movda (o : RegOp)
  | movs (o : RegOp)
  | movsd (o : RegOp)
  | ld (o : MemOp)
  | st (o : MemOp)
  | str (o : MemOp)
  | br (target : BitVec 14)
  | brneg (reg : Fin 8) (target : BitVec 14)
  | call (target : BitVec 14)
  | ret
  | reti
  | loop (count : BitVec 16) (len : BitVec 5)
  | setag (reg : Fin 8) (v : BitVec 14)
  | setm (reg : Fin 8) (v : BitVec 14) (brev : Bool)
  | setl (reg : Fin 8) (v : BitVec 14)
  | di
  | ei
  | wait (mask : BitVec 8)
  | halt
  | illegalInstruction (why : DspTrap)
  | dspInterrupt
  -- the IQ port and the PA control
  | iqRxSample (e : Fin 2) (d : Vector (BitVec 4) 8)
  | iqTxSample (e : Fin 2)
  | txArmDecision (e : Fin 2)
  | paRampStep (e : Fin 2)
  | iqPllLock
  | rclkLockChange (locked : Bool)
  -- the learned receivers
  | train (e : Fin 2)
  | header (e : Fin 2)
  | endSlot (e : Fin 2)
  | classic (e : Fin 2)
  | decode (e : Fin 2)
  | bridgeCopyDone (e : Fin 2)
  | phaseStart (e : Fin 2)
  | phaseComplete (e : Fin 2)
  | phaseDeadline (e : Fin 2)
  | radioExit (e : Fin 2) (w : Word)
  | classicLate (e : Fin 2)
  | decodeDone (e : Fin 2)
  | dspMessagePoll
  -- reset, power and boot
  | powerOn
  | powerGood
  | mrstAssert
  | mrstRelease
  | resetGlitch
  | prsntAssert
  | prsntRelease
  | removalPowerOn
  | watchdogTimeout
  | bootTimeout
  | resetRequestTimer
  | watchdogRelease
  | lockstepMismatch
  | lockstepReset
  | clockFault
  | refclkLoss
  | refclkReturn
  | pllLockTimeout
  | resetRelease (norOk : Bool)
  | bootInterval
  | dramTrainingDone (ok : Bool) (badExtents : List (Fin 512))
  | selfTestDone (dirty : List (Fin 64))
  | enterReady
  | backupSupplyLoss
  | mainInputReturn
  | journalProgramDone
  | journalEraseDone
  | bootFlashDone
  -- reported holds, energy, links (rows at the end of the table)
  | entryHold (u : HoldUnit) (cause : BitVec 3)
  | beatEnergy (microJoule : Word)
  | blockLockChange (p : Fin 4) (locked : Bool)
  -- the serial monitor
  | monitorSt
  | rr (args : List (Option Nat))
  | wr (args : List (Option Nat))
  | mr (args : List (Option Nat))
  | sr (args : List (Option Nat))
  | sw (args : List (Option Nat))
  | log (args : List (Option Nat))
  | jr (args : List (Option Nat))
  | fw (args : List (Option Nat))
  | fwDataByte (b : Byte)
  | fwDataTimeout
  | fv
  | monitorReset
  | lineTooLong
  | uartBreak
  | uartFramingError
  | unknownCommandWord
  deriving DecidableEq, Repr

end Sys2Proof
end

