-- ==== Sys2Proof/Decode.lean ====
section
/-! DEFINITION. The command that a word spells by the bits of the table: the table of this hardware gives no row any bits. -/

namespace Sys2Proof

/-- No word spells a command, since no row of spec/opcode_table.json has bits. (DESIGN CHOICE, log entry 6) -/
def decodeTableWord (_nbits _w : Nat) : Option Instr := none

end Sys2Proof
end

