-- ==== Sys2Proof/Config.lean ====
section
/-! DEFINITION. What the spec leaves open: constants of an implementation and free values, opaque, so that no proof
can use a value of theirs. A free value is applied to the state's counter of free values or to its operands. -/

namespace Sys2Proof

/-- The 32-byte identity seed fused into the device (R482, R488). (DESIGN CHOICE, log entry 12) -/
opaque Config.identitySeed : List Byte
/-- The 16-byte serial fused into the device (R482). (DESIGN CHOICE, log entry 12) -/
opaque Config.serial : List Byte
/-- The SHA3-256 of the Basdelen production firmware key (R482). -/
opaque Config.productionKeyHash : List Byte
/-- The production boot image of manufacture with its signature (R534). -/
opaque Config.production : List Byte
/-- The bytes of the identity certificate's region of the flash (R487), by offset. -/
opaque Config.certByte : Nat → Byte
/-- The SHA3-256 of the island ROM (R490). -/
opaque Config.romDigest : List Byte
/-- A byte nothing determines, by the counter of free values: a byte of an interrupted flash, store or fuse write. (DESIGN CHOICE, log entry 7) -/
opaque Config.freeByte : Nat → Byte
/-- A word nothing determines, by the counter of free values. (DESIGN CHOICE, log entry 7) -/
opaque Config.freeWord : Nat → Word
/-- A choice nothing determines, by the counter of free values. -/
opaque Config.freeBool : Nat → Bool
/-- ML-DSA-44 verification (R481): context string, public key, message, signature. -/
opaque Config.mldsaVerify : List Byte → List Byte → List Byte → List Byte → Bool
/-- The ML-DSA-44 signature of a report by the key of a seed (R489), hedged by the noise of a counter value; none when
all 814 attempts fail. -/
opaque Config.mldsaSign : List Byte → List Byte → List Byte → Nat → Option (List Byte)
/-- The rate the 802.1AS servo chooses at a Sync (R320, R325), from the error in ns, the old rate and its history. (DESIGN CHOICE, log entry 44) -/
opaque Config.servoRate : Int → Int → Nat → Int
/-- The payload bytes of a journal record (R450) whose layout no chapter gives, by code and by what it reports. (DESIGN CHOICE, log entry 11) -/
opaque Config.journalPayload : Nat → List Nat → List Byte
/-- The other words of a CIS tuple of the card (R458), by CIS address: bytes the standard and not this spec fixes. (PRESUMED, log entry 73) -/
opaque Config.cisByte : Nat → Byte
/-- The logical blocks of 4,096 bytes after its first that a model-store device reports (R220). -/
opaque Config.storeBlocksMore : Nat → Nat
/-- The logical blocks of a model-store device, as it reports them (R218, R220): at least one. (DEDUCED, log entry 30) -/
def Config.storeBlocks (device : Nat) : Nat := Config.storeBlocksMore device + 1
/-- How many LFSR states the operands of n cycles of dummy operations take (R95). (DESIGN CHOICE, log entry 91) -/
opaque Config.dummyDraws : Nat → Nat
/-- How many words or records the monitor gives without a COUNT (R498): of rr, log and jr. -/
opaque Config.defaultCount : Nat → Nat

end Sys2Proof
end

