-- ==== Sys2Proof/Machine/Bits.lean ====
section
/-! DEFINITION. Bits and bytes: little-endian words (R10), register fields (R11), saturating and wrapping
counters, fixed-length vectors of like units. -/

namespace Sys2Proof.Machine

/-- The number a little-endian byte string spells. -/
def leNat : List Byte → Nat
  | [] => 0
  | b :: bs => b.toNat + 256 * leNat bs

/-- `n` little-endian bytes of the number `v`. -/
def natLE : Nat → Nat → List Byte
  | 0, _ => []
  | n + 1, v => BitVec.ofNat 8 (v % 256) :: natLE n (v / 256)

/-- Bits hi:lo of a number (R11). -/
def bits (v hi lo : Nat) : Nat := (v >>> lo) % 2 ^ (hi - lo + 1)

/-- Bit n of a number. -/
def bitOf (v n : Nat) : Bool := v.testBit n

/-- A number built of fields: each (value, lo) placed at bit lo; the caller keeps values in their width. -/
def pack (fs : List (Nat × Nat)) : Nat := fs.foldl (fun a f => a + f.1 * 2 ^ f.2) 0

/-- The register word of fields (value, lo). -/
def packW (fs : List (Nat × Nat)) : Word := BitVec.ofNat 32 (pack fs)

/-- Time a is earlier than time b: their signed 64-bit difference is negative (R322). -/
def earlier (a b : Nat) : Bool := decide ((BitVec.ofNat 64 a - BitVec.ofNat 64 b).toInt < 0)

/-- A bit as a number. -/
def b2n (b : Bool) : Nat := if b then 1 else 0

/-- A counter that stops at its largest value. -/
def satInc {w : Nat} (x : BitVec w) : BitVec w := if x = BitVec.allOnes w then x else x + 1

/-- A counter that stops at its largest value, raised by n. -/
def satAdd {w : Nat} (x : BitVec w) (n : Nat) : BitVec w :=
  if 2 ^ w ≤ x.toNat + n then BitVec.allOnes w else BitVec.ofNat w (x.toNat + n)

/-- The low word of a 64-bit value. -/
def loWord (v : Nat) : Word := BitVec.ofNat 32 v

/-- The high word of a 64-bit value. -/
def hiWord (v : Nat) : Word := BitVec.ofNat 32 (v / 2 ^ 32)

/-- Unit i of a vector replaced. -/
def setV {α : Type} {n : Nat} (v : Vector α n) (i : Fin n) (x : α) : Vector α n := v.set i.1 x i.2

/-- Unit i of a vector changed by f. -/
def modV {α : Type} {n : Nat} (v : Vector α n) (i : Fin n) (f : α → α) : Vector α n := setV v i (f v[i])

/-- Signed value of a two's complement field of `w` bits. -/
def sext (w v : Nat) : Int := (BitVec.ofNat w v).toInt

/-- The bytes of a word. -/
def wordBytes (w : Word) : List Byte := natLE 4 w.toNat

/-- The words a byte string holds, little-endian, a last short word padded with zeros. -/
def bytesWords : List Byte → List Word
  | a :: b :: c :: d :: rest => BitVec.ofNat 32 (leNat [a, b, c, d]) :: bytesWords rest
  | [] => []
  | bs => [BitVec.ofNat 32 (leNat bs)]

/-- Word k of a payload, zero where it ends before. -/
def wordAt (ws : List Word) (k : Nat) : Nat := (ws.getD k 0).toNat

/-- Word k of a byte string. -/
def wordOf (bs : List Byte) (k : Nat) : Nat := leNat ((bs.drop (4 * k)).take 4)

end Sys2Proof.Machine
end

