-- ==== Sys2Proof/Machine/Mem.lean ====
section
/-! DEFINITION. Sparse memories in one canonical form: (address, value) pairs at strictly rising addresses, no
entry equal to what an unlisted address reads as. Every addressed store of the device is one of these: DRAM, the
scratchpads, the boot flash, the model store, the command, reply and window buffers, tiles, cisterns, DSP memories. -/

namespace Sys2Proof.Machine

/-- A memory of w-bit cells. -/
abbrev Cells (w : Nat) := List (Nat × BitVec w)

/-- A memory of bytes. -/
abbrev Memory := List Host.Cell

/-- Every listed address lies above `lo`, in rising order, and no cell holds the default d. -/
def Cells.wfFrom {w : Nat} (d : BitVec w) : Option Nat → Cells w → Bool
  | _, [] => true
  | lo, (a, v) :: m => (match lo with | none => true | some l => decide (l < a)) && decide (v ≠ d) && Cells.wfFrom d (some a) m

/-- The canonical form of a memory whose unlisted cells read d. -/
def Cells.wf {w : Nat} (d : BitVec w) (m : Cells w) : Bool := Cells.wfFrom d none m

/-- The canonical form of a byte memory whose unlisted bytes read d. -/
def Memory.wf (d : Byte) (m : Memory) : Bool := Cells.wf d m

/-- The cell at address a. (DESIGN CHOICE, log entry 5) -/
def Cells.get {w : Nat} (d : BitVec w) : Cells w → Nat → BitVec w
  | [], _ => d
  | (b, v) :: m, a => if a = b then v else if a < b then d else Cells.get d m a

/-- The memory with cell a set to x. -/
def Cells.put {w : Nat} (d : BitVec w) : Cells w → Nat → BitVec w → Cells w
  | [], a, x => if x = d then [] else [(a, x)]
  | (b, v) :: m, a, x =>
    if a = b then (if x = d then m else (a, x) :: m)
    else if a < b then (if x = d then (b, v) :: m else (a, x) :: (b, v) :: m)
    else (b, v) :: Cells.put d m a x

/-- The memory with the cells from address a upward set to xs. -/
def Cells.puts {w : Nat} (d : BitVec w) (m : Cells w) : Nat → List (BitVec w) → Cells w
  | _, [] => m
  | a, x :: xs => Cells.puts d (Cells.put d m a x) (a + 1) xs

/-- n cells from address a upward. -/
def Cells.gets {w : Nat} (d : BitVec w) (m : Cells w) (a : Nat) : Nat → List (BitVec w)
  | 0 => []
  | n + 1 => Cells.get d m a :: Cells.gets d m (a + 1) n

/-- The memory with n cells from address a reading the default again. -/
def Cells.clear {w : Nat} (m : Cells w) (a n : Nat) : Cells w := m.filter (fun c => c.1 < a || a + n ≤ c.1)

/-- The memory with the n cells at address a set to those at address b of another memory of the same default. -/
def Cells.blit {w : Nat} (m src : Cells w) (a b n : Nat) : Cells w :=
  m.filter (fun c => c.1 < a) ++ (src.filter fun c => b ≤ c.1 && c.1 < b + n).map (fun c => (c.1 - b + a, c.2)) ++
  m.filter (fun c => a + n ≤ c.1)

/-- The little-endian number of the n bytes at address a. -/
def Memory.num (d : Byte) (m : Memory) (a n : Nat) : Nat := leNat (Cells.gets d m a n)

end Sys2Proof.Machine
end

