-- ==== Sys2Proof/Machine/Num.lean ====
section
/-! DEFINITION. Numbers and their formats (chapter 04): exact values, the decoding of INT8, INT32, E4M3, E5M2, BF16 and
FP32 (R111, R112), exact sums, products and quotients, and the one rounding, to nearest with ties to even (R113 to
R115, R135). -/

namespace Sys2Proof.Machine

/-- An exact value: NaN, an infinity, a signed zero, or ± n/d · 2^e with n and d positive. -/
inductive Num where
  | nan
  | inf (neg : Bool)
  | zero (neg : Bool)
  | fin (neg : Bool) (n d : Nat) (e : Int)
  deriving DecidableEq, Repr

/-- The exact value of an integer. -/
def Num.ofInt (v : Int) : Num := if v = 0 then .zero false else .fin (decide (v < 0)) v.natAbs 1 0

/-- The negated value. -/
def Num.neg : Num → Num
  | .nan => .nan
  | .inf s => .inf !s
  | .zero s => .zero !s
  | .fin s n d e => .fin (!s) n d e

/-- The absolute value. -/
def Num.abs : Num → Num
  | .nan => .nan
  | .inf _ => .inf false
  | .zero _ => .zero false
  | .fin _ n d e => .fin false n d e

/-- Is the value finite? -/
def Num.isFin : Num → Bool
  | .nan => false
  | .inf _ => false
  | .zero _ => true
  | .fin _ _ _ _ => true

/-- Is the value a zero of either sign? -/
def Num.isZero : Num → Bool
  | .zero _ => true
  | _ => false

/-- Is the value negative, −0 included? -/
def Num.isNeg : Num → Bool
  | .nan => false
  | .inf s => s
  | .zero s => s
  | .fin s _ _ _ => s

/-- A signed integer with a sign bit. -/
def signed (neg : Bool) (n : Nat) : Int := if neg then -(n : Int) else n

/-- The exact sum; opposite infinities give NaN, exact cancellation +0. -/
def Num.add : Num → Num → Num
  | .nan, _ => .nan
  | _, .nan => .nan
  | .inf s, .inf t => if s = t then .inf s else .nan
  | .inf s, _ => .inf s
  | _, .inf t => .inf t
  | .zero s, .zero t => .zero (s && t)
  | .zero _, y => y
  | x, .zero _ => x
  | .fin s n d e, .fin t m c f =>
    let g := min e f
    let v := signed s n * (2 ^ (e - g).toNat * c : Nat) + signed t m * (2 ^ (f - g).toNat * d : Nat)
    if v = 0 then .zero false else .fin (decide (v < 0)) v.natAbs (d * c) g

/-- The exact difference. -/
def Num.sub (x y : Num) : Num := x.add y.neg

/-- The exact product; infinity × 0 gives NaN (R117), whatever gave the zero (R125). (DESIGN CHOICE, log entry 90) -/
def Num.mul : Num → Num → Num
  | .nan, _ => .nan
  | _, .nan => .nan
  | .inf _, .zero _ => .nan
  | .zero _, .inf _ => .nan
  | .inf s, y => .inf (s != y.isNeg)
  | x, .inf t => .inf (x.isNeg != t)
  | .zero s, y => .zero (s != y.isNeg)
  | x, .zero t => .zero (x.isNeg != t)
  | .fin s n d e, .fin t m c f => .fin (s != t) (n * m) (d * c) (e + f)

/-- The exact quotient; 0/0 and ∞/∞ give NaN, x/0 an infinity. -/
def Num.div : Num → Num → Num
  | .nan, _ => .nan
  | _, .nan => .nan
  | .inf _, .inf _ => .nan
  | .zero _, .zero _ => .nan
  | .inf s, y => .inf (s != y.isNeg)
  | x, .inf t => .zero (x.isNeg != t)
  | x, .zero t => .inf (x.isNeg != t)
  | .zero s, y => .zero (s != y.isNeg)
  | .fin s n d e, .fin t m c f => .fin (s != t) (n * c) (d * m) (e - f)

/-- Is x < y? False where either is NaN; zeros are equal. -/
def Num.lt (x y : Num) : Bool :=
  match x, y with
  | .nan, _ => false
  | _, .nan => false
  | .inf s, .inf t => s && !t
  | .inf s, _ => s
  | _, .inf t => !t
  | x, y =>
    match x.sub y with
    | .fin s _ _ _ => s
    | _ => false

/-- ± m · 2^e. -/
def Num.scaled (neg : Bool) (m : Nat) (e : Int) : Num := if m = 0 then .zero neg else .fin neg m 1 e

/-- A floating-point code of an exponent field, mantissa field of mb bits and bias, not a special one. -/
def decodeFinite (neg : Bool) (ex m mb : Nat) (bias : Int) : Num :=
  if ex = 0 then Num.scaled neg m (1 - bias - mb) else Num.scaled neg (m + 2 ^ mb) (ex - bias - mb)

/-- FP32. -/
def ofF32 (w : Word) : Num :=
  let v := w.toNat
  let s := bitOf v 31
  let ex := bits v 30 23
  let m := bits v 22 0
  if ex = 255 then (if m = 0 then .inf s else .nan) else decodeFinite s ex m 23 127

/-- BF16 in bits 15:0. -/
def ofBf16 (v : Nat) : Num := ofF32 (BitVec.ofNat 32 (v * 65536))

/-- E4M3: no infinity, NaN S.1111.111. -/
def ofE4m3 (v : Nat) : Num :=
  if bits v 6 0 = 0x7F then .nan else decodeFinite (bitOf v 7) (bits v 6 3) (bits v 2 0) 3 7

/-- E5M2. -/
def ofE5m2 (v : Nat) : Num :=
  if bits v 6 2 = 31 then (if bits v 1 0 = 0 then .inf (bitOf v 7) else .nan)
  else decodeFinite (bitOf v 7) (bits v 6 2) (bits v 1 0) 2 15

/-- INT8. -/
def ofI8 (v : Nat) : Num := Num.ofInt (sext 8 v)

/-- INT32. -/
def ofI32 (w : Word) : Num := Num.ofInt w.toInt

/-- n/d rounded to the nearest integer, ties to even. -/
def roundDiv (n d : Nat) : Nat :=
  let q := n / d
  let r := n % d
  if 2 * r < d then q else if d < 2 * r then q + 1 else if q % 2 = 0 then q else q + 1

/-- n/d · 2^k as a fraction. -/
def scaleFrac (n d : Nat) (k : Int) : Nat × Nat :=
  if 0 ≤ k then (n * 2 ^ k.toNat, d) else (n, d * 2 ^ (-k).toNat)

/-- The exponent E with 2^E ≤ n/d · 2^e < 2^(E+1). -/
def ilog (n d : Nat) (e : Int) : Int :=
  let k : Int := (Nat.log2 n : Int) - (Nat.log2 d : Int)
  let f := scaleFrac n d (-k)
  if f.1 < f.2 then k - 1 + e else k + e

/-- n/d · 2^e rounded to p significant bits with no exponent of the last place below q: integer and that exponent. (DEDUCED, log entry 13) -/
def roundBits (n d : Nat) (e : Int) (p : Nat) (q : Int) : Nat × Int :=
  let last := max (ilog n d e - (p - 1 : Nat)) q
  let f := scaleFrac n d (e - last)
  (roundDiv f.1 f.2, last)

/-- A rounded value in its code, with what R114 counts: a saturation, a non-finite conversion; `above` is an overflow to
infinity in a rounding to FP32 (R164). -/
structure Rounded where
  code : Nat
  sat  : Bool := false
  conv : Bool := false
  above : Bool := false
  deriving DecidableEq, Repr

/-- The code, without its sign, of m · 2^last in a floating-point format of mb mantissa bits and smallest last place q,
as if the exponent field had no end: the caller compares it with the largest code. -/
def packFloat (m : Nat) (last : Int) (mb : Nat) (q : Int) : Nat := (last - q).toNat * 2 ^ mb + m

/-- Rounding to FP32 (IEEE 754, R114); the one NaN it forms is that of R79 and R136. (DESIGN CHOICE, log entry 90) -/
def toF32 (x : Num) : Rounded :=
  match x with
  | .nan => { code := 0x7FC00000 }
  | .inf s => { code := b2n s * 2 ^ 31 + 0x7F800000 }
  | .zero s => { code := b2n s * 2 ^ 31 }
  | .fin s n d e =>
    let r := roundBits n d e 24 (-149)
    let c := packFloat r.1 r.2 23 (-149)
    if 0x7F800000 ≤ c then { code := b2n s * 2 ^ 31 + 0x7F800000, above := true } else { code := b2n s * 2 ^ 31 + c }

/-- An exact value rounded to binary64 (R115, R392); a sum past the largest finite value is an infinity. -/
def round64 (x : Num) : Num :=
  match x with
  | .fin s n d e =>
    let r := roundBits n d e 53 (-1074)
    if r.1 ≠ 0 ∧ 1024 ≤ ilog r.1 1 r.2 then .inf s else Num.scaled s r.1 r.2
  | x => x

/-- Rounding to BF16 as its FP32 word (R114, R135). -/
def toBf16 (x : Num) : Rounded :=
  match x with
  | .nan => { code := 0x7FC00000, conv := true }
  | .inf s => { code := b2n s * 2 ^ 31 + 0x7F800000, conv := true }
  | .zero s => { code := b2n s * 2 ^ 31 }
  | .fin s n d e =>
    let r := roundBits n d e 8 (-133)
    let c := packFloat r.1 r.2 7 (-133)
    if 0x7F80 ≤ c then { code := b2n s * 2 ^ 31 + 0x7F800000, sat := true } else { code := b2n s * 2 ^ 31 + c * 65536 }

/-- An exact value rounded to the nearest integer, ties to even. -/
def Num.toInteger : Num → Int
  | .fin s n d e => let f := scaleFrac n d e; signed s (roundDiv f.1 f.2)
  | _ => 0

/-- Rounding to a two's complement integer of w bits (R114, R135). -/
def toIntW (w : Nat) (x : Num) : Rounded :=
  let hi : Int := 2 ^ (w - 1) - 1
  let lo : Int := -(2 ^ (w - 1))
  let code (v : Int) : Nat := (BitVec.ofInt w v).toNat
  match x with
  | .nan => { code := 0, conv := true }
  | .inf s => { code := code (if s then lo else hi), conv := true }
  | .zero _ => { code := 0 }
  | .fin _ _ _ _ =>
    let v := x.toInteger
    if hi < v then { code := code hi, sat := true } else if v < lo then { code := code lo, sat := true } else { code := code v }

/-- Rounding to E4M3, saturating (R114). -/
def toE4m3 (x : Num) : Rounded :=
  match x with
  | .nan => { code := 0x7F, conv := true }
  | .inf s => { code := b2n s * 128 + 0x7F, conv := true }
  | .zero s => { code := b2n s * 128 }
  | .fin s n d e =>
    let r := roundBits n d e 4 (-9)
    let c := packFloat r.1 r.2 3 (-9)
    if 0x7E < c then { code := b2n s * 128 + 0x7E, sat := true } else { code := b2n s * 128 + c }

/-- Rounding to E5M2, saturating (R114). -/
def toE5m2 (x : Num) : Rounded :=
  match x with
  | .nan => { code := 0x7E, conv := true }
  | .inf s => { code := b2n s * 128 + 0x7C, conv := true }
  | .zero s => { code := b2n s * 128 }
  | .fin s n d e =>
    let r := roundBits n d e 3 (-16)
    let c := packFloat r.1 r.2 2 (-16)
    if 0x7B < c then { code := b2n s * 128 + 0x7B, sat := true } else { code := b2n s * 128 + c }

/-- The formats of lane values and of memory elements, as SRC_FMT codes them (R139, R141). -/
inductive Fmt where
  | i32
  | f32
  | bf16
  | i8
  | e4m3
  | e5m2
  deriving DecidableEq, Repr

/-- The format of a SRC_FMT, DST_FMT or FMT field. -/
def fmtOf : Nat → Option Fmt
  | 0 => some .i32
  | 1 => some .f32
  | 2 => some .bf16
  | 3 => some .i8
  | 4 => some .e4m3
  | 5 => some .e5m2
  | _ => none

/-- The format of a DFMT or IFMT field (R138, R143). -/
def laneFmt : Nat → Option Fmt
  | 0 => some .f32
  | 1 => some .bf16
  | 2 => some .i32
  | _ => none

/-- The format of a QFMT or ENTRY_FMT field. -/
def codeFmt : Nat → Option Fmt
  | 0 => some .i8
  | 1 => some .e4m3
  | 2 => some .e5m2
  | _ => none

/-- Bytes of an element. -/
def Fmt.size : Fmt → Nat
  | .i32 => 4
  | .f32 => 4
  | .bf16 => 2
  | .i8 => 1
  | .e4m3 => 1
  | .e5m2 => 1

/-- The exact value of an element's code. -/
def Fmt.value (f : Fmt) (v : Nat) : Num :=
  match f with
  | .i32 => ofI32 (BitVec.ofNat 32 v)
  | .f32 => ofF32 (BitVec.ofNat 32 v)
  | .bf16 => ofBf16 v
  | .i8 => ofI8 v
  | .e4m3 => ofE4m3 v
  | .e5m2 => ofE5m2 v

/-- An exact value rounded to a format; BF16 as its 16-bit code. -/
def Fmt.round (f : Fmt) (x : Num) : Rounded :=
  match f with
  | .i32 => toIntW 32 x
  | .f32 => toF32 x
  | .bf16 => let r := toBf16 x; { r with code := r.code / 65536 }
  | .i8 => toIntW 8 x
  | .e4m3 => toE4m3 x
  | .e5m2 => toE5m2 x

/-- An exact value rounded to a lane value of a lane format (R135). -/
def Fmt.lane (f : Fmt) (x : Num) : Rounded :=
  match f with
  | .bf16 => toBf16 x
  | f => f.round x

/-- The exact value of a lane, read as INT32 or as FP32. -/
def laneValue (int : Bool) (w : Word) : Num := if int then ofI32 w else ofF32 w

end Sys2Proof.Machine
end

