-- ==== Sys2Proof/Machine/StateCore.lean ====
section
/-! DEFINITION. State of the compute side: cores and radio engines (chapters 03, 05, 06), memory channels and model
store (07), rills (08). A default value of a field is its value at reset. -/

namespace Sys2Proof.Machine

/-- The states of an accumulator tile (R85). -/
inductive TileState where
  | free
  | filling
  | full
  | reading
  deriving DecidableEq, Repr

/-- An accumulator tile: its state, the raw cycle from which that state holds (R87), and 1,024 elements, element (i, j) at
32 i + j (R84). -/
structure Tile where
  st    : TileState := .free
  since : Nat := 0
  el    : Cells 32 := []
  deriving DecidableEq, Repr

/-- A codebook slot (R89, R109): valid, 256 entries or 16, entry format, entry bytes. -/
structure Codebook where
  valid : Bool := false
  big   : Bool := false
  fmt   : BitVec 2 := 0
  bytes : List Byte := []
  deriving DecidableEq, Repr

/-- What the weir formed of the operands of a pass (R391): reference sum and magnitude of each row and each column, and n
of its comparison (R392). -/
structure WeirRef where
  rows : List (Num × Num)
  cols : List (Num × Num)
  n    : Nat
  deriving DecidableEq, Repr

/-- A pass in the engine (R83, R91): the entry, the raw cycle at which it entered, INIT cycles and occupancy P, the tile it
fills, the job and period it works for, its result, the raw cycle in which an element first saturates (R79), the bytes it
reads of each STREAM basin it names and the other basins it names, the banks it reads, each with the first
and the last raw cycle, and the raw cycle in which a read of it meets a bank that is not ON, if one does (R179). -/
structure Pass where
  entry    : Entry
  entered  : Nat
  init     : Nat
  len      : Nat
  target   : Fin 4
  fp       : Bool
  job      : Option (Fin 12)
  period   : Nat
  result   : List Word
  satAt    : Option Nat
  ref      : WeirRef
  slot     : Option (Fin 2)
  reads    : List (Fin 16 × Nat)
  named    : List (Fin 16)
  spans    : List (Fin 32 × Nat × Nat)
  bad      : Option Nat := none
  slipless : Bool
  deriving DecidableEq, Repr

/-- A tile whose weir verdict is still to come, in raw cycle `due` (R393). -/
structure WeirWait where
  job    : Option (Fin 12)
  period : Nat
  due    : Nat
  agree  : Bool
  unchecked : Bool
  deriving DecidableEq, Repr

/-- The matrix engine of a core or radio engine (R85, R104 to R109). `passes` are those in flight, oldest first;
`draining` the raw cycle of the last stop request, until a pass enters again (R100), `resumed` that an entry has issued since;
`rerun` the passes to issue again (R101); `lastEnd` the raw cycle, the stated beat and the stated cycle after the last west-edge
cycle of the last pass (R94); `rampAt` the raw cycle in which the RAMP_UP of the next pass began, once it has, `rampFrom` the
one before which none begins (R97, R426); `satTo` the raw cycle up to which saturations have set SAT (R79); `bookTo` the cycle of the last accumulation that used each codebook slot (R89). The
LFSR holds zero until the first beat boundary loads it (DESIGN CHOICE, log entry 91). -/
structure Engine where
  tiles    : Vector Tile 4 := Vector.replicate 4 {}
  books    : Vector Codebook 2 := Vector.replicate 2 {}
  fenced   : Bool := false
  stopCause : BitVec 2 := 0
  sat      : Bool := false
  nonfin   : Bool := false
  seed     : BitVec 31 := 0x1B3F0C61
  lfsr     : BitVec 31 := 0
  passCnt  : Word := 0
  stopCnt  : BitVec 16 := 0
  active   : Quad := 0
  dummy    : Word := 0
  passes   : List Pass := []
  draining : Option Nat := none
  rerun    : List Entry := []
  weir     : List WeirWait := []
  lastEnd  : Option (Nat × Nat × Nat) := none
  satTo    : Nat := 0
  resumed  : Bool := false
  rampAt   : Option Nat := none
  rampFrom : Nat := 0
  bookTo   : Vector Nat 2 := Vector.replicate 2 0
  deriving DecidableEq, Repr

/-- What the roundings of a vector entry found (R114, R164, R165): flags, and how many were counted. -/
structure VecFlags where
  sat      : Bool := false
  nanCvt   : Bool := false
  nonfin   : Bool := false
  amaxZero : Bool := false
  count    : Nat := 0
  deriving DecidableEq, Repr

/-- What the entry of a vector engine writes when it commits (R157): cistern words, basin bytes, STREAM bytes consumed,
tiles released, the values a cascade leaves in the stage buffer. -/
structure VecWrites where
  cistern  : List (Nat × Word) := []
  stores   : List (Fin 16 × List Byte) := []
  releases : List (Fin 16 × Nat) := []
  tiles    : List (Fin 4) := []
  stage    : Option (List Word) := none
  deriving DecidableEq, Repr

/-- The kinds of vector entry, as VEC_STATUS MODE codes them (R164). -/
inductive VecMode where
  | idle
  | cascade
  | insn
  | cistern
  deriving DecidableEq, Repr

/-- A vector entry in progress (R133, R157): its OP, issue cycle and length, the copy of V0 to V31 taken at issue (R158),
the instruction words still to issue, the basin bytes reserved, what it will commit, and the flags it will set (R165);
`release` is the tile release of a cascade still to come and its cycle (R145); `spans` and `bad` are those of a
pass; `late` says that its basin writes wait for a
bank to wake (R179), `paused` that it pauses at a VLDT (R140). -/
structure VecEntry where
  op     : Nat
  entry  : Entry
  issued : Nat
  len    : Nat
  job    : Option (Fin 12)
  period : Nat
  left   : List (Word × Word) := []
  count  : Nat := 0
  writes : VecWrites := {}
  saved  : Vector (Vector Word 64) 32
  reserved : List (Fin 16 × Nat) := []
  flags  : VecFlags := {}
  scale  : Option Word := none
  release : Option (Fin 4 × Nat) := none
  spans  : List (Fin 32 × Nat × Nat) := []
  bad    : Option Nat := none
  late   : Bool := false
  paused : Bool := false
  slipless : Bool := false
  deriving DecidableEq, Repr

/-- The vector engine (R135, R163 to R165). `rerun` is the interrupted entry to issue again; `keep` says that its source
is in the stage buffer, its tile having been released (R158); `freeAt` is the raw cycle from which the engine takes an entry again
(R133, R158). -/
structure VecEngine where
  v         : Vector (Vector Word 64) 32 := Vector.replicate 32 (Vector.replicate 64 0)
  stage     : Cells 32 := []
  cistern   : Cells 32 := []
  entry     : Option VecEntry := none
  draining  : Option Nat := none
  mode      : VecMode := .idle
  sat       : Bool := false
  nanCvt    : Bool := false
  nonfin    : Bool := false
  amaxZero  : Bool := false
  interrupted : Bool := false
  cascCnt   : Word := 0
  insnCnt   : Word := 0
  busyCnt   : Word := 0
  satCnt    : Word := 0
  lastScale : Word := 0
  cisternClr : BitVec 16 := 0
  rerun     : Option (Nat × Entry) := none
  keep      : Bool := false
  freeAt    : Nat := 0
  deriving DecidableEq, Repr

/-- A basin (R169 to R175): defined, MODE (HOLD or not), region, pointers with their wrap bits; `cursor` counts the bytes
that passes in flight have read (R173), `reserved` those of uncommitted writes (R175); the unit that consumed it and the
port that wrote it in this beat (R174): matrix, vector, rills; vector, fabric, narrow; the raw cycle of its last append and
its bytes, which are usable from the next cycle (R67, R175), and the same of space last freed (R176). -/
structure Basin where
  defined  : Bool := false
  hold     : Bool := false
  baseKib  : Nat := 0
  sizeKib  : Nat := 0
  head     : Nat := 0
  hwrap    : Bool := false
  tail     : Nat := 0
  twrap    : Bool := false
  cursor   : Nat := 0
  reserved : Nat := 0
  consumer : Option (Fin 3) := none
  port     : Option (Fin 3) := none
  wrote    : Nat × Nat := (0, 0)
  freed    : Nat × Nat := (0, 0)
  deriving DecidableEq, Repr

/-- The states of a scratchpad bank (R178). -/
inductive BankState where
  | on
  | waking
  | sleepRet
  | sleepOff
  deriving DecidableEq, Repr

/-- A scratchpad bank (R178): its last state and the raw cycle from which it holds, and the state before. -/
structure Bank where
  st    : BankState := .on
  since : Nat := 0
  old   : BankState := .on
  deriving DecidableEq, Repr

/-- A half of an entry context (R182): the beat whose entries it holds, the entries not yet issued with their OP, complete
or not. -/
structure Half where
  beat     : Nat := 0
  entries  : List (Nat × Entry) := []
  complete : Bool := false
  deriving DecidableEq, Repr

/-- A SEQ_PUT that runs (R175, R186): its basin, the offset of its first byte, its bytes; the words written so far, the raw cycle
in which the next one reaches the narrow view, and whether it has met a sleeping bank (R179). -/
structure SeqPut where
  basin : Fin 16
  start : Nat
  bytes : List Byte
  done  : Nat := 0
  next  : Nat
  late  : Bool := false
  deriving DecidableEq, Repr

/-- The sequencer of a core or radio engine (R182, R190, R191). `owner` is the JOB_ID of the core's owner in the present beat,
none for the island and for nobody; `carried` says that the contents of the owner before stand until its carried entries have
issued (R57); `held` counts the cycles the entry at the head has held for another cause than a ramp, `putTo` is the raw cycle after the last
word of a SEQ_PUT. -/
structure Sequencer where
  holding   : Bool := false
  holdCause : BitVec 3 := 0
  held      : Nat := 0
  permitted : Bool := false
  context   : Fin 8 := 7
  owner     : Option (BitVec 8) := none
  carried   : Bool := false
  slip      : Nat := 0
  issued    : Word := 0
  mark      : Word := 0
  lateCnt   : BitVec 16 := 0
  narrowCnt : BitVec 16 := 0
  put       : Option SeqPut := none
  putTo     : Nat := 0
  halves    : Vector (Vector Half 2) 5 := Vector.replicate 5 (Vector.replicate 2 {})
  deriving DecidableEq, Repr

/-- A core (0 to 63) or radio engine (64, 65): R22, R24. `pad` is the scratchpad, `padOld` a raw cycle and the bytes that stood
before the writes of that cycle (R67, R167), `fabric` and `fabricOut` the raw cycles from which the fabric write port and the fabric
read port are free (R167, R241), `narrow` the host's narrow-view writes that wait for a bank, offset and value (R179), `useTo` the raw cycle up to which its engine time is counted (R264). -/
structure Core where
  eng    : Engine := {}
  vec    : VecEngine := {}
  seq    : Sequencer := {}
  basins : Vector Basin 16 := Vector.replicate 16 {}
  banks  : Vector Bank 32 := Vector.replicate 32 {}
  pad    : Memory := []
  padOld : Nat × List (Nat × Byte) := (0, [])
  fabric : Nat := 0
  fabricOut : Nat := 0
  narrow : List (Nat × Nat) := []
  useTo  : Nat := 0
  deriving DecidableEq, Repr

/-- Whose access it is (R232): a rill's, the extent copy's of a radio engine, a timetable fetch's, or one that only holds its tag
while it occupies the bus: a stream's or load's write, a scrub line. -/
inductive FlightKind where
  | rill
  | radio (e : Fin 2)
  | fetch (k : FetchKind)
  | own
  deriving DecidableEq, Repr

/-- An access of a channel that holds a tag or waits for its retry (R210 to R215): whose it is; rill, slot and block of its token
(of an extent copy the block is its line), the address it names, its job with JOB_ID and period, issue cycle, data; `ends` is the
raw cycle after its last burst, `slipless` says that its entry issued in its stated cycle (R53). -/
structure Flight where
  kind    : FlightKind := .rill
  rill    : Fin 32
  slot    : Fin 64
  block   : Nat
  blocks  : Nat
  addr    : Nat
  job     : Fin 12
  jid     : BitVec 8
  period  : Nat
  timed   : Bool
  write   : Bool
  issued  : Nat
  ends    : Nat
  slipless : Bool := false
  data    : List Byte := []
  zero    : Bool := false
  checked : Bool := false
  arrived : Bool := false
  retried : Bool := false
  failedAt : Nat := 0
  deriving DecidableEq, Repr

/-- An arbitrated request of a rill that waits at a channel (R246 to R249). -/
structure Request where
  job    : Fin 12
  slot   : Fin 64
  block  : Nat
  blocks : Nat
  addr   : Nat
  chan   : Fin 128
  write  : Bool
  due    : Nat
  posted : Nat
  deriving DecidableEq, Repr

/-- Does the access only hold its tag? -/
def Flight.own (f : Flight) : Bool := f.kind == .own

/-- Is it a rill's? -/
def Flight.ofRill (f : Flight) : Bool := f.kind == .rill

/-- A bank slot of a channel (R195, R200, R205): the raw cycle from which it is free, and whether a refresh of the controller occupies
it until then. -/
structure DramBank where
  busyTo : Nat := 0
  ctl    : Bool := false
  deriving DecidableEq, Repr

/-- A memory channel (R202 to R216, R230). `slots` are the 64 tags, `failed` the reads that await their retry, in the order
in which they failed, `busFree` and `cmdFree` the raw cycles from which the data bus and the command bus are free, `refLot` the last
lot in which the controller refreshed, with how many of its commands have issued and the raw cycle of the last, `scrubEnd` the raw
cycle after a scrub access, `issued` how many entries of its CHAN_TT each job has issued, by JOB_ID, `retrySlot` a retry slot that
waits for a tag, with its job and issue cycle (R213), `loadPos` how many lines of each load record the channel has written (R221). -/
structure Chan where
  rate     : BitVec 3 := 3
  needNow  : BitVec 2 := 0
  ceCnt    : Word := 0
  retryCnt : BitVec 16 := 0
  failCnt  : BitVec 16 := 0
  latLast  : BitVec 16 := 0
  latPeak  : BitVec 16 := 0
  refCnt   : Word := 0
  scrub    : BitVec 22 := 0
  slots    : Vector (Option Flight) 64 := Vector.replicate 64 none
  failed   : List Flight := []
  busFree  : Nat := 0
  cmdFree  : Nat := 0
  banks    : Vector DramBank 16 := Vector.replicate 16 {}
  refLot   : Nat := 0
  refK     : Nat := 0
  refAt    : Nat := 0
  scrubEnd : Nat := 0
  issued   : List (BitVec 8 × Nat) := []
  retrySlot : Option (Fin 12 × Nat) := none
  loadPos  : List (Nat × Nat) := []
  slip     : Nat := 0
  holding  : Bool := false
  permitted : Bool := false
  deriving DecidableEq, Repr

/-- An image extent of the extent table (R221): base, length, digest. -/
structure ImgExt where
  base   : Nat
  len    : Nat
  digest : List Byte
  deriving DecidableEq, Repr

/-- A record of a load list (R219). -/
structure LoadRec where
  device : Bool
  image  : Bool
  lba    : Nat
  base   : Nat
  len    : Nat
  deriving DecidableEq, Repr

/-- A timetable fetch under way (R238): what it fetches, for which job, its DUE and the grid cycle in which it was posted; the reads
still to be granted, address and blocks, how many have not landed, and the bytes landed with their addresses. -/
structure Fetch where
  kind   : FetchKind
  job    : Fin 12
  jid    : BitVec 8
  due    : Nat
  posted : Nat
  lines  : List (Nat × Nat)
  left   : Nat
  got    : List (Nat × List Byte) := []
  deriving DecidableEq, Repr

/-- The memory system (R195, R218 to R229, R238). `loadLeft` holds the bytes of each load record not yet written. `mr4Beat` is the beat of the latest MR4 read, `lowRun` how many reads in a row found
a lower need and `needRun` the largest of those (R208). -/
structure MemSys where
  dram      : Memory := []
  store     : Vector Memory 2 := Vector.replicate 2 []
  warm      : Bool := false
  secondFail : BitVec 16 := 0
  scrubUe   : BitVec 16 := 0
  ueAddr    : BitVec 40 := 0
  loadState : BitVec 2 := 0
  loadCause : BitVec 4 := 0
  loadRecord : BitVec 10 := 0
  loadBytes : Quad := 0
  parkValid : Bool := false
  supplyLost : Bool := false
  loadActive : Bool := false
  parkRecord : BitVec 10 := 0
  extents   : List ImgExt := []
  retained  : List ImgExt := []
  loadList  : List LoadRec := []
  loadDone  : List Bool := []
  loadLeft  : List Nat := []
  fetches   : List Fetch := []
  mr4Beat   : Option Nat := none
  needRun   : Nat := 0
  lowRun    : Nat := 0
  deriving DecidableEq, Repr

/-- Bytes of a basin that a RILL_OUT has read out for a CH_WRITE (R242): first block, raw cycle in which the read-out began. -/
structure ReadOut where
  block : Nat
  began : Nat
  bytes : List Byte
  deriving DecidableEq, Repr

/-- A descriptor in a rill queue (R233 to R245): the job it was fetched for, its slot and sequence number, its period. Once
active: the raw cycle of activation, the basin offset of its window, the blocks landed or read out, how many of them TAIL
or HEAD has passed, the blocks from its start reserved in the basin, the read-outs, the blocks written with the raw cycle after their last burst, the blocks posted. -/
structure Desc where
  job      : Fin 12
  slot     : Fin 64
  op       : Nat
  entry    : Entry
  seq      : Nat
  period   : Nat
  active   : Bool := false
  retired  : Bool := false
  failed   : Bool := false
  since    : Nat := 0
  winStart : Nat := 0
  done     : List Bool := []
  moved    : Nat := 0
  ext      : Nat := 0
  outs     : List ReadOut := []
  written  : Nat := 0
  ends     : Nat := 0
  posted   : Nat := 0
  deriving DecidableEq, Repr

/-- A completion that waits in a landing buffer (R239 to R241): job and slot of its descriptor, block of the window, bytes,
the channel and tag that it holds; `late` says that it waits for a bank to wake (R179), `permitted` that its hold for space was
found permitted (R54, R241). -/
structure Landing where
  job   : Fin 12
  slot  : Fin 64
  block : Nat
  bytes : List Byte
  timed : Bool
  chan  : Fin 128
  tag   : Fin 64
  late  : Bool := false
  permitted : Bool := false
  deriving DecidableEq, Repr

/-- A rill (R237 to R257). `fetching` holds the groups on their way from the manifest image, with their jobs (R237),
`grants` the grid cycle of the latest grants of its requests and how many fell in it (R249), `failed` that a timeout has failed a
descriptor since the last fill of the queue (R252). -/
structure Rill where
  descs    : List Desc := []
  landing  : List Landing := []
  timeout  : Bool := false
  refused  : Bool := false
  extent   : Bool := false
  token    : Bool := false
  slip     : Nat := 0
  holding  : Bool := false
  permitted : Bool := false
  retiredCnt : Word := 0
  bytes    : Quad := 0
  lateCnt  : BitVec 16 := 0
  tmo      : BitVec 20 := 0x10000
  resetAt  : Option Nat := none
  posted   : List Request := []
  fetching : List (Fin 12 × Fin 4) := []
  grants   : Nat × Nat := (0, 0)
  failed   : Bool := false
  deriving DecidableEq, Repr

end Sys2Proof.Machine
end

