-- ==== Sys2Proof/Machine/StateCtl.lean ====
section
/-! DEFINITION. State of the control island and the hub's control side: clocks and contract (chapter 02), jobs and
sequences (09), determinism (10), safety (14), power (15), reset, boot and journal (16), host interface (17),
security (18), monitor (19), module pins (20). A default value of a field is its value at reset. -/

namespace Sys2Proof.Machine

/-- The two parts of R1. (DESIGN CHOICE, log entry 4) -/
inductive Part where
  | l512
  | l256
  deriving DecidableEq, Repr

/-- The six device states of R475. -/
inductive DevState where
  | moored
  | booting
  | ready
  | running
  | degraded
  | safeStop
  deriving DecidableEq, Repr

/-- The boot configuration in force (R448, R449); the defaults are the factory defaults. -/
structure BootCfg where
  frameBeats  : Nat := 80
  proofBeats  : Nat := 2
  reserveKcyc : Nat := 5
  strict      : Bool := false
  timeSource  : Bool := false
  timePorts   : BitVec 4 := 1
  ethPorts    : BitVec 4 := 15
  uartBaud    : BitVec 4 := 0
  loadBpsk    : BitVec 16 := 0x0200
  loadQpsk    : BitVec 16 := 0x0800
  deriving DecidableEq, Repr

/-- The raw time counter (R319) and the beat grid counted on it (R36). -/
structure Clock where
  raw     : Nat := 0
  running : Bool := false
  beat    : Nat := 0
  cyc     : Nat := 0
  deriving DecidableEq, Repr

/-- Contract events and published refresh need (R57 to R65). `carried` holds the JOB_IDs whose units carried slip
across the last boundary (R57, fifth row); `refused` holds the manifest digests refused under R57; `refreshStop` that the need
exceeds 4x or a SAFETY job's multiplier, so that SAFE_STOP follows at the next boundary. -/
structure Contract where
  need        : BitVec 2 := 0
  status      : BitVec 7 := 0
  latencyCnt  : BitVec 8 := 0
  reserveCnt  : BitVec 8 := 0
  refreshCnt  : BitVec 8 := 0
  energyCnt   : BitVec 8 := 0
  slipLast    : BitVec 16 := 0
  slipPeak    : BitVec 16 := 0
  carried     : List (BitVec 8) := []
  refreshStop : Bool := false
  refused     : List (List Byte) := []
  deriving DecidableEq, Repr

/-- The fields of a manifest header (R42). -/
structure Header where
  cls           : Nat := 0
  needsStrict   : Bool := false
  runOnce       : Bool := false
  targetStep    : Nat := 0
  targetMem     : Nat := 0
  refreshMult   : Nat := 0
  frameBeats    : Nat := 0
  reserveKcyc   : Nat := 0
  windowFirst   : Nat := 0
  windowBeats   : Nat := 0
  clusters      : Nat := 0
  periodFrames  : Nat := 0
  completeBeat  : Nat := 0
  energyFrame   : Nat := 0
  energyBeatMax : Nat := 0
  sections      : Nat := 0
  bodyLen       : Nat := 0
  digest        : List Byte := []
  weights       : List Byte := []
  deriving DecidableEq, Repr

/-- One record of an EXTENTS section (R276). -/
structure Extent where
  base   : Nat
  len    : Nat
  ro     : Bool
  shared : Bool
  kind   : Nat
  lanes  : Nat
  deriving DecidableEq, Repr

/-- A lot claimed by a LOT_MAP record (R47): channel, beat of the period, lot. -/
structure Lot where
  chan : Nat
  beat : Nat
  lot  : Nat
  deriving DecidableEq, Repr

/-- A frame bound to a period (R287): context, ring slot, sequence counter, digest and flags. -/
structure Bound where
  ctx     : Fin 24
  slot    : Nat
  seq     : Word
  digest  : List Byte
  still   : Bool
  suspect : Bool
  none    : Bool
  deriving DecidableEq, Repr

/-- A period in progress or listed (R245, R267, R280, R388). `ids` are the SEQ_IDs of its list, position by position. -/
structure Period where
  index    : Nat
  disputed : Bool := false
  unproven : Bool := false
  weirPend : Nat := 0
  outsLeft : Nat := 0
  workDone : Bool := false
  doneBeat : Nat := 0
  doneCyc  : Nat := 0
  stall    : Nat := 0
  bound    : List Bound := []
  list     : List (Fin 256) := []
  ids      : List Word := []
  closing  : List (Fin 256) := []
  deriving DecidableEq, Repr

/-- When a scheduled stop takes effect (R269, R424, R425). -/
inductive StopWhen where
  | boundary
  | idleBoundary
  | windowEnd
  deriving DecidableEq, Repr

/-- A scheduled stop: cause of ISL_JOBn_STOP and the CODE and CODE_KIND of its record (R472). -/
structure StopReq where
  cause : Nat
  code  : Nat := 0
  fault : Bool := false
  at_   : StopWhen
  deriving DecidableEq, Repr

/-- An admitted job (R262, R265 to R268, R284). `streams` pairs the contexts it reads with their window bases (R313);
`past` holds the last periods that have completed, whose entries may still issue (R278). -/
structure Job where
  id        : BitVec 8
  hdr       : Header
  base      : Nat
  ctx       : Nat
  image     : Nat
  startBeat : Nat
  extents   : List Extent := []
  streams   : List (Fin 24 × Nat) := []
  lots      : List Lot := []
  beatMap   : List Bool := []
  energy    : List Nat := []
  resBase   : Nat := 0
  resLen    : Nat := 0
  prov      : Bool := false
  shares    : BitVec 10 := 100
  pendShares : Option (BitVec 10 × Word) := none
  stallThr  : Word := 0xFFFFFFFF
  used      : Quad := 0
  frameUse  : Nat := 0
  wholeFrame : Bool := false
  bal       : BitVec 64 := 0
  stall     : Word := 0
  slowdown  : BitVec 16 := 0
  lag       : BitVec 16 := 0
  periods   : Word := 0
  run       : List Period := []
  past      : List Period := []
  lateRun   : Nat := 0
  stop      : Option StopReq := none
  deriving DecidableEq, Repr

/-- A job that has ended in the present cycle, in its slot (R262, R271): until the cycle has passed it is published, and then its stop
register is written and its record sent, with its period, the cause and the record's CODE. -/
structure Leaving where
  slot   : Fin 12
  job    : Job
  period : Nat
  cause  : Nat
  code   : Nat
  fault  : Bool
  deriving DecidableEq, Repr

/-- The states of a sequence entry (R273). -/
inductive SeqState where
  | free
  | waiting
  | ready
  | listed
  | finished
  | orphaned
  deriving DecidableEq, Repr

/-- One entry of the sequence table (R273). `kept` is the state kept for SEQ_REBIND (R274). -/
structure Seq where
  id         : Word := 0
  job        : BitVec 8 := 0
  state      : SeqState := .free
  auto       : Bool := false
  kvBasin    : BitVec 4 := 0
  pos        : BitVec 6 := 0
  len        : BitVec 24 := 0
  lenMax     : BitVec 24 := 0
  kvBase     : BitVec 40 := 0
  next       : BitVec 16 := 0
  pages      : BitVec 16 := 0
  readySince : Word := 0
  kept       : SeqState := .free
  deriving DecidableEq, Repr

/-- The job slots, the sequence table and the rotating job number (R262, R273, R284). What the next cycle does: `leaving` the jobs
that have ended, `stepping` the periods that have completed, whose sequences step (R281), `once` the RUN_ONCE jobs that end (R269);
`listing` says that the present cycle builds work lists (R280). -/
structure Jobs where
  slots  : Vector (Option Job) 12 := Vector.replicate 12 none
  stops  : Vector Word 12 := Vector.replicate 12 0
  nextId : BitVec 8 := 1
  seqs   : Vector Seq 256 := Vector.replicate 256 {}
  leaving : List Leaving := []
  stepping : List (Fin 12 × BitVec 8 × Nat) := []
  once   : List (Fin 12 × BitVec 8) := []
  listing : Bool := false
  deriving DecidableEq, Repr

/-- ISL_DET_CTRL and ISL_DET_STATUS (R298, R299). `replyAt` is the raw cycle of the latest admission reply, `turned` that of the latest
change of CTL_STRICT by a write with the value before that cycle (R293). -/
structure Det where
  strict    : Bool := false
  provAll   : Bool := false
  refused   : Bool := false
  reordered : BitVec 16 := 0
  digests   : BitVec 16 := 0
  replyAt   : Option Nat := none
  turned    : Option (Nat × Bool) := none
  deriving DecidableEq, Repr

/-- The weir of a cluster (R413). Its self-tests (R399, R407): the raw cycle in which the tile of the latest began, whether
that one failed, and whether the one before failed. -/
structure Weir where
  disagree  : BitVec 16 := 0
  failCnt   : BitVec 8 := 0
  unchecked : Bool := false
  testAt    : Nat := 0
  failed    : Bool := false
  before    : Bool := false
  deriving DecidableEq, Repr

/-- The safety record of a core: transient log (R402), event that awaits its rerun (R401: frame and kind), tiles
of the rerun done in its beat (R400) and whether one was not clean, cleanness of the proof in progress (R398), a
persistent outcome that awaits its fence with its fault code (R403), the pass to rerun after a hop parity error (R405),
golden tile in flight with the raw cycle of its start (R396). -/
structure CoreSafe where
  log        : List Nat := []
  event      : Option (Nat × BitVec 3) := none
  rerun      : Option Nat := none
  rerunDirty : Bool := false
  proofDirty : Bool := false
  persistent : Option Nat := none
  hopRerun   : Option Entry := none
  golden     : Option (Fin 24 × Nat) := none
  deriving DecidableEq, Repr

/-- The safety block (R397, R411 to R413). `slotAt` is the raw cycle in which the die queue's tile slot in progress began,
`cutBeat` the proof beat whose proof a throttle has cut (R426). -/
structure Safety where
  lastFault  : BitVec 8 := 0
  faults     : BitVec 15 := 0
  fence      : BitVec 64 := 0
  suspect    : BitVec 64 := 0
  die        : Bool := false
  tile       : Fin 24 := 0
  slots      : BitVec 6 := 0
  slotAt     : Option Nat := none
  cutBeat    : Option Nat := none
  transient  : BitVec 16 := 0
  persistent : BitVec 16 := 0
  evCore     : BitVec 7 := 0
  evKind     : BitVec 3 := 0
  evOutcome  : BitVec 2 := 0
  evFrame    : BitVec 16 := 0
  corrected  : BitVec 16 := 0
  uncorr     : BitVec 16 := 0
  ages       : Vector (BitVec 4) 64 := Vector.replicate 64 15
  weirs      : Vector Weir 8 := Vector.replicate 8 {}
  cores      : Vector CoreSafe 64 := Vector.replicate 64 {}
  deriving DecidableEq, Repr

/-- The power and thermal block (R423 to R429). `acc` is the energy of the running frame so far, `hot` its hottest
reading, `budget` its budget (R423); the beats before `measured` have their energy, the frames up to `decided` their
decision (R415); `byEnergy` says that the energy ladder set THERMAL_LIMIT; `quietTo` is the raw cycle up to which a
throttle keeps the engines quiet, `windowHit` the job slot and frame of the first throttle of a window (R426). -/
structure Power where
  thermal   : Bool := false
  ladder    : Bool := false
  input     : BitVec 2 := 0
  overRun   : BitVec 4 := 0
  event     : BitVec 6 := 0
  tjShed    : BitVec 8 := 0x67
  beatUj    : Word := 0
  frameUj   : Word := 0
  budgetUj  : Word := 0
  voltMv    : BitVec 16 := 0
  curMa     : BitVec 16 := 0
  tjNow     : BitVec 12 := 0
  tjMax     : BitVec 12 := 0
  sensor    : BitVec 6 := 0
  inlet     : BitVec 12 := 0
  outlet    : BitVec 12 := 0
  throttles : BitVec 16 := 0
  sheds     : BitVec 16 := 0
  acc       : Nat := 0
  hot       : BitVec 12 := 0x800
  budget    : Nat := 0
  measured  : Nat := 0
  decided   : Nat := 0
  byEnergy  : Bool := false
  quietTo   : Option Nat := none
  windowHit : Option (Fin 12 × Nat) := none
  deriving DecidableEq, Repr

/-- The power domains of R27 that are on; hub bits: BKP, ISLAND, SENSOR, ETHER, BBDSP, RADIO0, RADIO1 (R429). -/
structure Domains where
  core   : BitVec 64 := 0
  fabric : BitVec 8 := 0
  uncore : BitVec 2 := 0
  phy    : BitVec 4 := 0
  hub    : BitVec 7 := 3
  deriving DecidableEq, Repr

/-- A reset episode (R436): governing reach, sources seen, first watchdog cause. -/
structure Episode where
  reach    : Fin 3
  seenPor  : Bool := false
  seenMrst : Bool := false
  seenWdt  : Bool := false
  wdtCause : BitVec 4 := 0
  deriving DecidableEq, Repr

/-- The reset controller (R430 to R437): sources asserted, running episode, requests that wait for their time. (DESIGN CHOICE, log entry 36) -/
structure ResetCtl where
  supplyLow  : Bool := false
  absent     : Bool := false
  mrst       : Bool := false
  wdt        : Bool := false
  refclk     : Bool := true
  episode    : Option Episode := some { reach := 0, seenPor := true }
  removal    : Bool := false
  hostReset  : Bool := false
  lockstep   : Bool := false
  clockFault : Bool := false
  deriving DecidableEq, Repr

/-- A boot-flash operation of R500 that runs: erase and program of the block at an offset, or the checks of R485; for
the host, whose data stand in the window (R463), or for the monitor, with its data. -/
structure FlashOp where
  forHost : Bool
  isCheck : Bool
  offset  : Nat := 0
  length  : Nat := 0
  data    : List Byte := []
  deriving DecidableEq, Repr

/-- Boot registers and progress (R441, R455). `step` is the step of BOOTING that runs, 0 when none does; `interval`
counts the intervals of step 6 done; `coreRst` holds the block resets in progress with the raw cycle of their writes (R440);
`flash` holds the boot flash as it was written since manufacture, `reflashed` the blocks
of the boot image among that, the others holding the production image still (R534); tally, cause, episodes, glitches and `bkpValid` lie in the backup domain. -/
structure Boot where
  cfgDefaulted : Bool := false
  cfgCause     : BitVec 3 := 0
  bkpLost      : Bool := false
  startReach   : BitVec 2 := 0
  blockRefused : Bool := false
  tally        : BitVec 3 := 0
  rstReach     : BitVec 2 := 0
  seenPor      : Bool := true
  seenMrst     : Bool := false
  seenWdt      : Bool := false
  wdtCause     : BitVec 4 := 0
  episodes     : BitVec 16 := 0
  glitches     : BitVec 16 := 0
  bkpValid     : Bool := true
  step         : Nat := 0
  interval     : Nat := 0
  warm         : Bool := false
  coreRst      : List (Fin 64 × Nat) := []
  flashOp      : Option FlashOp := none
  flash        : Memory := []
  reflashed    : List Nat := []
  deriving DecidableEq, Repr

/-- A journal or diagnostic record before it is written (R450). -/
structure JRec where
  code    : Nat
  payload : List Byte
  time    : Quad
  episode : BitVec 16
  state   : BitVec 8
  deriving DecidableEq, Repr

/-- The journal writer (R451 to R455) and the island diagnostic log (R432). `pos` is the next position of the ring,
`phase` the page-program operation in progress for the head of the queue, none for the first; `removal` the last record that
a removal lets through (R478). -/
structure Journal where
  queue   : List JRec := []
  seq     : Word := 0
  erasing : Option Nat := none
  dropped : BitVec 8 := 0
  torn    : BitVec 8 := 0
  pos     : Nat := 0
  phase   : Option (Fin 3) := none
  removal : Option JRec := none
  diag    : List JRec := []
  deriving DecidableEq, Repr

/-- The CCCR, FBR and link state of the card (R456 to R459). `resp` is what its last response gave to the host. -/
structure Card where
  ioe1     : Bool := false
  ioe2     : Bool := false
  ienm     : Bool := false
  ien1     : Bool := false
  ien2     : Bool := false
  width4   : Bool := false
  e4mi     : Bool := false
  bss      : BitVec 3 := 0
  eai      : Bool := false
  blk0     : BitVec 16 := 0
  blk1     : BitVec 16 := 0
  blk2     : BitVec 16 := 0
  selected : Bool := false
  inactive : Bool := false
  rca      : BitVec 16 := 0
  v18      : Bool := false
  tuned    : Bool := false
  init     : Bool := false
  resp     : List Byte := []
  respOk   : Bool := true
  deriving DecidableEq, Repr

/-- Function 1 and function 2 (R461 to R474, R480). `busy` covers a command between its GO and its reply; `reply`
is the reply that COMMAND_REPLY will write, `header` the opcode, tag and state of a command whose reply is not yet
formed, `storing` the device, byte and length of a STORE_WRITE without its reply (R479). `stage` holds bytes 0 to 2 last written to a register (R460). -/
structure HostIf where
  cmdBuf    : Memory := []
  replyBuf  : Memory := []
  window    : Memory := []
  stage     : Memory := []
  busy      : Bool := false
  replyReady : Bool := false
  stateChg  : Bool := false
  goIgnored : Bool := false
  replyEn   : Bool := false
  stateEn   : Bool := false
  reply     : Option (List Byte) := none
  header    : List Byte := []
  storing   : Option (Bool × Nat × Nat) := none
  stream    : List (List Byte) := []
  rseq      : Word := 1
  lost      : BitVec 16 := 0
  cmdCrc    : BitVec 16 := 0
  dataCrc   : BitVec 16 := 0
  commands  : BitVec 16 := 0
  refused   : BitVec 16 := 0
  records   : BitVec 16 := 0
  lostCnt   : BitVec 16 := 0
  portByte  : Byte := 0
  deriving DecidableEq, Repr

/-- A customer key slot of the fuses (R482, R483): the hash bits burnt and VALID. -/
structure KeySlot where
  hash  : List Byte := []
  burnt : Bool := false
  valid : Bool := false
  deriving DecidableEq, Repr

/-- A fuse operation in progress (R484). -/
inductive FuseOp where
  | program (slot : Fin 4) (hash : List Byte)
  | revoke (slot : Fin 4)
  | raise (value : Nat)
  deriving DecidableEq, Repr

/-- Fuses, running image, measurements and the fuse registers (R482 to R492). -/
structure Security where
  seed       : List Byte := []
  serial     : List Byte := []
  slots      : Vector KeySlot 4 := Vector.replicate 4 {}
  revoked    : BitVec 4 := 0
  secverMin  : Nat := 0
  runSlot    : BitVec 2 := 0
  secVersion : Word := 0
  mFw        : List Byte := List.replicate 32 0
  mCfg       : List Byte := List.replicate 32 0
  mMan       : List Byte := List.replicate 32 0
  admissions : Word := 0
  fuseData   : Vector Word 8 := Vector.replicate 8 0
  result     : BitVec 3 := 0
  fuseOp     : Option FuseOp := none
  deriving DecidableEq, Repr

/-- A line of a monitor reply (R496, R498). -/
inductive MonLine where
  | named (name : String) (value : Word)
  | reg (addr : Nat) (value : Word)
  | raw (bytes : List Byte)
  | quad (value : Quad)
  | send
  | ok
  | okValue (value : Nat)
  | err (code : Nat)
  deriving DecidableEq, Repr

/-- The serial monitor (R493 to R502). `out` is the reply of the last line; `fw` the data phase of fw: offset,
length and the bytes received. -/
structure Monitor where
  out     : List MonLine := []
  fw      : Option (Nat × Nat × List Byte) := none
  framing : BitVec 8 := 0
  lines   : BitVec 16 := 0
  deriving DecidableEq, Repr

/-- Which pin groups the module drives (R439, R478, R516), and the supplies and the input switch (R417, R510, R520). (DESIGN CHOICE, log entry 36) (DESIGN CHOICE, log entry 83) -/
structure Pins where
  sdio      : Bool := false
  ether     : Bool := false
  iq        : Bool := false
  uart      : Bool := false
  csi       : Bool := false
  mainIn    : Bool := true
  inputOn   : Bool := true
  plateHot  : Bool := false
  deriving DecidableEq, Repr

end Sys2Proof.Machine
end

