-- ==== Sys2Proof/Machine/StateHub.lean ====
section
/-! DEFINITION. State of the hub: sensor contexts, receivers, ports and filters, time (chapter 11), the baseband DSP,
the IQ port and PA control (12), the learned receivers (13). A default value of a field is its value at reset. -/

namespace Sys2Proof.Machine

/-- A frame that a context takes (R301, R308): frame number, time state at its start; once its first unit has passed
(`begun`) slot and sequence counter, the units' stamps, payload bytes in order of arrival, start and end times; after
its digest is complete (`checked`) its flags. -/
structure Frame1 where
  fn      : BitVec 16 := 0
  tstate  : BitVec 3 := 0
  begun   : Bool := false
  slot    : Nat := 0
  seq     : Word := 0
  stamps  : List Quad := []
  payload : List Byte := []
  tStart  : Quad := 0
  tEnd    : Quad := 0
  checked : Bool := false
  flags   : BitVec 3 := 0
  deriving DecidableEq, Repr

/-- A frame whose header has landed, or the current frame of a context (R29, R308, R317). -/
structure FrameInfo where
  slot   : Nat
  seq    : Word
  fn     : BitVec 16
  digest : List Byte
  flags  : BitVec 3
  tstate : BitVec 3
  deriving DecidableEq, Repr

/-- Bytes of a slot that a context has still to write (R311): the frame they belong to, address, bytes, how many of
them came from the sensor; `posted` is their DUE and the grid cycle of the posting once they are a request, `last` marks a frame's header
(R309) and `void` a request of a discarded frame (R310). -/
structure SlotWrite where
  seq    : Word
  addr   : Nat
  bytes  : List Byte
  held   : Nat
  posted : Option (Nat × Nat) := none
  last   : Bool := false
  void   : Bool := false
  deriving DecidableEq, Repr

/-- A stream context (R300 to R318, R327). `frame` is the frame in progress, `ending` those past their last unit whose
header has not landed, `landed` the one that becomes visible at the next boundary, `edge` one that landed in the last cycle of the beat and
becomes visible at the boundary after it (R29); `taken` counts the packets of an
Ethernet stream frame, `dropping` marks a discarded frame whose end is still to come; `timer` is the raw cycle at which
the frame timeout last started. -/
structure SnsCtx where
  enable   : Bool := false
  ether    : Bool := false
  receiver : Fin 8 := 0
  vc       : BitVec 2 := 0
  dt       : BitVec 6 := 0
  slotsM1  : BitVec 4 := 2
  lineUnits : BitVec 8 := 0
  maxLines : BitVec 16 := 0
  base     : BitVec 40 := 0
  pages    : BitVec 16 := 0
  rate     : BitVec 16 := 0
  tmo      : BitVec 16 := 0
  hist     : BitVec 4 := 1
  limit    : BitVec 4 := 3
  cntCheck : Bool := false
  run      : BitVec 4 := 0
  status   : BitVec 8 := 0
  discarded : BitVec 16 := 0
  missed   : BitVec 16 := 0
  counter  : Word := 0
  frame    : Option Frame1 := none
  ending   : List Frame1 := []
  landed   : Option FrameInfo := none
  edge     : Option FrameInfo := none
  current  : Option FrameInfo := none
  lastSlot : Option Nat := none
  history  : List (List Byte) := []
  lastFn   : BitVec 16 := 0
  taken    : Nat := 0
  dropping : Bool := false
  writes   : List SlotWrite := []
  timer    : Nat := 0
  deriving DecidableEq, Repr

/-- A CSI-2 receiver (R328); `other` counts the packets of other data types (R302), which no register shows. (DESIGN CHOICE, log entry 92) -/
structure Csi where
  lanes   : BitVec 2 := 2
  eccCorr : BitVec 16 := 0
  crcErr  : BitVec 16 := 0
  other   : Nat := 0
  deriving DecidableEq, Repr

/-- An Ethernet port (R329) and its part of 802.1AS (R324): completed peer-delay exchanges, the exchange that runs,
the master last announced, its rank, and whether a port is barred for its Sync interval. -/
structure Port where
  link      : Bool := false
  asCapable : Bool := false
  rxNs      : BitVec 16 := 0
  txNs      : BitVec 16 := 0
  accepted  : Word := 0
  unmatched : BitVec 16 := 0
  bad       : BitVec 16 := 0
  exchanges : Nat := 0
  pdelaySeq : Nat := 0
  pdelayWait : Nat := 0
  master    : Option (Quad × Nat) := none
  barred    : Bool := false
  sentResp  : Nat := 0
  deriving DecidableEq, Repr

/-- An Ethernet filter (R305, R329). -/
structure Filter where
  dmac   : BitVec 48 := 0
  etype  : BitVec 16 := 0
  udp    : BitVec 16 := 0
  vid    : BitVec 12 := 0
  ports  : BitVec 4 := 0
  ctx    : BitVec 5 := 0
  enable : Bool := false
  useVlan : Bool := false
  useUdp : Bool := false
  pkts   : BitVec 16 := 1
  deriving DecidableEq, Repr

/-- The sensor domain (R327 to R329). -/
structure Sensors where
  ctxs  : Vector SnsCtx 24 := Vector.replicate 24 {}
  csis  : Vector Csi 8 := Vector.replicate 8 {}
  ports : Vector Port 4 := Vector.replicate 4 {}
  filts : Vector Filter 32 := Vector.replicate 32 {}
  deriving DecidableEq, Repr

/-- Corrected time and the 802.1AS servo (R319 to R326). `syncs` counts consecutive Syncs on the slave port, `gm` the
grandmaster followed, `twoStep` the port, sequence number and raw ingress time of a two-step Sync that awaits its
Follow_Up. -/
structure TimeBase where
  offset  : Quad := 0
  anchor  : Quad := 0
  rate    : BitVec 32 := 0
  state   : BitVec 3 := 0
  stepped : Bool := false
  slave   : Option (Fin 4) := none
  err     : BitVec 32 := 0
  syncs   : Nat := 0
  gm      : Option Quad := none
  twoStep : Option (Fin 4 × Nat × Nat) := none
  deriving DecidableEq, Repr

/-- BB_DSP_STATUS STATE (R362). -/
inductive DspRun where
  | stopped
  | running
  | waiting
  | trapped
  deriving DecidableEq, Repr

/-- An address generator (R332, R336). (DESIGN CHOICE, log entry 78) -/
structure AddrGen where
  ag   : BitVec 14 := 0
  m    : BitVec 14 := 0
  l    : BitVec 14 := 0
  b    : BitVec 14 := 0
  brev : Bool := false
  deriving DecidableEq, Repr

/-- The baseband DSP (R331 to R342, R362). `acc` holds the newest accumulator values, which a MAC on the same pair
reads, `accVis` those any other reader sees; `accPend`, `dPend` are results on their way with the issues left (R337);
`shadow` the memory words a bus read of the next instruction still sees; `branches` the branches in their delay slots. (DESIGN CHOICE, log entry 5) (DESIGN CHOICE, log entry 78) -/
structure Dsp where
  prog    : Cells 32 := []
  x       : Cells 32 := []
  y       : Cells 32 := []
  c       : Cells 32 := []
  acc     : Vector (BitVec 40) 8 := Vector.replicate 8 0
  accVis  : Vector (BitVec 40) 8 := Vector.replicate 8 0
  accPend : List (Nat × Fin 8 × BitVec 40) := []
  d       : Vector Word 8 := Vector.replicate 8 0
  dPend   : List (Nat × Fin 8 × Word) := []
  shadow  : List (Fin 3 × Nat × Word) := []
  ags     : Vector AddrGen 8 := Vector.replicate 8 {}
  lc      : BitVec 16 := 0
  ls      : BitVec 14 := 0
  le      : BitVec 14 := 0
  ilr     : BitVec 14 := 0
  sr      : Word := 0
  cache   : List Word := []
  ctrlRun : Bool := false
  run     : DspRun := .stopped
  trap    : BitVec 3 := 0
  accSat  : Bool := false
  storeSat : Bool := false
  pc      : BitVec 14 := 0
  last    : BitVec 14 := 0
  branches : List (Nat × BitVec 14) := []
  irqEn   : BitVec 8 := 0
  irqPend : BitVec 8 := 0
  ints    : Bool := false
  mask    : BitVec 8 := 0
  deriving DecidableEq, Repr

/-- A transmission in progress (R350): ramp-up started in raw cycle u, ramp-down in raw cycle e once that is known,
`step` the next PA frame: 0 to 15 up, 16 to 31 down, 32 LEVEL 0. -/
structure Sending where
  u    : Nat
  e    : Option Nat
  step : Nat
  deriving DecidableEq, Repr

/-- A radio pair of the IQ port (R344 to R350, R362). Ring pointers are word addresses of X and Y memory. `arm` is an
armed transmission's beat and start cycle, `fired` the raw cycle of a start decided and still to come (R349). -/
structure IqPair where
  mode     : BitVec 2 := 0
  underrun : Bool := false
  overrun  : Bool := false
  armLate  : Bool := false
  rxBase   : BitVec 14 := 0
  rxLen    : BitVec 14 := 0
  blockLog : BitVec 4 := 8
  txBase   : BitVec 14 := 0
  txLen    : BitVec 14 := 0
  pendRx   : Option Word := none
  pendTx   : Option Word := none
  rxwp     : BitVec 14 := 0
  rxrd     : BitVec 14 := 0
  txrd     : BitVec 14 := 0
  txwp     : BitVec 14 := 0
  count    : Nat := 0
  txCount  : Nat := 0
  stamp    : Quad := 0
  arm      : Option (Nat × Nat) := none
  fired    : Option Nat := none
  tx       : Option Sending := none
  paEn     : Bool := false
  level    : BitVec 12 := 0
  sent     : Word := 0
  deriving DecidableEq, Repr

/-- The IQ port (R344, R346, R362). -/
structure IqPort where
  rate    : BitVec 2 := 1
  pendCfg : Option Word := none
  rclk    : Bool := false
  refused : Bool := false
  pll     : Bool := false
  pairs   : Vector IqPair 2 := Vector.replicate 2 {}
  ramp    : Vector (BitVec 12) 16 :=
    #v[39, 156, 345, 600, 910, 1264, 1648, 2048, 2447, 2831, 3185, 3495, 3750, 3939, 4056, 4095]
  unsup   : BitVec 16 := 0
  deriving DecidableEq, Repr

/-- A radio manifest (R365): lengths and energy of its phases, image, digest, extents (base and length in order), the entries of its
CORE_TT as admission found them (DESIGN CHOICE, log entry 91). -/
structure RadioMan where
  image   : Nat
  lenCe   : Nat
  lenDm   : Nat
  energy  : Nat
  digest  : List Byte
  extents : List (Nat × Nat) := []
  timetable : List (Nat × Entry) := []
  deriving DecidableEq, Repr

/-- A phase requested or running (R372): DM or CE, the slot's E, the raw cycle from which it may start or, once it runs, in
which it started, its deadline; whether its copy has landed, whether the copy had to wait for a basin in use (R373), and how many entries of its
timetable have issued. -/
structure Phase where
  dm       : Bool
  e        : Word
  ready    : Nat
  deadline : Word
  copied   : Bool := false
  waited   : Bool := false
  issued   : Nat := 0
  deriving DecidableEq, Repr

/-- A received slot (R378): its E, the end of its learned path with its cause, CLASSIC rung, decided, exit taken,
the words PARAM and MAP of its END doorbell. -/
structure RadioSlot where
  e       : Word
  ended   : Bool := false
  cause   : Nat := 0
  ceOk    : Bool := false
  classic : Bool := false
  decided : Bool := false
  exited  : Bool := false
  param   : Word := 0
  map     : Quad := 0
  hasEnd  : Bool := false
  hdr     : List Word := []
  deriving DecidableEq, Repr

/-- A decode (R381, R382): of a header, of a data record with its slot and path, or for the DSP's own use; soft bits. -/
inductive Decode where
  | header (soft : List Int)
  | data (slot : RadioSlot) (learned : Bool) (soft : List Int)
  | own (soft : List Int) (param : Word)
  deriving DecidableEq, Repr

/-- The learned receiver of a pair (R365 to R385). `copyPos` counts the 960-byte lines of the extent copy granted,
`copyLanded` those landed, `copyAt` the grid cycle in which the present one was posted, `copyDue` is its DUE; `ended` is a stop whose RAMP_DOWN ends at that raw cycle. -/
structure Radio where
  learnedEn : Bool := true
  exitEn    : Bool := false
  ceThr     : BitVec 8 := 0xC0
  dmThr     : BitVec 8 := 0xC0
  ceDl      : BitVec 9 := 0x19C
  dmDl      : BitVec 8 := 0x78
  outBase   : BitVec 14 := 0x3F00
  pendCfg   : Option Word := none
  pendDl    : Option Word := none
  pendOut   : Option Word := none
  active    : Option RadioMan := none
  next      : Option RadioMan := none
  copying   : Bool := false
  copyPos   : Nat := 0
  copyLanded : Nat := 0
  copyAt    : Nat := 0
  copyDue   : Nat := 0
  doorBad   : Bool := false
  llrClamp  : Bool := false
  doorDrop  : Bool := false
  manFault  : Bool := false
  actLate   : Bool := false
  phase     : Option Phase := none
  queue     : List Phase := []
  freeAt    : Nat := 0
  slots     : List RadioSlot := []
  decoding  : Option Decode := none
  decDue    : Nat := 0
  decQueue  : List Decode := []
  refused   : List (List Byte) := []
  slotCnt   : Word := 0
  lrnCnt    : Word := 0
  lateCnt   : BitVec 16 := 0
  lowCnt    : BitVec 16 := 0
  crcFail   : BitVec 16 := 0
  lostCnt   : BitVec 16 := 0
  exitCnt   : BitVec 16 := 0
  deriving DecidableEq, Repr

end Sys2Proof.Machine
end

