-- ==== Sys2Proof/Machine/State.lean ====
section
/-! DEFINITION. The state of the K64, its faults and refusals, and the machine right after reset. -/

namespace Sys2Proof.Machine

/-- Why a step could stop with a fault. No command of the spec's table does: every one has an effect in every state. -/
inductive Fault where
  /-- Raised by nobody: no step of this model answers a fault. Safe: the machine always goes on. -/
  | none
  deriving DecidableEq, Repr

/-- Why a command could be refused. -/
inductive Refusal where
  /-- Raised by an arm of exec whose command has no meaning yet; names its mnemonic. Safe: the model stops. -/
  | notModelled (mnemonic : String)
  deriving DecidableEq, Repr

/-- Everything the spec gives the device, the queue of waiting commands, `fresh` (the raw cycle of the latest events and the register bits,
address and number, that they set in it, R16), and the counter `free` of free values
(the model's own: it tells one free value from the next, and nothing rests on its value). -/
structure State where
  part    : Part := .l512
  clk     : Clock := {}
  cfg     : BootCfg := {}
  con     : Contract := {}
  jobs    : Jobs := {}
  det     : Det := {}
  safe    : Safety := {}
  pwr     : Power := {}
  dom     : Domains := {}
  rst     : ResetCtl := {}
  boot    : Boot := {}
  jrnl    : Journal := {}
  card    : Card := {}
  host    : HostIf := {}
  sec     : Security := {}
  mon     : Monitor := {}
  pins    : Pins := {}
  dev     : DevState := .booting
  cores   : Vector Core 66 := Vector.replicate 66 {}
  rills   : Vector Rill 32 := Vector.replicate 32 {}
  chans   : Vector Chan 128 := Vector.replicate 128 {}
  mem     : MemSys := {}
  sens    : Sensors := {}
  time    : TimeBase := {}
  dsp     : Dsp := {}
  iq      : IqPort := {}
  radio   : Vector Radio 2 := Vector.replicate 2 {}
  latch   : Cells 32 := []
  fresh   : Nat × List (Nat × Nat) := (0, [])
  free    : Nat := 0
  pending : List Instr := []
  deriving DecidableEq, Repr

/-- The fuses of a module as it leaves manufacture (R482): slot 0 programmed with the hash of the production key,
the identity seed and the serial of the device, all three values the maker's. -/
def State.madeSecurity : Security :=
  { seed := Config.identitySeed, serial := Config.serial,
    slots := setV (Vector.replicate 4 {}) 0 { hash := Config.productionKeyHash, burnt := true, valid := true } }

/-- The machine right after reset: every register at its reset value, the power-on episode still open with no
source asserted, so that the next RESET_RELEASE ends it (R436, R437); nothing loaded, no command waiting. (DESIGN CHOICE, log entry 6) -/
def State.reset : State := { sec := State.madeSecurity }

end Sys2Proof.Machine
end

