-- ==== Sys2Proof/Machine/Flags.lean ====
section
/-! DEFINITION. Times, counts and status words computed from the state: the beat grid (R6, R36), corrected time
(R319), ownership of cores (R40, R259), job counts, the words of the status registers several chapters name. -/

namespace Sys2Proof.Machine

/-- The code of a device state (R475). -/
def DevState.code : DevState → Nat
  | .moored => 0
  | .booting => 1
  | .ready => 2
  | .running => 3
  | .degraded => 4
  | .safeStop => 5

/-- Cycles of a beat (R6). -/
def beatCycles : Nat := 250000

/-- ID_STEP of the stepping (R2). -/
def idStep : Nat := 0xA1

/-- ID_MEM of the part (R2). (DESIGN CHOICE, log entry 4) -/
def Part.idMem : Part → Nat
  | .l512 => 2
  | .l256 => 1

/-- Usable DRAM bytes of the part (R1, R18): 480 or 240 GiB. (DESIGN CHOICE, log entry 4) -/
def Part.dramBytes : Part → Nat
  | .l512 => 480 * 2 ^ 30
  | .l256 => 240 * 2 ^ 30

/-- Memory channels of the part (R22, R26). -/
def Part.channels : Part → Nat
  | .l512 => 128
  | .l256 => 64

/-- ISL_ID (R2). -/
def Part.islId (p : Part) : Word := packW [(0x4B64, 16), (p.idMem, 8), (idStep, 0)]

/-- Frame number of the present beat (R37). -/
def State.frame (s : State) : Nat := s.clk.beat / s.cfg.frameBeats

/-- Beat within the frame (R6). -/
def State.beatInFrame (s : State) : Nat := s.clk.beat % s.cfg.frameBeats

/-- The grid cycle of the present cycle (R246). -/
def State.grid (s : State) : Nat := s.clk.beat * beatCycles + s.clk.cyc

/-- First cycle of the retry reserve (R38). -/
def State.reserveAt (s : State) : Nat := beatCycles - 1000 * s.cfg.reserveKcyc

/-- Corrected time of raw count r, a 64-bit count (R319): the product with the count's signed difference from ANCHOR (R322) is exact, and the
shift rounds toward minus infinity. -/
def TimeBase.at_ (t : TimeBase) (r : Nat) : Quad :=
  let raw : Quad := BitVec.ofNat 64 r
  raw + t.offset + BitVec.ofInt 64 ((raw - t.anchor).toInt * t.rate.toInt / 2 ^ 40)

/-- Corrected time in the present cycle. (DESIGN CHOICE, log entry 79) -/
def State.now (s : State) : Quad := s.time.at_ s.clk.raw

/-- The job in a slot. -/
def State.job (s : State) (k : Fin 12) : Option Job := s.jobs.slots[k]

/-- All slots in order. -/
def slotsList : List (Fin 12) := List.finRange 12

/-- The admitted jobs with their slots, in slot order. -/
def Jobs.all (j : Jobs) : List (Fin 12 × Job) :=
  slotsList.filterMap fun k => (j.slots[k]).map fun x => (k, x)

/-- The state as it is published in the present cycle: the jobs that have ended in it still hold what they held (R262, R271). -/
def State.published (s : State) : State :=
  let here := s.jobs.leaving.foldl (fun v x => if (v[x.slot]).isNone then setV v x.slot (some x.job) else v) s.jobs.slots
  { s with jobs := { s.jobs with slots := here } }

/-- JOBS of ISL_ADMIT_STATE (R62). -/
def State.jobCount (s : State) : Nat := s.jobs.all.length

/-- SAFETY_JOBS of ISL_ADMIT_STATE (R62). -/
def State.safetyCount (s : State) : Nat := (s.jobs.all.filter fun x => x.2.hdr.cls == 0).length

/-- The slot of the job with a JOB_ID. -/
def State.slotOf (s : State) (id : Nat) : Option (Fin 12) :=
  (s.jobs.all.find? fun x => x.2.id.toNat == id).map (·.1)

/-- Is the job a SAFETY job (R258)? -/
def Job.isSafety (j : Job) : Bool := j.hdr.cls == 0

/-- Beats of one period (R72). -/
def Job.periodBeats (j : Job) : Nat := j.hdr.periodFrames * j.hdr.frameBeats

/-- The period of the job that a beat lies in, counted from 0 at START_BEAT (R471). -/
def Job.periodAt (j : Job) (beat : Nat) : Nat := (beat - j.startBeat) / j.periodBeats

/-- The beat of the period that a beat is. -/
def Job.beatAt (j : Job) (beat : Nat) : Nat := (beat - j.startBeat) % j.periodBeats

/-- START_BEAT has passed. -/
def Job.started (j : Job) (beat : Nat) : Bool := decide (j.startBeat ≤ beat)

/-- Does the SAFETY job's window hold this beat of the frame (R40)? -/
def Job.inWindow (j : Job) (pos : Nat) : Bool :=
  j.isSafety && decide (j.hdr.windowFirst ≤ pos) && decide (pos < j.hdr.windowFirst + j.hdr.windowBeats)

/-- Has the job a lane window (R273)? -/
def Job.serving (j : Job) : Bool := j.extents.any fun e => e.kind == 1

/-- Does a SERVICE or BACKGROUND job hold cluster k (R259)? A SAFETY job holds none. -/
def Job.holds (j : Job) (k : Nat) : Bool :=
  !j.isSafety && decide (j.base ≤ k) && decide (k < j.base + j.hdr.clusters)

/-- Does the job work on core c: a SAFETY job on all, another on its clusters (R40, R259)? -/
def Job.usesCore (j : Job) (c : Nat) : Bool := j.isSafety || j.holds (c / 8)

/-- Does the job work on rill r (R40, R47)? -/
def Job.usesRill (j : Job) (r : Nat) : Bool := j.isSafety || j.holds (r / 4)

/-- The started SAFETY job whose window holds a beat (R40). -/
def State.windowJob (s : State) (beat : Nat) : Option (Fin 12) :=
  (s.jobs.all.find? fun x => x.2.started beat && x.2.inWindow (beat % s.cfg.frameBeats)).map (·.1)

/-- Is the beat a proof-slot beat that no window takes (R39)? -/
def State.proofBeat (s : State) (beat : Nat) : Bool :=
  decide (beat % s.cfg.frameBeats < s.cfg.proofBeats) && (s.windowJob beat).isNone

/-- The job that owns cluster k in a beat (R40, R259): the window's SAFETY job, nobody in the proof slot, otherwise
the placed job, from its admission on. -/
def State.ownerOf (s : State) (k beat : Nat) : Option (Fin 12) :=
  match s.windowJob beat with
  | some w => some w
  | none =>
    if s.proofBeat beat then none
    else (s.jobs.all.find? fun x => x.2.holds k).map (·.1)

/-- ISL_ADMIT_STATE (R62). -/
def State.admitState (s : State) : Word :=
  packW [(s.con.need.toNat, 0), (s.published.safetyCount, 4), (s.published.jobCount, 8)]

/-- ISL_SLIP (R65). -/
def State.islSlip (s : State) : Word := packW [(s.con.slipLast.toNat, 0), (s.con.slipPeak.toNat, 16)]

/-- Cores with a bit set in a map. -/
def popCount (w : BitVec 64) : Nat := ((List.range 64).filter fun i => w.getLsbD i).length

/-! ### Ranges of DRAM -/

/-- Bytes of a page (R277, R307). -/
def pageBytes : Nat := 983040

/-- The start of the half of DRAM that an address lies in (R195). -/
def halfBase (a : Nat) : Nat := if 0x3C00000000 ≤ a then 0x3C00000000 else 0

/-- Two byte ranges have a byte in common. -/
def meets (a n b m : Nat) : Bool := decide (a < b + m ∧ b < a + n ∧ 0 < n ∧ 0 < m)

/-- The n bytes at a lie within the m bytes at b. -/
def within (a n b m : Nat) : Bool := decide (b ≤ a ∧ a + n ≤ b + m)

/-- A range lies in usable DRAM, in one half of it. -/
def inOneHalf (p : Part) (a n : Nat) : Bool :=
  decide (a + n ≤ p.dramBytes) && decide (a - halfBase a + n ≤ 0x3C00000000)

/-- Bytes of a manifest image (R41). -/
def Header.imageLen (h : Header) : Nat := 0x80 + h.bodyLen

/-- The ranges of DRAM that an admitted job holds: its extents but a lane window, and its image (R32, R41, R277). -/
def Job.held (j : Job) : List (Nat × Nat) :=
  (j.image, j.hdr.imageLen) :: (j.extents.filter fun e => e.kind != 1).map fun e => (e.base, e.len)

/-- Does a range meet a DRAM extent of an admitted job, its manifest image included (R41)? -/
def State.meetsJob (s : State) (a n : Nat) : Bool := s.published.jobs.all.any fun x => x.2.held.any fun r => meets a n r.1 r.2

/-- Does a range meet an extent of an admitted job, a lane window among them (R307)? -/
def State.meetsExtent (s : State) (a n : Nat) : Bool :=
  s.meetsJob a n || s.published.jobs.all.any fun x => x.2.extents.any fun e => meets a n e.base e.len

/-! ### Status words -/

/-- SAFE_STATUS (R411). -/
def State.safeStatus (s : State) : Word :=
  packW [(popCount s.safe.fence, 0),
    ((s.safe.cores.toList.filter fun c => c.event.isSome).length, 8), (s.safe.lastFault.toNat, 16)]

/-- BOOT_STATUS (R455). -/
def State.bootStatus (s : State) : Word :=
  packW [(b2n s.boot.cfgDefaulted, 0), (s.boot.cfgCause.toNat, 1), (b2n (s.dev == .moored), 4), (b2n s.boot.bkpLost, 5),
    (s.boot.startReach.toNat, 6), (b2n s.boot.blockRefused, 8)]

/-- PWR_STATUS (R429). -/
def State.pwrStatus (s : State) : Word :=
  packW [(b2n s.pwr.thermal, 0), (b2n s.pwr.ladder, 1), (s.pwr.input.toNat, 4), (s.pwr.overRun.toNat, 8)]

/-- MEM_PARK (R229). -/
def State.memPark (s : State) : Word :=
  packW [(b2n s.mem.parkValid, 0), (b2n s.mem.supplyLost, 1), (b2n s.mem.loadActive, 2), (s.mem.parkRecord.toNat, 3)]

/-- MEM_LOAD_STATUS (R229). -/
def State.memLoadStatus (s : State) : Word :=
  packW [(s.mem.loadState.toNat, 0), (s.mem.loadCause.toNat, 4), (s.mem.loadRecord.toNat, 8)]

/-- Is the device in a state of BOOTING from its step n on, or past BOOTING, or MOORED? -/
def State.atStep (s : State) (n : Nat) : Bool :=
  s.rst.episode.isNone && (s.dev != .booting || decide (n ≤ s.boot.step))

/-- Hub domain n is on (R418, R429): 2 SENSOR, 3 ETHER, 4 BBDSP, 5 and 6 the radio engines. -/
def State.hubOn (s : State) (n : Nat) : Bool := s.dom.hub.getLsbD n

/-- A power domain of a core is on (R418). -/
def State.coreOn (s : State) (c : Nat) : Bool := s.dom.core.getLsbD c

/-- The device is parked (R225): PARK_VALID stands and no start is under way. -/
def State.parked (s : State) : Bool := s.mem.parkValid && s.dev != .booting && s.dev != .moored

end Sys2Proof.Machine
end

