-- ==== Sys2Proof/Machine/Hash.lean ====
section
/-! DEFINITION. Check words and digests: CRC-32C (R448), the CRC-8 of the Hawser header (R355), CRC-16 and SEC-DED
are the wire's own; SHA3-256 of FIPS 202 (R481). -/

namespace Sys2Proof.Machine

/-- One bit of a reflected CRC-32C. -/
def crcBit (c : Word) : Word := if c.getLsbD 0 then (c >>> 1) ^^^ 0x82F63B78#32 else c >>> 1

/-- n bits of a reflected CRC-32C. -/
def crcBits : Nat → Word → Word
  | 0, c => c
  | n + 1, c => crcBits n (crcBit c)

/-- The CRC-32C register after a byte. -/
def crcByte (c : Word) (b : Byte) : Word := crcBits 8 (c ^^^ b.setWidth 32)

/-- CRC-32C of a byte string (R448). -/
def crc32c (bs : List Byte) : Word := (bs.foldl crcByte 0xFFFFFFFF#32) ^^^ 0xFFFFFFFF#32

/-- The CRC-8 of R355 over bits in sending order: x^8 + x^2 + x + 1, initial 0xFF, no final XOR. -/
def crc8 (bs : List Bool) : Byte :=
  bs.foldl (fun c b => if (c.getLsbD 7) != b then (c <<< 1) ^^^ 0x07#8 else c <<< 1) 0xFF#8

/-- The Keccak state: 25 lanes, lane (x, y) at place x + 5 y. -/
abbrev Lanes := List Quad

/-- The lane at a place. -/
def lane (a : Lanes) (i : Nat) : Quad := a.getD i 0

/-- The parity of column x. -/
def columnParity (a : Lanes) (x : Nat) : Quad := (List.range 5).foldl (fun p y => p ^^^ lane a (x + 5 * y)) 0

/-- The step theta: every lane takes in the parities of the column before its own and of the one after it. -/
def keccakTheta (a : Lanes) : Lanes :=
  let p := (List.range 5).map (columnParity a)
  a.zipIdx.map fun q => q.1 ^^^ lane p ((q.2 + 4) % 5) ^^^ (lane p ((q.2 + 1) % 5)).rotateLeft 1

/-- The place to which pi moves the lane at place i: (x, y) goes to (y, 2x + 3y). -/
def piPlace (i : Nat) : Nat := i / 5 + 5 * ((2 * (i % 5) + 3 * (i / 5)) % 5)

/-- The steps rho and pi along the one cycle that pi makes of all places but the first: the t-th lane on it, from place 1 on, is rotated by
(t + 1)(t + 2)/2 bits and moves to the next place. -/
def keccakMove (a : Lanes) : Lanes :=
  ((List.range 24).foldl (fun (x : Nat × Lanes) t =>
    (piPlace x.1, x.2.set (piPlace x.1) ((lane a x.1).rotateLeft ((t + 1) * (t + 2) / 2 % 64)))) (1, a)).2

/-- The step chi along the rows. -/
def keccakChi (a : Lanes) : Lanes :=
  a.zipIdx.map fun q =>
    let row := q.2 - q.2 % 5
    q.1 ^^^ (lane a (row + (q.2 + 2) % 5) &&& ~~~ lane a (row + (q.2 + 1) % 5))

/-- One step of the shift register that gives the bits of the round constants. -/
def keccakLfsr (r : Byte) : Byte := if r.getLsbD 7 then (r <<< 1) ^^^ 0x71 else r <<< 1

/-- A round constant and the register after it: bit 2^j − 1 is the register's lowest bit after j steps, j from 0 to 6. -/
def roundConst (r : Byte) : Quad × Byte :=
  (List.range 7).foldl (fun x j => (if x.2.getLsbD 0 then x.1 ^^^ BitVec.twoPow 64 (2 ^ j - 1) else x.1, keccakLfsr x.2)) (0, r)

/-- n rounds from a state of the register. -/
def keccakRounds : Nat → Byte → Lanes → Lanes
  | 0, _, a => a
  | n + 1, r, a =>
    let c := roundConst r
    let a := keccakChi (keccakMove (keccakTheta a))
    keccakRounds n c.2 (a.set 0 (lane a 0 ^^^ c.1))

/-- Keccak-f[1600]. -/
def keccakF (a : Lanes) : Lanes := keccakRounds 24 1 a

/-- The 17 lanes of a 136-byte block. -/
def blockLanes : Nat → List Byte → Lanes
  | 0, _ => []
  | n + 1, bs => BitVec.ofNat 64 (leNat (bs.take 8)) :: blockLanes n (bs.drop 8)

/-- A block absorbed. -/
def absorb (a : Lanes) (block : List Byte) : Lanes :=
  let b := blockLanes 17 block
  keccakF ((List.range 25).map fun i => if i < 17 then lane a i ^^^ lane b i else lane a i)

/-- n blocks absorbed. -/
def absorbAll : Nat → Lanes → List Byte → Lanes
  | 0, a, _ => a
  | n + 1, a, bs => absorbAll n (absorb a (bs.take 136)) (bs.drop 136)

/-- The padded message of SHA3-256: 0x06, zeros, 0x80 in the last byte of the block. -/
def sha3Pad (bs : List Byte) : List Byte :=
  let r := 136 - bs.length % 136
  if r = 1 then bs ++ [0x86] else bs ++ 0x06 :: (List.replicate (r - 2) 0 ++ [0x80])

/-- SHA3-256 (R481). -/
def sha3 (bs : List Byte) : List Byte :=
  let a := absorbAll (bs.length / 136 + 1) (List.replicate 25 0) (sha3Pad bs)
  (a.take 4).flatMap fun l => natLE 8 l.toNat

end Sys2Proof.Machine
end

