-- ==== Sys2Proof/Machine/Ops.lean ====
section
/-! DEFINITION. The shared operations of the control island: result records (R471 to R473), the journal queue (R450,
R454), state changes (R475, R476), contract events (R58), faults (R408), the end of a job (R271, R274), stops of the
engines (R99), island kills (R57) and the entry to SAFE_STOP (R409). -/

namespace Sys2Proof.Machine

/-- The next free value of the state, by an opaque function of the counter. (DESIGN CHOICE, log entry 7) -/
def State.takeFree (s : State) : State := { s with free := s.free + 1 }

/-- Bytes that wait in the result stream (R470). -/
def HostIf.fill (h : HostIf) : Nat := (h.stream.map List.length).sum

/-- Bytes of the stream a record of this KIND may fill: STATE, SAFE_STOP and FAULT records all of it (R473). -/
def streamLimit (kind : Nat) : Nat := if kind == 8 || kind == 6 || kind == 5 then 262144 else 262144 - 4096

/-! ### Events and clears of one cycle (R16) -/

/-- The registers that hold event bits (W1C and W1CS): the first address, the step to the next of its kind, how many there are, and the
bits an event sets. -/
def eventRegs : List (Nat × Nat × Nat × Word) :=
  [(0xF000000114, 1, 1, 0x7F), (0xF000000130, 1, 1, 4), (0xF020000004, 0x1000, 66, 0x30000), (0xF021000004, 0x1000, 66, 0x1F0000),
    (0xF030000020, 1, 1, 2), (0xF032000004, 0x1000, 32, 0xF00000), (0xF041000020, 0x100, 24, 0xFF), (0xF050000004, 1, 1, 0x30000),
    (0xF050000014, 1, 1, 0x7F00), (0xF051000010, 0x100, 2, 0x1F00), (0xF060000004, 1, 1, 0x7FFF), (0xF070000004, 1, 1, 0x3F),
    (0xF080000000, 1, 1, 0x100), (0x2004, 1, 1, 0x700)]

/-- The event bits of the register at address a; none in another. -/
def eventBits (a : Nat) : Word :=
  match eventRegs.find? (fun r => decide (r.1 ≤ a) && (a - r.1) % r.2.1 == 0 && decide ((a - r.1) / r.2.1 < r.2.2.1)) with
  | some r => r.2.2.2
  | none => 0

/-- A hardware event sets bit b of the W1C or W1CS register at address a: a clear in the same cycle leaves the bit set (R16). -/
def note (a b : Nat) (s : State) : State :=
  let l := if s.fresh.1 = s.clk.raw then s.fresh.2 else []
  { s with fresh := (s.clk.raw, if l.contains (a, b) then l else (a, b) :: l) }

/-- An event, if it has come. -/
def noteIf (c : Bool) (a b : Nat) (s : State) : State := if c then note a b s else s

/-- The events that the low w bits of v name. -/
def noteBits (a v w : Nat) (s : State) : State := (List.range w).foldl (fun s b => noteIf (bitOf v b) a b s) s

/-- A written word less the bits that an event of the present cycle has set in the register at address a (R16). -/
def State.unset (s : State) (a : Nat) (v : Word) : Word :=
  if s.fresh.1 = s.clk.raw then
    s.fresh.2.foldl (fun v x => if x.1 = a ∧ (eventBits a).getLsbD x.2 then v &&& ~~~BitVec.twoPow 32 x.2 else v) v
  else v

/-- What a record carries beside its payload (R471). -/
structure RecordHead where
  kind   : Nat
  flags  : Nat := 0
  job    : Nat := 0
  period : Nat := 0
  seqId  : Word := 0
  digest : Option (List Byte) := none
  deriving DecidableEq, Repr

/-- The bytes of a record (R471), formed in a beat, with its CRC-32C. -/
def recordBytes (rseq : Word) (beat : Nat) (h : RecordHead) (payload : List Byte) : List Byte :=
  let pad := payload ++ List.replicate ((4 - payload.length % 4) % 4) 0
  let dig := h.digest.getD []
  let len := 36 + dig.length + pad.length
  let body := natLE 4 rseq.toNat ++ natLE 4 (pack [(h.kind, 0), (h.flags, 8), (b2n h.digest.isSome, 14), (h.job, 16)])
    ++ natLE 4 len ++ natLE 4 h.period ++ natLE 8 beat ++ natLE 4 h.seqId.toNat ++ natLE 4 0 ++ dig ++ pad
  body ++ wordBytes (crc32c body)

/-- A record is formed: its RSEQ is used, and it enters the stream or is dropped and counted (R471, R473). -/
def emit (h : RecordHead) (payload : List Byte) (s : State) : State :=
  let r := recordBytes s.host.rseq s.clk.beat h payload
  let fits := decide (s.host.fill + r.length ≤ streamLimit h.kind)
  { s with host := { s.host with
      rseq := s.host.rseq + 1
      records := s.host.records + 1
      stream := if fits then s.host.stream ++ [r] else s.host.stream
      lost := if fits then s.host.lost else satInc s.host.lost
      lostCnt := if fits then s.host.lostCnt else satInc s.host.lostCnt } }

/-- A journal or diagnostic record of an event (R450): time, episode and state at the event. (DESIGN CHOICE, log entry 11) -/
def State.jrec (s : State) (code : Nat) (info : List Nat) : JRec :=
  { code := code, payload := (Config.journalPayload code info).take 36, time := s.now,
    episode := s.boot.episodes, state := BitVec.ofNat 8 s.dev.code }

/-- A record is queued for the journal, or dropped and counted when 64 wait (R454). (DESIGN CHOICE, log entry 11) -/
def journal (code : Nat) (info : List Nat) (s : State) : State :=
  if 64 ≤ s.jrnl.queue.length then { s with jrnl := { s.jrnl with dropped := satInc s.jrnl.dropped } }
  else { s with jrnl := { s.jrnl with queue := s.jrnl.queue ++ [s.jrec code info] } }

/-- A record enters the island diagnostic log, which keeps the newest 256 (R432). -/
def diagnose (code : Nat) (info : List Nat) (s : State) : State :=
  { s with jrnl := { s.jrnl with diag := (s.jrnl.diag ++ [s.jrec code info]).drop (s.jrnl.diag.length + 1 - 256) } }

/-- A change of device state: STATE_CHG, a STATE record, a journal record of CODE 0x05, once (R475, R476). -/
def setDev (d : DevState) (s : State) : State :=
  if s.dev = d then s
  else
    let old := s.dev.code
    let s1 := note 0x2004 9 { s with dev := d, host := { s.host with stateChg := true } }
    journal 5 [old, d.code] (emit { kind := 8 } (natLE 4 (pack [(old, 0), (d.code, 8)])) s1)

/-- The period a job is in, 0 before it starts. -/
def State.periodOf (s : State) (k : Fin 12) : Nat :=
  match s.job k with
  | none => 0
  | some j => j.periodAt s.clk.beat

/-- JOB_ID of a slot, 0 for none. -/
def State.idOf (s : State) (k : Option (Fin 12)) : Nat :=
  match k with
  | none => 0
  | some k => match s.job k with
    | none => 0
    | some j => j.id.toNat

/-- A contract event (R58): its status bit, its counter, a journal record and an event record with ISL_SLIP. -/
def contractEvent (bit : Nat) (k : Option (Fin 12)) (s : State) : State :=
  let c := s.con
  let c := { c with
    status := c.status ||| BitVec.ofNat 7 (2 ^ bit)
    latencyCnt := if bit == 0 then satInc c.latencyCnt else c.latencyCnt
    reserveCnt := if bit == 1 then satInc c.reserveCnt else c.reserveCnt
    refreshCnt := if bit == 3 then satInc c.refreshCnt else c.refreshCnt
    energyCnt := if bit == 4 then satInc c.energyCnt else c.energyCnt }
  let s := journal 3 [bit, s.idOf k] (note 0xF000000114 bit { s with con := c })
  let p := match k with | none => 0 | some k => s.periodOf k
  emit { kind := 4, job := s.idOf k, period := p } (natLE 4 bit ++ wordBytes s.islSlip) s

/-- A fault (R408): SAFE_FAULT, LAST_FAULT, a journal record, a fault record. (DEDUCED, log entry 85) -/
def raiseFault (code unit detail : Nat) (k : Option (Fin 12)) (s : State) : State :=
  let s := note 0xF060000004 code { s with safe := { s.safe with
    lastFault := BitVec.ofNat 8 code, faults := s.safe.faults ||| BitVec.ofNat 15 (2 ^ code) } }
  let p := match k with | none => 0 | some k => s.periodOf k
  emit { kind := 5, job := s.idOf k, period := p } (natLE 4 code ++ natLE 4 unit ++ natLE 4 detail)
    (journal 4 [code, unit, detail] s)

/-- A tile that the vector engine may read (R85, R86). -/
def Tile.readable (now : Nat) (t : Tile) : Bool := (t.st == .full || t.st == .reading) && decide (t.since ≤ now)

/-- The raw cycle in which the next instruction of a block issues (R137): pauses have lengthened the entry. -/
def VecEntry.issueAt (v : VecEntry) : Nat := v.issued + (v.len - v.left.length)

/-- The raw cycle of a pass's last accumulation (R83). -/
def Pass.last (p : Pass) : Nat := p.entered + p.len + 13

/-- A stop drains the engine: passes that it interrupted are not discarded yet (R100). -/
def Engine.stopping (g : Engine) : Bool :=
  match g.draining with
  | none => false
  | some t => g.passes.any fun p => decide (t < p.last)

/-- Does a block of instructions pause at a VLDT of a tile that cannot be read (R140)? -/
def Core.pausing (c : Core) : Bool :=
  match c.vec.entry with
  | none => false
  | some v =>
    match v.left with
    | [] => false
    | x :: _ => v.op == 9 && bits x.1.toNat 7 0 == 0x0C && c.vec.draining.isNone &&
        !(c.eng.tiles[(Fin.ofNat 4 (bits x.2.toNat 1 0))]).readable v.issueAt

/-- A stop requested of a core in raw cycle t (R99): a pass whose last accumulation is still to come is interrupted,
and so is a vector entry whose last cycle is still to come or that pauses (R140, R158, R159). What an earlier stop drains, a
second one leaves as it is. -/
def Core.stopAt (t cause : Nat) (c : Core) : Core :=
  let eng := if !c.eng.stopping && c.eng.passes.any (fun p => decide (t < p.last))
    then { c.eng with draining := some t, resumed := false, rampAt := none, stopCause := BitVec.ofNat 2 cause } else c.eng
  let vec := match c.vec.entry with
    | none => c.vec
    | some e =>
      if c.vec.draining.isNone && (decide (t + 1 < e.issued + e.len) || (c.pausing && decide (e.issueAt ≤ t)))
      then { c.vec with draining := some t } else c.vec
  { c with eng := eng, vec := vec }

/-- Is a pass or vector entry of the job in progress on the core? -/
def Core.worksFor (k : Fin 12) (c : Core) : Bool :=
  c.eng.passes.any (fun p => p.job == some k) ||
  (match c.vec.entry with | none => false | some e => e.job == some k)

/-- The job's passes and vector entries are stopped in the present cycle (R99). -/
def stopEngines (k : Fin 12) (cause : Nat) (s : State) : State :=
  { s with cores := s.cores.map fun c => if c.worksFor k then c.stopAt s.clk.raw cause else c }

/-- An entry of the sequence table when its job ends (R274). -/
def Seq.orphan (id : BitVec 8) (closing : Bool) (q : Seq) : Seq :=
  if q.job ≠ id then q
  else
    match q.state with
    | .listed =>
      if closing then {}
      else { q with state := .orphaned, job := 0, kept := if q.auto then .ready else .waiting }
    | .waiting => { q with state := .orphaned, job := 0, kept := .waiting }
    | .ready => { q with state := .orphaned, job := 0, kept := .ready }
    | _ => q

/-- A core's context of an ended job is emptied; where its entries issued, nothing holds or issues again (R188, R190). -/
def Core.dropContext (j : Job) (c : Core) : Core :=
  let c := { c with seq := { c.seq with halves := setV c.seq.halves (Fin.ofNat 5 j.ctx) (Vector.replicate 2 {}) } }
  if c.seq.owner == some j.id || c.seq.carried then
    { c with
      seq := { c.seq with holding := false, holdCause := 0, held := 0, permitted := false }
      eng := { c.eng with rerun := [], rampAt := none }
      vec := { c.vec with rerun := none, keep := false } }
  else c

/-- The job's entries, descriptors, fetches and waiting completions are discarded when it ends (R188). -/
def dropWork (k : Fin 12) (j : Job) (s : State) : State :=
  { s with
    chans := s.chans.map fun c => { c with issued := c.issued.filter (·.1 != j.id) }
    mem := { s.mem with fetches := s.mem.fetches.filter (·.job != k) }
    cores := s.cores.mapIdx fun i c => if i < 64 && j.usesCore i then c.dropContext j else c
    rills := s.rills.map fun r =>
      { r with descs := r.descs.filter (·.job != k), landing := r.landing.filter (·.job != k),
               posted := r.posted.filter (·.job != k), fetching := r.fetching.filter (·.1 != k) } }

/-- Which of its sequences a job is about to close. -/
def Job.closing (j : Job) : List (Fin 256) := j.run.flatMap (·.closing)

/-- The LIST extent of a serving job (R276). -/
def Job.listExt (j : Job) : Option Extent := j.extents.find? (·.kind == 2)

/-- The beat in cycle 0 of which the list of period idx is built (R280). -/
def Job.listBeat (j : Job) (idx : Nat) : Nat :=
  if idx = 0 then j.startBeat - 1 else j.startBeat + (idx - 1) * j.periodBeats + j.hdr.completeBeat + 1

/-- The first period whose list is built after a beat's cycle 0 (R274). -/
def Job.listAfter (j : Job) (beat : Nat) : Nat :=
  if beat < j.listBeat 0 then 0
  else if beat < j.listBeat 1 then 1
  else (beat - j.listBeat 1) / j.periodBeats + 2

/-- The next period of a job to be listed (R274): in the cycle that builds its list, the one that the list is for. -/
def State.nextList (s : State) (j : Job) : Nat :=
  let n := j.listAfter s.clk.beat
  if s.jobs.listing && decide (0 < n) && j.listBeat (n - 1) == s.clk.beat then n - 1 else n

/-- A listed entry after its step (R274): DONE is the job's DONE byte. -/
def Seq.stepped (next : Nat) (done : Byte) (q : Seq) : Seq :=
  let sum := q.len.toNat + q.next.toNat
  if done = 0 ∧ sum ≤ q.lenMax.toNat then
    { q with len := BitVec.ofNat 24 sum, state := if q.auto then .ready else .waiting,
             readySince := if q.auto then BitVec.ofNat 32 next else q.readySince, pos := 0 }
  else { q with len := if sum ≤ q.lenMax.toNat then BitVec.ofNat 24 sum else q.len, state := .finished, pos := 0 }

/-- The changes of the sequence table at the end of a period (R274, R281). -/
def stepSeqs (j : Job) (p : Period) (s : State) : State :=
  let base := match j.listExt with | none => 0 | some e => e.base + 4096 * (p.index % 2)
  let next := s.nextList j
  let seqs := p.list.zipIdx.foldl (fun v x =>
    let done := Cells.get 0 s.mem.dram (base + 0x40 + 32 * x.2 + 0x1C)
    modV v x.1 fun q => if p.closing.contains x.1 then {} else q.stepped next done) s.jobs.seqs
  { s with jobs := { s.jobs with seqs := seqs } }

/-- The sequences of the completed periods of jobs step (R281). -/
def stepPeriods (xs : List (Fin 12 × BitVec 8 × Nat)) (s : State) : State :=
  xs.foldl (fun s x => match s.job x.1 with
    | none => s
    | some j =>
      if j.id != x.2.1 then s
      else match (j.run ++ j.past).find? (·.index == x.2.2) with
        | none => s
        | some p => stepSeqs j p s) s

/-- A job ends in the present cycle: its work is discarded and its sequences are orphaned (R188, R274), those of a period
that has completed after they have stepped; the cycle after does the rest (R271). -/
def finishJob (k : Fin 12) (cause code : Nat) (fault : Bool) (s : State) : State :=
  match s.job k with
  | none => s
  | some j =>
    let mine := s.jobs.stepping.filter fun x => x.1 == k && x.2.1 == j.id
    let s := dropWork k j (stepPeriods mine s)
    let cl := j.closing
    { s with jobs := { s.jobs with
      slots := setV s.jobs.slots k none
      seqs := s.jobs.seqs.mapIdx fun i q => q.orphan j.id (cl.any (·.1 == i))
      stepping := s.jobs.stepping.filter fun x => x.1 != k
      leaving := s.jobs.leaving ++
        [{ slot := k, job := j, period := j.periodAt s.clk.beat, cause := cause, code := code, fault := fault }] } }

/-- The cycle after a job has ended (R271): its slot is free, the stop register is written, a stop or completion record is sent. -/
def freeJob (x : Leaving) (s : State) : State :=
  let id := x.job.id.toNat
  let s := { s with jobs := { s.jobs with stops := setV s.jobs.stops x.slot (packW [(x.cause, 0), (id, 8)]) } }
  if x.cause == 6 then emit { kind := 2, job := id, period := x.period } [] s
  else emit { kind := 3, job := id, period := x.period } (natLE 4 (pack [(x.cause, 0), (x.code, 8), (b2n x.fault, 16)])) s

/-- From RUNNING, the end of the last job makes the device READY, in the cycle after (R475). -/
def settle (s : State) : State := if s.dev = .running ∧ s.jobCount = 0 then setDev .ready s else s

/-- An island kill of a job (R57, R99, R269): its engines stop at once and the job ends with CAUSE 3. (DEDUCED, log entry 45) -/
def killJob (k : Fin 12) (code : Nat) (fault : Bool) (s : State) : State :=
  finishJob k 3 code fault (stopEngines k 3 s)

/-- Every job is ended by f, in slot order. -/
def forJobs (f : Fin 12 → State → State) (ks : List (Fin 12)) (s : State) : State := ks.foldl (fun s k => f k s) s

/-- Armed transmissions are cancelled and a running one starts its ramp-down now (R409, R478). -/
def IqPair.cut (t : Nat) (p : IqPair) : IqPair :=
  { p with
    arm := none
    fired := none
    tx := p.tx.map fun x => if x.e.isNone || x.step < 16 then { x with e := some t, step := max x.step 16 } else x }

/-- Every armed transmission is cancelled (R409). -/
def cutTransmissions (s : State) : State :=
  { s with iq := { s.iq with pairs := s.iq.pairs.map (IqPair.cut s.clk.raw) } }

/-- Bytes that nothing determines, one for each of n addresses. (DESIGN CHOICE, log entry 7) -/
def freeBytes (free : Nat) : Nat → List Byte
  | 0 => []
  | n + 1 => Config.freeByte (free + n) :: freeBytes free n

/-- The journal writer works (R441, R451, R478): out of reset, from step 2 of BOOTING on, not in MOORED, and while the gangway
is released only until the removal record is written. (DEDUCED, log entry 53) -/
def State.journaling (s : State) : Bool :=
  s.atStep 3 && s.dev != .moored && (match s.jrnl.removal with | none => true | some r => s.jrnl.queue.contains r)

/-- The LBA range of a STORE_WRITE in progress is undefined (R479). -/
def cutStore (f : Nat) (s : State) : State :=
  match s.host.storing with
  | none => s
  | some (d, a, n) =>
    let i : Fin 2 := if d then 1 else 0
    { s with
      mem := { s.mem with store := modV s.mem.store i fun m => Cells.puts 0 m a (freeBytes f n) }
      host := { s.host with storing := none } }

/-- A flash, fuse, journal or store write that a reset or power loss cuts (R453, R479, R483): its bytes are free values,
a fuse slot is programmed or DAMAGED, a revocation whole or not at all, a raise some value up to the one asked. -/
def cutWrites (s : State) : State :=
  let f := s.free
  let s := match s.boot.flashOp with
    | some op => if op.isCheck then s else
        { s with boot := { s.boot with
          flash := Cells.puts 0xFF s.boot.flash op.offset (freeBytes f 65536)
          reflashed := op.offset / 65536 :: s.boot.reflashed } }
    | none => s
  let s := match s.jrnl.erasing with
    | none => s
    | some b => { s with boot := { s.boot with
        flash := Cells.puts 0xFF s.boot.flash (0x01020000 + 65536 * b) (freeBytes (f + 200000) 65536) } }
  let s := if s.journaling && !s.jrnl.queue.isEmpty then
      let a := 0x01020000 + 64 * s.jrnl.pos
      let ph := s.jrnl.phase.getD 0
      let r : Nat × Nat := if ph == 0 then (a, 56) else if ph == 1 then (a + 56, 4) else (a + 60, 4)
      { s with boot := { s.boot with flash := Cells.puts 0xFF s.boot.flash r.1 (freeBytes (f + 65536) r.2) } }
    else s
  let s := cutStore (f + 65600) s
  let sec := match s.sec.fuseOp with
    | none => s.sec
    | some (.program k h) =>
      let slot : KeySlot :=
        { hash := if Config.freeBool f then h else freeBytes (f + 131200) 32, burnt := true, valid := Config.freeBool f }
      { s.sec with slots := setV s.sec.slots k slot }
    | some (.revoke k) => if Config.freeBool f then { s.sec with revoked := s.sec.revoked ||| BitVec.ofNat 4 (2 ^ k.1) } else s.sec
    | some (.raise v) => { s.sec with secverMin := s.sec.secverMin + (Config.freeWord f).toNat % (v + 1 - s.sec.secverMin) }
  { s with sec := { sec with fuseOp := none }, boot := { s.boot with flashOp := none }, free := f + 300000 }

/-- What each reach clears (R432, R433): registers of the hub and the compute dies take their reset values; RWS and
W1CS registers and the diagnostic log outlast reach 2, the journal queue reaches 1 and 2, the backup domain, the
flash, the model store, DRAM and the fuses every reach. All domains but BKP and ISLAND are off. (DESIGN CHOICE, log entry 55) (DEDUCED, log entry 59) -/
def clearFor (reach : Nat) (s : State) : State :=
  let s := cutWrites s
  { s with
    clk := {}
    cfg := {}
    con := if reach == 2 then
        { status := s.con.status, latencyCnt := s.con.latencyCnt, reserveCnt := s.con.reserveCnt,
          refreshCnt := s.con.refreshCnt, energyCnt := s.con.energyCnt }
      else {}
    jobs := {}
    det := {}
    safe := if reach == 2 then { faults := s.safe.faults } else {}
    pwr := if reach == 2 then { event := s.pwr.event } else {}
    dom := {}
    boot := { s.boot with
              cfgDefaulted := false, cfgCause := 0, bkpLost := false, startReach := 0, blockRefused := false,
              step := 0, interval := 0, warm := false, coreRst := [], flashOp := none }
    jrnl := { s.jrnl with
      queue := if reach == 0 then [] else s.jrnl.queue
      diag := if reach == 2 then s.jrnl.diag else []
      seq := 0, erasing := none, dropped := 0, torn := 0, pos := 0, phase := none, removal := none }
    card := {}
    host := {}
    sec := { s.sec with
             runSlot := 0, secVersion := 0, mFw := List.replicate 32 0, mCfg := List.replicate 32 0,
             mMan := List.replicate 32 0, admissions := 0, fuseData := Vector.replicate 8 0, result := 0 }
    mon := {}
    pins := { s.pins with sdio := false, ether := false, iq := false, uart := false, csi := false }
    dev := .booting
    cores := Vector.replicate 66 {}
    rills := Vector.replicate 32 {}
    chans := Vector.replicate 128 {}
    mem := { dram := s.mem.dram, store := s.mem.store, parkValid := s.mem.parkValid, supplyLost := s.mem.supplyLost,
             loadActive := s.mem.loadActive, parkRecord := s.mem.parkRecord, retained := s.mem.retained }
    sens := {}
    time := {}
    dsp := {}
    iq := {}
    radio := Vector.replicate 2 {}
    latch := []
    fresh := (0, []) }

/-- The reset sources of the reset controller (R430). -/
inductive Source where
  | por
  | mrst
  | wdt (cause : BitVec 4)
  deriving DecidableEq, Repr

/-- The reach of a source (R430). -/
def Source.reach : Source → Fin 3
  | .por => 0
  | .mrst => 1
  | .wdt _ => 2

/-- What an episode records of a source (R436, R455). -/
def Source.mark (x : Source) (e : Episode) : Episode :=
  match x with
  | .por => { e with seenPor := true }
  | .mrst => { e with seenMrst := true }
  | .wdt c => if e.seenWdt then e else { e with seenWdt := true, wdtCause := c }

/-- A source is accepted (R436): it begins an episode or joins the one that runs, whose reach it may widen. (DEDUCED, log entry 59) -/
def acceptSource (x : Source) (s : State) : State :=
  let e := x.mark (match s.rst.episode with
    | none => { reach := x.reach }
    | some e => { e with reach := if x.reach < e.reach then x.reach else e.reach })
  clearFor e.reach.1 { s with rst := { s.rst with
    episode := some e, hostReset := false, lockstep := false, clockFault := false } }

/-- A watchdog cause asserts the watchdog source (R431). -/
def watchdog (cause : BitVec 4) (s : State) : State :=
  acceptSource (.wdt cause) { s with rst := { s.rst with wdt := true } }

/-- A failed start (R442): an outcome record with the failing step and its code, and a watchdog reset of cause 4. -/
def failStart (step code : Nat) (s : State) : State := watchdog 4 (journal 2 [step, code] s)

/-- Entry to SAFE_STOP (R409, R475): every job is killed, one SAFE_STOP record, transmissions cut, then the state
change. In BOOTING the cause is a failed start; in MOORED, and in SAFE_STOP itself, it is only recorded. (DEDUCED, log entry 34) (DEDUCED, log entry 85) -/
def safeStop (cause jobCode : Nat) (fault : Bool) (s : State) : State :=
  match s.dev with
  | .booting => failStart s.boot.step cause s
  | .moored => journal 5 [0, 0, cause] s
  | .safeStop => journal 5 [5, 5, cause] s
  | .ready | .running | .degraded =>
    let s := forJobs (fun k s => finishJob k 3 jobCode fault (stopEngines k 3 s)) (s.jobs.all.map (·.1)) s
    setDev .safeStop (cutTransmissions (emit { kind := 6 } (natLE 4 cause) s))

/-- A MANIFEST event of a job (R57): the event, its digest refused, and an island kill; a SAFETY job so stopped takes
the device to SAFE_STOP with cause 3, which kills every job. -/
def manifestEvent (k : Fin 12) (s : State) : State :=
  match s.job k with
  | none => s
  | some j =>
    let s := contractEvent 5 (some k) s
    let s := { s with con := { s.con with refused := s.con.refused ++ [j.hdr.digest] } }
    if j.isSafety then safeStop 3 5 false s else killJob k 5 false s

/-- A MANIFEST event of whatever job an entry belongs to; none when it belongs to no job. -/
def manifestOf (k : Option (Fin 12)) (s : State) : State :=
  match k with
  | none => s
  | some k => manifestEvent k s

end Sys2Proof.Machine
end

