-- ==== Sys2Proof/Machine/Manifest.lean ====
section
/-! DEFINITION. Reading a manifest image (R42 to R48): header, section descriptors, timetable entries, maps, extents and
streams, as the bytes in DRAM spell them. -/

namespace Sys2Proof.Machine

/-- DRAM bytes. -/
def State.dramBytes (s : State) (a n : Nat) : List Byte := Cells.gets 0 s.mem.dram a n

/-- The header fields of R42. -/
def parseHeader (img : List Byte) : Header :=
  let w (k : Nat) : Nat := wordOf img k
  { cls := bits (w 1) 17 16, needsStrict := bitOf (w 1) 18, runOnce := bitOf (w 1) 19
    targetStep := bits (w 2) 7 0, targetMem := bits (w 2) 11 8, refreshMult := bits (w 2) 13 12
    frameBeats := bits (w 3) 8 0, reserveKcyc := bits (w 3) 23 16
    windowFirst := bits (w 4) 8 0, windowBeats := bits (w 4) 24 16
    clusters := bits (w 5) 3 0, periodFrames := bits (w 5) 15 8
    completeBeat := w 6, energyFrame := w 7, energyBeatMax := w 8, sections := bits (w 9) 15 0
    bodyLen := w 10 + 2 ^ 32 * w 11
    digest := (img.drop 0x30).take 32, weights := (img.drop 0x50).take 32 }

/-- The reserved fields of R42 are zero. -/
def headerZero (img : List Byte) : Bool :=
  let w (k : Nat) : Nat := wordOf img k
  bits (w 1) 31 20 == 0 && bits (w 2) 31 14 == 0 && bits (w 3) 15 9 == 0 && bits (w 3) 31 24 == 0 && bits (w 4) 15 9 == 0 &&
  bits (w 4) 31 25 == 0 && bits (w 5) 7 4 == 0 && bits (w 5) 31 16 == 0 && bits (w 9) 31 16 == 0 &&
  (List.range 4).all fun i => w (28 + i) == 0

/-- A section descriptor (R43); `zero` says that its reserved fields are zero. -/
structure Sec where
  type : Nat
  unit : Nat
  off  : Nat
  len  : Nat
  zero : Bool
  deriving DecidableEq, Repr

/-- The section descriptors that follow the header (R42, R43). -/
def parseSections (img : List Byte) (n : Nat) : List Sec :=
  (List.range n).map fun i =>
    let w (k : Nat) : Nat := wordOf img (32 + 4 * i + k)
    { type := bits (w 0) 7 0, unit := bits (w 0) 31 16, off := w 1 + 2 ^ 32 * bits (w 2) 7 0, len := w 3
      zero := bits (w 0) 15 8 == 0 && bits (w 2) 31 8 == 0 }

/-- The bytes of a section. -/
def Sec.bytes (img : List Byte) (x : Sec) : List Byte := (img.drop x.off).take x.len

/-- The entries of a timetable section (R45), with their OP; none where the section ends inside one. BEAT stands with the
reserved bits above it, which R532 looks at. -/
def parseEntries : Nat → List Byte → Option (List (Nat × Entry))
  | _, [] => some []
  | 0, _ => none
  | fuel + 1, bs =>
    if bs.length < 8 then none
    else
      let w0 := wordOf bs 0
      let n := bits w0 31 24
      if bs.length < 8 + 4 * n then none
      else
        let e : Entry := { beat := wordOf bs 1, cycle := bits w0 17 0, words := bytesWords ((bs.drop 8).take (4 * n)) }
        match parseEntries fuel (bs.drop (8 + 4 * n)) with
        | none => none
        | some es => some ((bits w0 23 18, e) :: es)

/-- The entries of a section. -/
def Sec.entries (img : List Byte) (x : Sec) : Option (List (Nat × Entry)) := parseEntries (x.len / 8 + 1) (x.bytes img)

/-- Entries stand in strictly increasing order of (BEAT, CYCLE) (R46). -/
def ordered : List (Nat × Entry) → Bool
  | a :: b :: rest =>
    (decide (a.2.beat % 2 ^ 17 < b.2.beat % 2 ^ 17) ||
      (a.2.beat % 2 ^ 17 == b.2.beat % 2 ^ 17 && decide (a.2.cycle < b.2.cycle))) && ordered (b :: rest)
  | _ => true

/-- The bits of a byte string, bit (b mod 8) of byte b/8 as element b (R48). -/
def bitArray (bs : List Byte) (n : Nat) : List Bool :=
  (List.range n).map fun b => (bs.getD (b / 8) 0).getLsbD (b % 8)

/-- The lots of a LOT_MAP section (R47): 36-byte records. -/
def parseLots : Nat → List Byte → List Lot
  | 0, _ => []
  | fuel + 1, bs =>
    if bs.length < 36 then []
    else
      let w := wordOf bs 0
      let map := bitArray ((bs.drop 4).take 32) 256
      ((List.range 256).filterMap fun i =>
        if map.getD i false then some { chan := bits w 7 0, beat := bits w 24 8, lot := i } else none) ++
      parseLots fuel (bs.drop 36)

/-- The records of an EXTENTS section (R276), each with whether its reserved bits are zero. -/
def parseExtents : Nat → List Byte → List (Extent × Bool)
  | 0, _ => []
  | fuel + 1, bs =>
    if bs.length < 16 then []
    else
      let w1 := wordOf bs 1
      let e : Extent := { base := wordOf bs 0 + 2 ^ 32 * bits w1 7 0, len := wordOf bs 2 + 2 ^ 32 * wordOf bs 3
                          ro := bitOf w1 8, shared := bitOf w1 9, kind := bits w1 11 10, lanes := bits w1 17 12 + 1 }
      (e, bits w1 31 18 == 0 && (e.kind == 1 || bits w1 17 12 == 0)) :: parseExtents fuel (bs.drop 16)

/-- The records of a STREAMS section (R313): context, window base, whether the reserved fields are zero. -/
def parseStreams : Nat → List Byte → List (Nat × Nat × Bool)
  | 0, _ => []
  | fuel + 1, bs =>
    if bs.length < 16 then []
    else
      (bits (wordOf bs 0) 4 0, wordOf bs 1 + 2 ^ 32 * bits (wordOf bs 2) 7 0,
        bits (wordOf bs 0) 31 5 == 0 && bits (wordOf bs 2) 31 8 == 0 && wordOf bs 3 == 0) :: parseStreams fuel (bs.drop 16)

/-- The image of an admitted job in DRAM (R41). -/
def State.image (s : State) (j : Job) : List Byte := s.dramBytes j.image (0x80 + j.hdr.bodyLen)

/-- The sections of an admitted job of a type. -/
def jobSections (img : List Byte) (j : Job) (type : Nat) : List Sec :=
  (parseSections img j.hdr.sections).filter fun x => x.type == type

/-- The unit that a manifest's logical unit number names (R47): per cluster cores 8, rills 4. -/
def Job.mapUnit (j : Job) (perCluster n : Nat) : Nat := if j.isSafety then n else perCluster * j.base + n

/-- The timetable of a core or rill of an admitted job. -/
def unitEntries (img : List Byte) (j : Job) (type perCluster u : Nat) : List (Nat × Entry) :=
  match (jobSections img j type).find? fun x => j.mapUnit perCluster x.unit == u with
  | none => []
  | some x => (x.entries img).getD []

/-- Every descriptor of the job's rills, with its rill. -/
def rillEntries (img : List Byte) (j : Job) : List (Nat × Nat × Entry) :=
  (jobSections img j 2).flatMap fun x => ((x.entries img).getD []).map fun e => (j.mapUnit 4 x.unit, e.1, e.2)

/-- Every channel entry of the job, with its channel. -/
def chanEntries (img : List Byte) (j : Job) : List (Nat × Nat × Entry) :=
  (jobSections img j 3).flatMap fun x => ((x.entries img).getD []).map fun e => (x.unit, e.1, e.2)

/-- The BEAT of an entry (R45). -/
def entryBeat (e : Entry) : Nat := e.beat % 2 ^ 17

/-- RILL_OUT descriptors of a period (R245). -/
def outsOf (img : List Byte) (j : Job) : Nat := ((rillEntries img j).filter fun x => x.2.1 == 2).length

/-- Bus cycles, in half-cycles, of a channel access of b data blocks (R200): 7.5 cycles for each block and its share of
check blocks. -/
def busHalf (blocks : Nat) : Nat := 15 * (blocks + 1)

/-- The cycle of the period, counted from its first beat, in which the period's last RILL_OUT would retire without slip
(R267): after the last burst of its last CH_WRITE, or the NEED of an ARBITRATED one; without a RILL_OUT the last cycle of
the completion beat. -/
def statedEnd (img : List Byte) (j : Job) : Nat :=
  let outs := (rillEntries img j).filter fun x => x.2.1 == 2
  let writes := (chanEntries img j).filter fun x => x.2.1 == 2
  let ends := (outs.filter fun x => bits (wordAt x.2.2.words 0) 9 8 == 1).map (fun x =>
      bits (wordAt x.2.2.words 4) 16 0 * beatCycles + bits (wordAt x.2.2.words 3) 17 0) ++
    (if outs.isEmpty then [] else writes.map fun x =>
      entryBeat x.2.2 * beatCycles + x.2.2.cycle + (busHalf (bits (wordAt x.2.2.words 1) 11 8) + 1) / 2)
  if outs.isEmpty then j.hdr.completeBeat * beatCycles + (beatCycles - 1) else ends.foldl max 0

end Sys2Proof.Machine
end

