-- ==== Sys2Proof/Machine/Jobs.lean ====
section
/-! DEFINITION. Jobs, periods and sequences (chapters 09, 10, 14): frame binding (R287), work lists (R280), the end of a
period with its verdict, result records and digests (R267, R274, R294, R388, R389), shares (R264 to R266), where entries are
stated. -/

namespace Sys2Proof.Machine

/-- The job in slot k changed by f. -/
def modJob (k : Fin 12) (f : Job → Job) (s : State) : State :=
  { s with jobs := { s.jobs with slots := modV s.jobs.slots k fun j => j.map f } }

/-- The first beat of the period that the BEAT_MAP marks (R287). -/
def Job.firstMarked (j : Job) : Nat := (j.beatMap.findIdx? (fun x => x)).getD 0

/-- Marked beats of a period. -/
def Job.marked (j : Job) : Nat := (j.beatMap.filter (fun x => x)).length

/-- The period in progress that an entry with BEAT b belongs to, as of a beat (R388). -/
def Job.entryPeriod (j : Job) (b beat : Nat) : Nat := (beat - j.startBeat - b) / j.periodBeats

/-- The grid beat in which an entry of that period is stated. -/
def Job.statedBeat (j : Job) (b beat : Nat) : Nat := j.startBeat + j.entryPeriod b beat * j.periodBeats + b

/-- Period idx of a job changed by f. -/
def Job.modPeriod (idx : Nat) (f : Period → Period) (j : Job) : Job :=
  { j with run := j.run.map fun p => if p.index = idx then f p else p }

/-- Period idx of the job in slot k changed by f. -/
def modPeriod (k : Fin 12) (idx : Nat) (f : Period → Period) (s : State) : State := modJob k (Job.modPeriod idx f) s

/-- A period becomes UNPROVEN (R388); nothing for work that belongs to no job. -/
def unprove (k : Option (Fin 12)) (idx : Nat) (s : State) : State :=
  match k with
  | none => s
  | some k => modPeriod k idx (fun p => { p with unproven := true }) s

/-! ### Starting a period -/

/-- The frame that a period binds for a context (R287, R315, R325). -/
def bindFrame (s : State) (n : Fin 24) : Bound :=
  match s.sens.ctxs[n].current with
  | none => { ctx := n, slot := 0, seq := 0, digest := List.replicate 32 0, still := false, suspect := false, none := true }
  | some f => { ctx := n, slot := f.slot, seq := f.seq, digest := f.digest, still := f.flags.getLsbD 0,
                suspect := f.tstate != 1 && f.tstate != 4, none := false }

/-- The LANES extent of a serving job (R276). -/
def Job.lanesExt (j : Job) : Option Extent := j.extents.find? (·.kind == 1)

/-- Bytes of a lane (R277). -/
def Extent.laneBytes (e : Extent) : Nat := e.len / e.lanes

/-- A sequence put into a list in order of READY_SINCE, then of its entry (R280). -/
def insertSeq (x : Nat × Fin 256) : List (Nat × Fin 256) → List (Nat × Fin 256)
  | [] => [x]
  | y :: ys => if y.1 ≤ x.1 then y :: insertSeq x ys else x :: y :: ys

/-- The entries that the work list of a job takes (R280), first position first. -/
def listed (j : Job) (seqs : Vector Seq 256) : List (Fin 256) :=
  let ready := (List.finRange 256).filterMap fun i =>
    let q := seqs[i]
    if q.job == j.id && q.state == .ready && decide (q.len.toNat + q.next.toNat ≤ q.lenMax.toNat)
    then some (q.readySince.toNat, i) else none
  let n := match j.lanesExt with | none => 0 | some e => min 64 e.lanes
  ((ready.foldl (fun l x => insertSeq x l) []).take n).map (·.2)

/-- What the hub writes of a listed position (R279): all but its DONE byte and the three bytes after it, which are the job's. -/
def Seq.position (i : Fin 256) (q : Seq) : List Byte :=
  natLE 4 q.id.toNat ++ natLE 2 i.1 ++ natLE 1 q.kvBasin.toNat ++ natLE 1 0 ++ natLE 4 q.len.toNat ++ natLE 4 q.next.toNat ++
  List.replicate 12 (0 : Byte)

/-- DRAM with a half of the list extent written (R279); positions from COUNT on are zero. -/
def writeList (base idx : Nat) (es : List (Fin 256)) (seqs : Vector Seq 256) (m : Memory) : Memory :=
  let m := Cells.puts 0 m base (natLE 4 idx ++ natLE 4 es.length ++ List.replicate 56 (0 : Byte))
  let m := es.zipIdx.foldl (fun m x => Cells.puts 0 m (base + 0x40 + 32 * x.2) ((seqs[x.1]).position x.1)) m
  Cells.puts 0 m (base + 0x40 + 32 * es.length) (List.replicate (32 * (64 - es.length)) (0 : Byte))

/-- POS given to the listed entries in order. -/
def markListed (es : List (Fin 256)) (seqs : Vector Seq 256) : Vector Seq 256 :=
  es.zipIdx.foldl (fun v x => modV v x.1 fun q => { q with state := .listed, pos := BitVec.ofNat 6 x.2 }) seqs

/-- The work list of period idx is built (R280): its sequences become LISTED and its half is written. -/
def buildList (k : Fin 12) (idx : Nat) (s : State) : State :=
  match s.job k with
  | none => s
  | some j =>
    match j.listExt with
    | none => s
    | some e =>
      let es := listed j s.jobs.seqs
      let ids := es.map fun i => (s.jobs.seqs[i]).id
      let s := { s with jobs := { s.jobs with seqs := markListed es s.jobs.seqs },
                        mem := { s.mem with dram := writeList (e.base + 4096 * (idx % 2)) idx es s.jobs.seqs s.mem.dram } }
      modJob k (fun j => { j with run := j.run ++ [{ index := idx, list := es, ids := ids }] }) s

/-- The lists due in the present beat are built, as the commands of its cycle 0 have left the sequences (R274, R280). -/
def buildLists (s : State) : State :=
  let s := s.jobs.all.foldl (fun s x =>
    let n := x.2.listAfter s.clk.beat
    if x.2.serving && decide (0 < n) && x.2.listBeat (n - 1) == s.clk.beat then buildList x.1 (n - 1) s else s) s
  { s with jobs := { s.jobs with listing := false } }

/-- A job begins the period that the present beat's first marked beat opens (R287, R288). -/
def beginPeriod (k : Fin 12) (s : State) : State :=
  match s.job k with
  | none => s
  | some j =>
    if !(j.started s.clk.beat) || j.beatAt s.clk.beat != j.firstMarked then s
    else
      let idx := j.periodAt s.clk.beat
      let outs := outsOf (s.image j) j
      let bs := j.streams.map fun n => bindFrame s n.1
      modJob k (fun j =>
        let j := if j.run.any (·.index == idx) then j else { j with run := j.run ++ [{ index := idx }] }
        j.modPeriod idx fun p => { p with bound := bs, outsLeft := outs }) s

/-! ### Ending a period -/

/-- The verdict of a period (R388): 1 PROVEN, 2 DISPUTED, 3 UNPROVEN. -/
def Period.verdict (p : Period) : Nat := if p.disputed then 2 else if p.unproven then 3 else 1

/-- The last beat in which a period's work is in time (R72). -/
def Job.dueBeat (j : Job) (idx : Nat) : Nat := j.startBeat + idx * j.periodBeats + j.hdr.completeBeat

/-- Does the result carry LATE (R57): a SAFETY job's work ended after its completion beat? -/
def Period.late (j : Job) (p : Period) : Bool := j.isSafety && decide (j.dueBeat p.index < p.doneBeat)

/-- VERDICT and the flags of a result record (R471), from bit 8 of its word on. -/
def Period.flags (j : Job) (p : Period) : Nat :=
  pack [(p.verdict, 0), (b2n (p.late j), 2), (b2n (p.bound.any (·.still)), 3), (b2n (p.bound.any (·.none)), 4),
    (b2n (p.bound.any (·.suspect)), 5)]

/-- The byte string of a provenance digest (R294). -/
def provString (j : Job) (p : Period) (strict : Bool) : List Byte :=
  [0x4B, 0x36, 0x34, 0x50, 0x52, 0x4F, 0x56, 0x31] ++ j.hdr.digest ++ j.hdr.weights ++
  natLE 4 (pack [(p.bound.length, 0), (b2n strict, 16)]) ++
  p.bound.flatMap fun b => natLE 2 b.ctx.1 ++ natLE 2 0 ++ natLE 4 b.seq.toNat ++ b.digest

/-- The result records of a period (R296, R389, R472), with its provenance digest where one is asked for. -/
def results (j : Job) (p : Period) (s : State) : State :=
  let prov := j.prov || s.det.provAll
  let dig := if prov then some (sha3 (provString j p s.det.strict)) else none
  let head : RecordHead := { kind := 1, flags := p.flags j, job := j.id.toNat, period := p.index, digest := dig }
  let s := if prov then { s with det := { s.det with digests := s.det.digests + 1 } } else s
  let body (pos : Nat) : List Byte := Cells.gets 0 s.mem.dram (j.resBase + pos * j.resLen) j.resLen
  if j.serving then
    p.list.zipIdx.foldl (fun s x =>
      if p.closing.contains x.1 then s else emit { head with seqId := p.ids.getD x.2 0 } (body x.2) s) s
  else emit head (body 0) s

/-- LAG of a period (R267): cycles by which its work ended after its stated end. (DEDUCED, log entry 45) -/
def lagOf (j : Job) (p : Period) (s : State) : Nat :=
  (p.doneBeat * beatCycles + p.doneCyc) -
    ((j.startBeat + p.index * j.periodBeats) * beatCycles + statedEnd (s.image j) j)

/-- The figures of a SERVICE or BACKGROUND period are written to its slot, with a slowdown record where STALL exceeds
STALL_THR (R267, R268). -/
def slowdown (k : Fin 12) (j : Job) (p : Period) (s : State) : State :=
  if j.isSafety then s
  else
    let lag := lagOf j p s
    let w := j.marked * s.reserveAt
    let stall : Word := satAdd 0 p.stall
    let slow : BitVec 16 := satAdd 0 (65536 * lag / w)
    let lag16 : BitVec 16 := satAdd 0 lag
    let s := modJob k (fun j => { j with stall := stall, slowdown := slow, lag := lag16 }) s
    if j.stallThr < stall then
      emit { kind := 7, job := j.id.toNat, period := p.index } (wordBytes stall ++ natLE 4 (pack [(slow.toNat, 0), (lag16.toNat, 16)])) s
    else s

/-- The verdict of a period is formed (R389): its results are sent; a RUN_ONCE job ends in the cycle after (R269); the third late
frame in a row of a SAFETY job is SAFE_STOP (R57). -/
def finishPeriod (k : Fin 12) (j : Job) (p : Period) (s : State) : State :=
  let s := results j p s
  let s := modJob k (fun j => { j with run := j.run.filter (·.index != p.index), past := (p :: j.past).take 2 }) s
  let s := if j.hdr.runOnce then { s with jobs := { s.jobs with once := s.jobs.once ++ [(k, j.id)] } } else s
  if p.late j && decide (3 ≤ j.lateRun) then safeStop 1 2 false s else s

/-- The verdict is formed once the period's work has ended and its last weir verdict is in (R389). -/
def tryVerdict (k : Fin 12) (idx : Nat) (s : State) : State :=
  match s.job k with
  | none => s
  | some j =>
    match j.run.find? (·.index == idx) with
    | none => s
    | some p => if p.workDone && p.weirPend == 0 then finishPeriod k j p s else s

/-- The period completes: its work ends in the present cycle (R245). Its figures are written (R267), its sequences step in the cycle after
(R281), and late work of a SAFETY job is the SAFETY_LATE event (R57). (DEDUCED, log entry 45) -/
def workEnd (k : Fin 12) (idx : Nat) (s : State) : State :=
  match s.job k with
  | none => s
  | some j =>
    let s := modPeriod k idx (fun p => { p with workDone := true, doneBeat := s.clk.beat, doneCyc := s.clk.cyc }) s
    let s := match (s.job k).bind fun j => j.run.find? (·.index == idx) with
      | none => s
      | some p => slowdown k j p s
    let late := j.isSafety && decide (j.dueBeat idx < s.clk.beat)
    let s := modJob k (fun j => { j with periods := j.periods + 1, lateRun := if late then j.lateRun + 1 else 0 }) s
    let s := { s with jobs := { s.jobs with stepping := s.jobs.stepping ++ [(k, j.id, idx)] } }
    tryVerdict k idx (if late then contractEvent 2 (some k) s else s)

/-- One RILL_OUT of a period has retired (R245). -/
def outRetired (k : Fin 12) (idx : Nat) (s : State) : State :=
  match s.job k with
  | none => s
  | some j =>
    match j.run.find? (·.index == idx) with
    | none => s
    | some p =>
      let s := modPeriod k idx (fun p => { p with outsLeft := p.outsLeft - 1 }) s
      if p.outsLeft = 1 then workEnd k idx s else s

/-! ### Shares -/

/-- Entitlements and balances at the end of a frame (R265), and the shares that hold from the next one. -/
def frameShares (s : State) : State :=
  let counted := s.jobs.all.filter fun x => !x.2.isSafety && x.2.wholeFrame
  let t := (counted.map fun x => x.2.frameUse).sum
  let q := (counted.map fun x => x.2.shares.toNat).sum
  let upd (j : Job) : Job :=
    if j.isSafety then j
    else
      let j := if j.wholeFrame then
          let a := j.bal.toInt
          { j with bal := BitVec.ofInt 64 (a - a / 16 + j.frameUse - (j.shares.toNat * t / q : Nat)) }
        else j
      let j := match j.pendShares with
        | none => j
        | some (sh, thr) => { j with shares := sh, stallThr := thr, pendShares := none }
      { j with frameUse := 0, wholeFrame := true }
  { s with jobs := { s.jobs with slots := s.jobs.slots.map fun j => j.map upd } }

/-- Does job a go before job b when load is shed (R266)? -/
def shedsFirst (a b : Job) : Bool :=
  if a.hdr.cls ≠ b.hdr.cls then decide (b.hdr.cls < a.hdr.cls)
  else if a.bal ≠ b.bal then decide (b.bal.toInt < a.bal.toInt)
  else if a.shares ≠ b.shares then decide (a.shares.toNat < b.shares.toNat)
  else decide (b.id.toNat < a.id.toNat)

/-- The SERVICE or BACKGROUND job that sheds first, among those not already ending (R266, R427). -/
def shedNext (s : State) : Option (Fin 12) :=
  ((s.jobs.all.filter fun x => !x.2.isSafety && x.2.stop.isNone).foldl (fun best x =>
    match best with
    | none => some x
    | some (y : Fin 12 × Job) => if shedsFirst x.2 y.2 then some x else some y) none).map (·.1)

/-- A stop is scheduled for a job (R269). (DESIGN CHOICE, log entry 76) -/
def scheduleStop (k : Fin 12) (r : StopReq) (s : State) : State := modJob k (fun j => { j with stop := some r }) s

/-! ### Where entries are stated -/

/-- The grid beat in which a descriptor is stated. -/
def Desc.statedBeat (j : Job) (d : Desc) : Nat := j.startBeat + d.period * j.periodBeats + entryBeat d.entry

/-- The job that claims a lot of a channel in a grid beat (R50). -/
def State.lotOwner (s : State) (ch beat lot : Nat) : Option (Fin 12) :=
  (s.jobs.all.find? fun x => x.2.started beat && x.2.lots.any fun l => l.chan == ch && l.lot == lot && l.beat == x.2.beatAt beat).map (·.1)

end Sys2Proof.Machine
end

