-- ==== Sys2Proof/Machine/Advance.lean ====
section
/-! DEFINITION. The passing of time: what a cycle leaves to be done when it has passed and in the cycle after it (R269, R271, R280, R281, R475), and the
operations by which an event comes in its cycle. -/

namespace Sys2Proof.Machine

/-- Nothing waits for the present cycle to pass. -/
def State.settled (s : State) : Bool :=
  s.jobs.leaving.isEmpty && s.jobs.stepping.isEmpty && s.jobs.once.isEmpty && !s.jobs.listing

/-- What the passing cycle leaves to the next one: the work lists of the beat are built as it passes (R280); then the jobs that ended are
free (R271, R475), the sequences of completed periods step (R281) and RUN_ONCE jobs end (R269). The clock is in the next cycle. -/
def nextCycle (s : State) : State :=
  let js := s.jobs
  let s := { s with jobs := { js with leaving := [], stepping := [], once := [] } }
  let s := js.leaving.foldl (fun s x => freeJob x s) s
  let s := if js.leaving.isEmpty then s else settle s
  let s := stepPeriods js.stepping s
  js.once.foldl (fun s x => if (s.job x.1).any (·.id == x.2) then finishJob x.1 6 0 false s else s) s

/-- The clock n cycles further on. -/
def Clock.plus (n : Nat) (c : Clock) : Clock := { c with raw := c.raw + n, cyc := if c.running then c.cyc + n else c.cyc }

/-- The state one cycle further on in the beat. -/
def oneCycle (s : State) : State :=
  if s.settled then { s with clk := s.clk.plus 1 }
  else
    let s := if s.jobs.listing then buildLists s else s
    nextCycle { s with clk := s.clk.plus 1 }

/-- The state n cycles further on in the beat: once nothing waits for a cycle to pass, only the clock moves. -/
def advance (n : Nat) (s : State) : State :=
  if n = 0 then s
  else if s.settled then { s with clk := s.clk.plus n }
  else if n = 1 then oneCycle s
  else
    let s := oneCycle (oneCycle s)
    { s with clk := s.clk.plus (n - 2) }

/-- The state in raw cycle t when that cycle lies ahead in the present beat, the state itself when t is not ahead, and
none when t lies beyond the next beat boundary: an event of that cycle does not come about before the boundary. (DESIGN CHOICE, log entry 2) (DEDUCED, log entry 8) -/
def reach (t : Nat) (s : State) : Option State :=
  if t ≤ s.clk.raw then some s
  else if !s.clk.running || decide (s.clk.cyc + (t - s.clk.raw) < beatCycles) then some (advance (t - s.clk.raw) s)
  else none

/-- f in raw cycle t, as `reach` finds it; no effect while that cycle lies in a later beat. (DESIGN CHOICE, log entry 33) (DESIGN CHOICE, log entry 2) (DEDUCED, log entry 8) -/
def atCycle (t : Nat) (s : State) (f : State → State) : State :=
  match reach t s with
  | none => s
  | some s' => f s'

/-- The state in cycle c of the present beat when that lies ahead. (DESIGN CHOICE, log entry 33) -/
def toCycle (c : Nat) (s : State) : State :=
  if s.clk.cyc < c then advance (c - s.clk.cyc) s else s

/-- The state in grid cycle g when that lies in the present beat, the state itself when it is past, none before. -/
def reachGrid (g : Nat) (s : State) : Option State :=
  if g ≤ s.grid then some s
  else if g < (s.clk.beat + 1) * beatCycles then some (toCycle (g - s.clk.beat * beatCycles) s) else none

end Sys2Proof.Machine
end

