-- ==== Sys2Proof/Machine/RadioOps.lean ====
section
/-! DEFINITION. Shared operations of the learned receivers (chapter 13): the handoff area and its soft bits (R363), the
trellis decoder (R357, R381, R382), decoded records (R383), phases and their slots (R372 to R380), radio manifest
faults (R377), doorbells (R364), activation of radio manifests (R368). -/

namespace Sys2Proof.Machine

/-- The unit index of radio engine e (R24). -/
def radioUnit (e : Fin 2) : UnitIdx := ⟨64 + e.1, by omega⟩

/-- Radio pair e changed by f. -/
def modRadio (e : Fin 2) (f : Radio → Radio) (s : State) : State := { s with radio := modV s.radio e f }

/-- An event of a learned receiver that f shows, bit b of RADIO_STATUSe (R385). -/
def radioEvent (e : Fin 2) (b : Nat) (f : Radio → Radio) (s : State) : State :=
  note (0xF051000010 + 0x100 * e.1) b (modRadio e f s)

/-- A core or radio engine changed by f. -/
def modCore (u : UnitIdx) (f : Core → Core) (s : State) : State := { s with cores := modV s.cores u f }

/-- DSP interrupt source n becomes pending; a WAIT on it ends (R336, R340). -/
def raiseIrq (n : Nat) (s : State) : State :=
  let d := { s.dsp with irqPend := s.dsp.irqPend ||| BitVec.ofNat 8 (2 ^ n) }
  { s with dsp := if d.run = .waiting ∧ d.mask.getLsbD n then { d with run := .running } else d }

/-- Y word of the handoff area of pair e (R363). -/
def handoff (e : Fin 2) (off : Nat) (s : State) : Word := Cells.get 0 s.dsp.y (8192 + 4096 * e.1 + off)

/-- A word of the handoff area set by the radio hardware. -/
def setHandoff (e : Fin 2) (off : Nat) (w : Word) (s : State) : State :=
  { s with dsp := { s.dsp with y := Cells.put 0 s.dsp.y (8192 + 4096 * e.1 + off) w } }

/-- EVENT bits set (R363). -/
def setEvent (e : Fin 2) (m : Word) (s : State) : State := setHandoff e 0xFFE (handoff e 0xFFE s ||| m) s

/-- Soft bit i of a block of 5-per-word 6-bit values at a handoff offset (R363). -/
def softAt (e : Fin 2) (off i : Nat) (s : State) : Int :=
  sext 6 (bits (handoff e (off + i / 5) s).toNat (6 * (i % 5) + 5) (6 * (i % 5)))

/-- n soft bits of a block. -/
def softs (e : Fin 2) (off n : Nat) (s : State) : List Int := (List.range n).map fun i => softAt e off i s

/-- Byte i of the radio engine's scratchpad. -/
def radioByte (e : Fin 2) (a : Nat) (s : State) : Byte := Cells.get 0 s.cores[radioUnit e].pad a

/-- Offsets of basins 12 to 15 (R369). -/
def basin12 : Nat := 6 * 2 ^ 20
def basin13 : Nat := basin12 + 16384
def basin14 : Nat := basin12 + 32768
def basin15 : Nat := basin12 + 36864

/-- A radio basin as the device defines it: HOLD, its region, fill bytes from offset 0 (R369). -/
def radioBasin (off sizeKib fill : Nat) : Basin :=
  { defined := true, hold := true, baseKib := off / 1024, sizeKib := sizeKib, tail := fill }

/-- A FP32 confidence is at least thr / 256; a NaN counts as 0 (R370). -/
def confAtLeast (w : Word) (thr : Nat) : Bool :=
  let e := bits w.toNat 30 23
  let m := bits w.toNat 22 0
  if e == 255 && m != 0 then thr == 0
  else if bitOf w.toNat 31 then thr == 0 && e == 0 && m == 0
  else if e == 255 then true
  else
    let mant := if e == 0 then m else m + 2 ^ 23
    let ex := if e == 0 then 1 else e
    if 150 ≤ ex then decide (thr ≤ mant * 256 * 2 ^ (ex - 150)) else decide (thr * 2 ^ (150 - ex) ≤ mant * 256)

/-! ### The trellis decoder -/

/-- Parity of a number's bits. -/
def parity7 (v : Nat) : Nat := ((List.range 7).map fun i => (v >>> i) % 2).sum % 2

/-- A path of the trellis: metric and input bits, newest first. -/
abbrev Path := Option (Int × List Bool)

/-- The metric of a branch from state p with an input bit, for the soft values of A and B (R357, R381). -/
def branchMetric (p : Nat) (b : Bool) (la lb : Int) : Int :=
  let r := (b2n b) * 64 + p
  la * (1 - 2 * (parity7 (r &&& 0o133) : Int)) + lb * (1 - 2 * (parity7 (r &&& 0o171) : Int))

/-- A path extended by a branch. -/
def extend (paths : List Path) (p : Nat) (b : Bool) (la lb : Int) : Path :=
  (paths.getD p none).map fun x => (x.1 + branchMetric p b la lb, b :: x.2)

/-- The better of two paths into a state; on equal metrics the predecessor of lower number, the first (R381). -/
def better : Path → Path → Path
  | none, y => y
  | x, none => x
  | some x, some y => if y.1 > x.1 then some y else some x

/-- One step of the 64-state trellis: state is the six newest input bits, the newest in bit 5. -/
def trellisStep (paths : List Path) (l : Int × Int) : List Path :=
  (List.range 64).map fun t =>
    let b := decide (32 ≤ t)
    let p := 2 * (t % 32)
    better (extend paths p b l.1 l.2) (extend paths (p + 1) b l.1 l.2)

/-- The input bits decoded from the soft pairs, by trace back from state 0 (R381). -/
def viterbi (ls : List (Int × Int)) : List Bool :=
  match (ls.foldl trellisStep (some (0, []) :: List.replicate 63 none)).getD 0 none with
  | none => []
  | some x => x.2.reverse

/-- The kept outputs of a puncturing period by RATE (R357): one (A kept, B kept) per input bit. -/
def punctures (rate : Nat) : List (Bool × Bool) :=
  if rate == 0 then [(true, true)]
  else if rate == 1 then [(true, true), (true, false)]
  else [(true, true), (true, false), (false, true)]

/-- n soft pairs from sent soft values, punctured positions restored as 0 (R381). -/
def depuncture (pat : List (Bool × Bool)) : Nat → List (Bool × Bool) → List Int → List (Int × Int)
  | 0, _, _ => []
  | n + 1, cur, ls =>
    match (if cur.isEmpty then pat else cur) with
    | [] => []
    | (ka, kb) :: rest =>
      let a := if ka then ls.headD 0 else 0
      let ls := if ka then ls.drop 1 else ls
      let b := if kb then ls.headD 0 else 0
      let ls := if kb then ls.drop 1 else ls
      (a, b) :: depuncture pat n rest ls

/-- k of rate k/n (R356). -/
def rateK (rate : Nat) : Nat := rate + 1

/-- Carriers' bits N_CBPS (R356) of PARAM and MAP. -/
def ncbps (param : Word) (map : Quad) : Nat :=
  if bits param.toNat 8 5 == 0 then 200 * (1 + bits param.toNat 0 0)
  else ((List.range 20).map fun g => 10 * (match bits map.toNat (2 * g + 1) (2 * g) with | 3 => 0 | c => c)).sum

/-- Groups G of data symbols (R356). -/
def groupsG (param : Word) : Nat := 12 / 2 ^ bits param.toNat 2 1

/-- Puncturing periods ⌊C/n⌋ (R356). -/
def periodsC (param : Word) (map : Quad) : Nat := ncbps param map * groupsG param / (rateK (bits param.toNat 4 3) + 1)

/-- N_INFO (R356). -/
def nInfo (param : Word) (map : Quad) : Nat := rateK (bits param.toNat 4 3) * periodsC param map

/-- LENGTH of PARAM. -/
def paramLen (param : Word) : Nat := bits param.toNat 17 9

/-- LENGTH breaks R356, or the rate is one that is not sent. -/
def lengthBad (param : Word) (map : Quad) : Bool :=
  bits param.toNat 4 3 == 3 || decide (nInfo param map < 8 * paramLen param + 38)

/-- Bits, least significant first, as a number. -/
def bitsNat : List Bool → Nat
  | [] => 0
  | b :: bs => b2n b + 2 * bitsNat bs

/-- n bytes of a bit list, each least significant bit first. -/
def bitBytes : Nat → List Bool → List Byte
  | 0, _ => []
  | n + 1, bs => BitVec.ofNat 8 (bitsNat (bs.take 8)) :: bitBytes n (bs.drop 8)

/-! ### Records and the decoder queue -/

/-- X memory written from a word address by the radio hardware. -/
def writeX (a : Nat) (ws : List Word) (s : State) : State :=
  { s with dsp := { s.dsp with x := Cells.puts 0 s.dsp.x a ws } }

/-- The decoded header as it stands in the handoff area (R363). -/
def headerWords (e : Fin 2) (s : State) : List Word := (List.range 3).map fun i => handoff e (0xFC8 + i) s

/-- The decoded record of a slot (R383), with the header that stood there at its END, its counters, EVENT bit 1 and the interrupt. (DEDUCED, log entry 89) -/
def writeRecord (e : Fin 2) (path cause : Nat) (slot : RadioSlot) (crcOk : Bool) (payload : List Byte) (s : State) : State :=
  let w0 := packW [(path, 0), (cause, 2), (b2n crcOk, 6), (b2n slot.exited, 7)]
  let ws := [w0, slot.e] ++ (if slot.hdr.isEmpty then headerWords e s else slot.hdr) ++ bytesWords payload
  let s := writeX s.radio[e].outBase.toNat ws s
  let s := modRadio e (fun r => { r with
    slotCnt := r.slotCnt + 1
    lrnCnt := if path == 0 then r.lrnCnt + 1 else r.lrnCnt
    lateCnt := if cause == 3 || cause == 5 || cause == 7 then satInc r.lateCnt else r.lateCnt
    lowCnt := if cause == 4 || cause == 6 then satInc r.lowCnt else r.lowCnt
    crcFail := if path != 2 && !crcOk then satInc r.crcFail else r.crcFail
    lostCnt := if path == 2 then satInc r.lostCnt else r.lostCnt
    slots := r.slots.filter fun x => x.e != slot.e }) s
  raiseIrq (6 + e.1) (setEvent e 2 s)

/-- Input bits of a decode, tail included, and W of R382. -/
def Decode.bitsW : Decode → Nat × Nat
  | .header _ => (100, 3)
  | .data slot _ _ => (nInfo slot.param slot.map, 5 + (paramLen slot.param + 3) / 4)
  | .own _ param => (paramLen param, 5 + (paramLen param + 31) / 32)

/-- The cycles D of a decode (R382). -/
def Decode.cycles (d : Decode) : Nat := 32 + 2 * d.bitsW.1 + d.bitsW.2

/-- A decode asked of the trellis decoder: it starts when the decoder is free, otherwise it waits; a data decode goes
before a waiting one of the same cycle only by order of arrival (R381). -/
def askDecode (e : Fin 2) (d : Decode) (s : State) : State :=
  modRadio e (fun r => match r.decoding with
    | none => { r with decoding := some d, decDue := s.clk.raw + d.cycles }
    | some _ => { r with decQueue := r.decQueue ++ [d] }) s

/-- A soft bit of basin 15 clamped to ±31 when read, and whether it was (R370). -/
def clampSoft (v : Int) : Int := if v > 31 then 31 else if v < -31 then -31 else v

/-- The soft bits of a data field: coded positions below n⌊C/n⌋ (R356). -/
def codedCount (slot : RadioSlot) : Nat := (rateK (bits slot.param.toNat 4 3) + 1) * periodsC slot.param slot.map

/-- Learned soft bits of basin 15 as they stand (R370). -/
def learnedSoft (e : Fin 2) (slot : RadioSlot) (s : State) : List Int :=
  (List.range (codedCount slot)).map fun i => (radioByte e (basin15 + 4 + i) s).toInt

/-- The slot takes the learned path (R378). -/
def takeLearned (e : Fin 2) (slot : RadioSlot) (s : State) : State :=
  let raw := learnedSoft e slot s
  let s := if raw.any (fun v => v > 31 || v < -31) then radioEvent e 9 (fun r => { r with llrClamp := true }) s else s
  askDecode e (.data { slot with decided := true, cause := 0 } true (raw.map clampSoft)) s

/-- The slot takes the classical path with its cause (R378). -/
def takeClassic (e : Fin 2) (slot : RadioSlot) (s : State) : State :=
  askDecode e (.data { slot with decided := true } false (softs e 0xBE0 (codedCount slot) s)) s

/-- Slot x of the pair replaced in its place. -/
def putSlot (e : Fin 2) (x : RadioSlot) (s : State) : State :=
  modRadio e (fun r => { r with slots := if r.slots.any (·.e == x.e) then r.slots.map (fun y => if y.e == x.e then x else y)
                                         else r.slots ++ [x] }) s

/-- The slot of a value of E. -/
def slotOfE (e : Fin 2) (v : Word) (s : State) : Option RadioSlot := s.radio[e].slots.find? (·.e == v)

/-- The selector after a change of a slot (R378): with the learned path over, END rung and CLASSIC rung, it decodes the
classical soft bits. -/
def select (e : Fin 2) (x : RadioSlot) (s : State) : State :=
  if x.ended && x.classic && x.hasEnd && !x.decided then
    takeClassic e x (putSlot e { x with decided := true } s)
  else putSlot e x s

/-- The learned path of a slot ends with a cause (R378). -/
def endLearned (e : Fin 2) (v : Word) (cause : Nat) (s : State) : State :=
  match slotOfE e v s with
  | none => s
  | some x => if x.ended || x.decided then s else select e { x with ended := true, cause := cause } s

/-! ### Phases -/

/-- The raw cycle that a deadline of bits 31:0 names, counted from the present cycle (R370). -/
def rawOf (v : Word) (now : Nat) : Nat :=
  let d := (v - BitVec.ofNat 32 now).toInt
  if 0 ≤ d then now + d.toNat else now - (-d).toNat

/-- A running phase is stopped as under R99 with STOP_CAUSE 3; the engine is free from the cycle after its RAMP_DOWN
(R100, R372). -/
def stopPhase (e : Fin 2) (s : State) : State :=
  modRadio e (fun r => { r with phase := none, freeAt := s.clk.raw + 193 })
    (modCore (radioUnit e) (Core.stopAt s.clk.raw 3) s)

/-- A radio manifest fault (R377): the phase stops with cause FAULT, the manifest is deactivated and its digest
refused, MAN_FAULT is set and RADIO_MANIFEST is reported. -/
def radioFault (e : Fin 2) (s : State) : State :=
  let s := match s.radio[e].phase with
    | none => s
    | some p => endLearned e p.e 12 (stopPhase e s)
  let s := radioEvent e 11 (fun r => { r with
    refused := match r.active with | none => r.refused | some m => r.refused ++ [m.digest]
    active := none, manFault := true }) s
  raiseFault 0x0C e.1 0 none s

/-- A phase is asked for by a doorbell (R372, R373): a full queue drops its oldest request. -/
def askPhase (e : Fin 2) (p : Phase) (s : State) : State :=
  match s.radio[e].queue with
  | a :: b :: _ =>
    let s := radioEvent e 10 (fun r => { r with queue := [b, p], doorDrop := true }) s
    endLearned e a.e 7 s
  | q => modRadio e (fun r => { r with queue := q ++ [p] }) s

/-- The words of a handoff range copied into the radio engine's scratchpad at an offset. -/
def bridgeWords (e : Fin 2) (off n at_ : Nat) (s : State) : State :=
  let bs := (List.range n).flatMap fun i => wordBytes (handoff e (off + i) s)
  modCore (radioUnit e) (fun c => { c with pad := Cells.puts 0 c.pad at_ bs }) s

/-- The copy of a request lands (R369, R373): basin 12 at a TRAIN, basin 13 at an END, with their FILL. -/
def landCopy (e : Fin 2) (dm : Bool) (s : State) : State :=
  if dm then
    let g := groupsG (handoff e 0x26D s)
    let s := bridgeWords e 0x26C 4 basin13 s
    let s := bridgeWords e 0x280 (200 * g) (basin13 + 16) s
    modCore (radioUnit e) (fun c => { c with basins := setV c.basins 13 (radioBasin basin13 16 (16 + 800 * g)) }) s
  else
    let s := bridgeWords e 0 0x270 basin12 s
    modCore (radioUnit e) (fun c => { c with basins := setV c.basins 12 (radioBasin basin12 16 2496) }) s

/-- Why the learned path of a slot is over before it begins: LEARNED_EN 0 or no active manifest (R378). -/
def learnedBar (r : Radio) : Option Nat :=
  if !r.learnedEn then some 2 else if r.active.isNone then some 1 else none

/-- Signed CE_DL and DM_DL deadlines of a slot (R370, R385). -/
def phaseDeadline (r : Radio) (dm : Bool) (v : Word) : Word :=
  v + BitVec.ofInt 32 (1000 * (if dm then (r.dmDl.toNat : Int) else r.ceDl.toInt))

/-- A request whose copy must wait for a running phase that reads the basin (R373). -/
def newPhase (e : Fin 2) (dm : Bool) (v : Word) (s : State) : Phase :=
  { dm := dm, e := v, ready := s.clk.raw + 2048, deadline := phaseDeadline s.radio[e] dm v,
    waited := match s.radio[e].phase with | none => false | some p => p.dm == dm }

/-- The TRAIN doorbell (R364, R378). -/
def doorTrain (e : Fin 2) (s : State) : State :=
  let v := handoff e 0x26C s
  let x : RadioSlot := { e := v }
  match learnedBar s.radio[e] with
  | some c => putSlot e { x with ended := true, cause := c } s
  | none => askPhase e (newPhase e false v s) (putSlot e x s)

/-- The HEADER doorbell (R364). -/
def doorHeader (e : Fin 2) (s : State) : State := askDecode e (.header (softs e 0xFA0 200 s)) s

/-- The END doorbell (R364, R380): a slot that is not demapped is recorded at once with PATH 2. (DEDUCED, log entry 89) -/
def doorEnd (e : Fin 2) (s : State) : State :=
  let v := handoff e 0x26C s
  let param := handoff e 0x26D s
  let map : Quad := BitVec.ofNat 64 ((handoff e 0x26E s).toNat + (handoff e 0x26F s).toNat * 2 ^ 32)
  let x := (slotOfE e v s).getD { e := v, ended := true, cause := (learnedBar s.radio[e]).getD 7 }
  let x := { x with param := param, map := map, hasEnd := true, hdr := headerWords e s }
  if !bitOf param.toNat 18 then writeRecord e 2 9 x false [] s
  else if bits param.toNat 8 5 != 0 && bits map.toNat 39 0 == 0 then writeRecord e 2 10 x false [] s
  else if lengthBad param map then writeRecord e 2 11 x false [] s
  else
    let s := select e x s
    if x.ended then s else askPhase e (newPhase e true v s) s

/-- The CLASSIC doorbell (R364, R378). -/
def doorClassic (e : Fin 2) (s : State) : State :=
  match slotOfE e (handoff e 0x26C s) s with
  | none => s
  | some x => if x.decided then s else select e { x with classic := true } s

/-- The DECODE doorbell (R361, R364): an unsupported rate is counted and not decoded. -/
def doorDecode (e : Fin 2) (s : State) : State :=
  let param := handoff e 0x26D s
  if bits param.toNat 4 3 == 3 then { s with iq := { s.iq with unsup := satInc s.iq.unsup } }
  else
    let rate := bits param.toNat 4 3
    let n := paramLen param
    let sent := (n * (rateK rate + 1) + rateK rate - 1) / rateK rate
    askDecode e (.own (softs e 0xBE0 sent s) param) s

/-- A store to the doorbell word (R364). -/
def doorbell (e : Fin 2) (w : Word) (s : State) : State :=
  if w.toNat / 16 == 0 then
    match w.toNat with
    | 1 => doorTrain e s
    | 2 => doorHeader e s
    | 3 => doorEnd e s
    | 4 => doorClassic e s
    | 5 => doorDecode e s
    | _ => radioEvent e 8 (fun r => { r with doorBad := true }) s
  else radioEvent e 8 (fun r => { r with doorBad := true }) s

/-! ### Activation -/

/-- The runs of an extent list that lie each within one 960-byte line: DRAM address, scratchpad offset, length, each
extent at the next multiple of 1 KiB (R368, R384). -/
def copyRuns : Nat → Nat → List (Nat × Nat) → List (Nat × Nat × Nat)
  | 0, _, _ => []
  | _, _, [] => []
  | fuel + 1, off, (b, n) :: rest =>
    if n == 0 then copyRuns fuel ((off + 1023) / 1024 * 1024) rest
    else
      let k := min n (960 - b % 960)
      (b, off, k) :: copyRuns fuel (off + k) ((b + k, n - k) :: rest)

/-- The runs of a manifest; 6 MiB of extents have at most 8,000. -/
def RadioMan.runs (m : RadioMan) : List (Nat × Nat × Nat) := copyRuns 20000 0 m.extents

/-- The request of the extent copy is granted, and the next one posted (R247, R384). (DESIGN CHOICE, log entry 42) -/
def copyGranted (e : Fin 2) (s : State) : State := modRadio e (fun r => { r with copyPos := r.copyPos + 1, copyAt := s.grid }) s

/-- Line i of the extent copy lands (R368, R384), of which `data` are the 960 bytes; landing the last after DUE sets ACT_LATE. -/
def landCopyLine (e : Fin 2) (i : Nat) (data : List Byte) (s : State) : State :=
  let r := s.radio[e]
  match r.next with
  | none => s
  | some m =>
    match m.runs[i]? with
    | none => s
    | some (a, off, n) =>
      let bs := (data.drop (a % 960)).take n
      let late := decide (r.copyLanded + 1 = m.runs.length) && decide (r.copyDue < s.grid)
      noteIf late (0xF051000010 + 0x100 * e.1) 12 <| modRadio e (fun r => { r with copyLanded := r.copyLanded + 1, actLate := r.actLate || late })
        (modCore (radioUnit e) (fun c => { c with pad := Cells.puts 0 c.pad off bs }) s)

/-- Settings that wait for a boundary take effect (R385). -/
def Radio.commit (r : Radio) : Radio :=
  let r := match r.pendCfg with
    | none => r
    | some w => { r with
        pendCfg := none, learnedEn := w.getLsbD 0, exitEn := w.getLsbD 1
        ceThr := BitVec.ofNat 8 (bits w.toNat 15 8), dmThr := BitVec.ofNat 8 (bits w.toNat 23 16) }
  let r := match r.pendDl with
    | none => r
    | some w => { r with
        pendDl := none, ceDl := BitVec.ofNat 9 (bits w.toNat 8 0), dmDl := BitVec.ofNat 8 (bits w.toNat 23 16) }
  match r.pendOut with
  | none => r
  | some w => { r with pendOut := none, outBase := BitVec.ofNat 14 (bits w.toNat 13 0) }

/-- What a beat boundary does to a pair (R368, R385): its settings take effect, and for its manifests: a copy that has landed is activated, and a replacement whose
engine runs no phase and holds none queued deactivates the old manifest and starts its copy. -/
def radioBoundary (e : Fin 2) (s : State) : State :=
  modRadio e (fun r =>
    let r := r.commit
    match r.next with
    | none => r
    | some m =>
      if r.copying then
        if m.runs.length ≤ r.copyLanded then { r with active := some m, next := none, copying := false, copyPos := 0, copyLanded := 0 } else r
      else if r.phase.isNone && r.queue.isEmpty then
        { r with active := none, copying := true, copyPos := 0, copyLanded := 0, copyAt := s.grid, copyDue := s.grid + 500000 }
      else r) s

/-- RADIO_MANe STATE (R385). -/
def Radio.manState (r : Radio) : Nat :=
  if r.copying then 1 else if r.active.isSome then (if r.next.isSome then 3 else 2) else 0

end Sys2Proof.Machine
end

