-- ==== Sys2Proof/Machine/CoreOps.lean ====
section
/-! DEFINITION. The shared operations of a core (chapter 06): basins and their pointers (R169 to R176), banks and late
writes (R178, R179), scratchpad upsets (R406), the issue of a timetable entry by the sequencer (R185, R188, R532). -/

namespace Sys2Proof.Machine

/-! ### Basins -/

/-- SIZE in bytes. -/
def Basin.size (b : Basin) : Nat := b.sizeKib * 1024

/-- BASE in bytes. -/
def Basin.base (b : Basin) : Nat := b.baseKib * 1024

/-- FILL (R170). -/
def Basin.fill (b : Basin) : Nat :=
  if b.head = b.tail then (if b.hwrap = b.twrap then 0 else b.size) else (b.tail + b.size - b.head) % b.size

/-- Bytes counted for a cycle: those of an earlier cycle no longer count. -/
def inCycle (now : Nat) (x : Nat × Nat) : Nat := if x.1 = now then x.2 else 0

/-- The part of FILL that is usable in a cycle: bytes appended in that cycle are not (R67, R175). -/
def Basin.usable (now : Nat) (b : Basin) : Nat := b.fill - inCycle now b.wrote

/-- Free space that a writer may use in a cycle: reserved space is taken off, and space freed in that cycle (R175, R176). (DEDUCED, log entry 26) -/
def Basin.free (now : Nat) (b : Basin) : Nat := b.size - b.fill - b.reserved - inCycle now b.freed

/-- HEAD advanced by n bytes in a cycle (R170). -/
def Basin.take (now n : Nat) (b : Basin) : Basin :=
  { b with head := (b.head + n) % b.size, hwrap := b.hwrap != decide (b.size ≤ b.head + n)
           freed := (now, inCycle now b.freed + n) }

/-- TAIL advanced by n bytes in a cycle (R170). -/
def Basin.append (now n : Nat) (b : Basin) : Basin :=
  { b with tail := (b.tail + n) % b.size, twrap := b.twrap != decide (b.size ≤ b.tail + n)
           wrote := (now, inCycle now b.wrote + n) }

/-- Basin number n of a core. -/
def Core.basin (n : Fin 16) (c : Core) : Basin := c.basins[n]

/-- Basin n of a core changed by f. -/
def Core.modBasin (n : Fin 16) (f : Basin → Basin) (c : Core) : Core := { c with basins := modV c.basins n f }

/-- The basin number of a four-bit field. -/
def basinNo (v : Nat) : Fin 16 := Fin.ofNat 16 v

/-- The scratchpad runs (address, length) of n bytes of a basin from offset o, wrapping at SIZE (R170). -/
def Basin.runs (b : Basin) (o n : Nat) : List (Nat × Nat) :=
  let o := o % b.size
  if o + n ≤ b.size then [(b.base + o, n)] else [(b.base + o, b.size - o), (b.base, n - (b.size - o))]

/-- n bytes of a basin from offset o. -/
def Core.bytes (c : Core) (b : Basin) (o n : Nat) : List Byte := (b.runs o n).flatMap fun r => Cells.gets 0 c.pad r.1 r.2

/-- What a core's scratchpad holds of an address before the writes of the present cycle (R67, R167). -/
def Core.before (now a : Nat) (c : Core) : Byte :=
  if c.padOld.1 = now then ((c.padOld.2.find? fun x => x.1 == a).map (·.2)).getD (Cells.get 0 c.pad a) else Cells.get 0 c.pad a

/-- Scratchpad bytes written at runs. -/
def putRuns (pad : Memory) : List (Nat × Nat) → List Byte → Memory
  | [], _ => pad
  | r :: rs, bs => putRuns (Cells.puts 0 pad r.1 (bs.take r.2)) rs (bs.drop r.2)

/-- Bytes of a port written at runs in a raw cycle; a read of the same cycle still finds the bytes that stood there (R67, R167). -/
def Core.writeRuns (now : Nat) (rs : List (Nat × Nat)) (bs : List Byte) (c : Core) : Core :=
  let old := rs.flatMap fun r => (List.range r.2).map fun i => (r.1 + i, Cells.get 0 c.pad (r.1 + i))
  { c with pad := putRuns c.pad rs bs, padOld := (now, (if c.padOld.1 = now then c.padOld.2 else []) ++ old) }

/-- Bytes appended at the TAIL of a basin, their reservation ended (R175). -/
def Core.appendBytes (now : Nat) (n : Fin 16) (bs : List Byte) (c : Core) : Core :=
  let b := c.basin n
  let c := c.writeRuns now (b.runs b.tail bs.length) bs
  { c with basins := setV c.basins n { b.append now bs.length with reserved := b.reserved - bs.length } }

/-- Bytes of a bank (R166). -/
def bankBytes : Nat := 262144

/-- The banks that runs touch. -/
def banksOf (rs : List (Nat × Nat)) : List (Fin 32) :=
  (List.finRange 32).filter fun k => rs.any fun r => r.2 != 0 && decide (r.1 / bankBytes ≤ k.1) && decide (k.1 ≤ (r.1 + r.2 - 1) / bankBytes)

/-- The state of a bank in a raw cycle (R178). -/
def Bank.at_ (now : Nat) (b : Bank) : BankState := if b.since ≤ now then b.st else b.old

/-- The bank passes to another state from raw cycle w on. (DEDUCED, log entry 18) -/
def Bank.to (now w : Nat) (x : BankState) (b : Bank) : Bank := { st := x, since := w, old := b.at_ now }

/-- Does the bank sleep in a raw cycle? -/
def Bank.asleep (now : Nat) (b : Bank) : Bool := b.at_ now == .sleepRet || b.at_ now == .sleepOff

/-- Every bank of the runs is ON. -/
def Core.banksOn (now : Nat) (c : Core) (rs : List (Nat × Nat)) : Bool := (banksOf rs).all fun k => (c.banks[k]).at_ now == .on

/-- May n bytes be read from basin b at offset o: every bank they touch is ON (R179)? -/
def Core.readable (now : Nat) (c : Core) (b : Basin) (o n : Nat) : Bool := c.banksOn now (b.runs o n)

/-- The first raw cycle from t to `hi` in which a bank is not ON, as far as it is known. -/
def Bank.offFrom (t hi : Nat) (b : Bank) : Option Nat :=
  if hi < t then none
  else if b.at_ t != .on then some t
  else if decide (t < b.since ∧ b.since ≤ hi) && b.st != .on then some b.since
  else none

/-- The first raw cycle from t on in which a read of the spans meets a bank that is not ON (R179). -/
def Core.badSpan (t : Nat) (c : Core) (spans : List (Fin 32 × Nat × Nat)) : Option Nat :=
  (spans.filterMap fun x => (c.banks[x.1]).offFrom (max t x.2.1) x.2.2).min?

/-- What is known from raw cycle t on of a read that meets a bank that is not ON: one of an earlier cycle stands. -/
def Core.reread (t : Nat) (c : Core) (spans : List (Fin 32 × Nat × Nat)) (bad : Option Nat) : Option Nat :=
  match bad with
  | none => c.badSpan t spans
  | some x => if x < t then some x else c.badSpan t spans

/-- The reads in progress after a change of a bank in raw cycle t (R179). -/
def Core.recheck (t : Nat) (c : Core) : Core :=
  { c with
    eng := { c.eng with passes := c.eng.passes.map fun p => { p with bad := c.reread t p.spans p.bad } }
    vec := { c.vec with entry := c.vec.entry.map fun v => { v with bad := c.reread t v.spans v.bad } } }

/-- The spans of a read of `len` bytes of basin n from offset o, of which byte i is read in raw cycle `cyc i` (R167, R179). -/
def Core.spansOf (cyc : Nat → Nat) (c : Core) (n : Fin 16) (o len : Nat) : List (Fin 32 × Nat × Nat) :=
  let b := c.basin n
  let cut (from_ : Nat) (r : Nat × Nat) : List (Fin 32 × Nat × Nat) := (banksOf [r]).map fun k =>
    let lo := max r.1 (k.1 * bankBytes) - r.1 + from_
    let hi := min (r.1 + r.2) ((k.1 + 1) * bankBytes) - r.1 + from_
    (k, cyc lo, cyc (hi - 1))
  match b.runs o len with
  | [r] => cut 0 r
  | [r, q] => cut 0 r ++ cut r.2 q
  | _ => []

/-- A wake of bank k begins in raw cycle w (R178): the bytes of SLEEP_OFF are gone. (DEDUCED, log entry 18) -/
def Core.wake (now w : Nat) (k : Fin 32) (c : Core) : Core :=
  if (c.banks[k]).asleep now then
    { c with
      banks := modV c.banks k (Bank.to now w .waking)
      pad := if (c.banks[k]).at_ now == .sleepOff then Cells.clear c.pad (k.1 * bankBytes) bankBytes else c.pad }
  else c

/-- Banks woken in raw cycle w. -/
def Core.wakeAll (now w : Nat) (ks : List (Fin 32)) (c : Core) : Core := (ks.foldl (fun c k => c.wake now w k) c).recheck w

/-- Unit n consumes a STREAM basin in this beat; a second unit breaks R174. -/
def Basin.consumedBy (n : Fin 3) (b : Basin) : Bool := b.hold || b.consumer.isNone || b.consumer == some n

/-- Port n writes the basin in this beat; a second port breaks R174. -/
def Basin.writtenBy (n : Fin 3) (b : Basin) : Bool := b.port.isNone || b.port == some n

/-- The consumer of a STREAM basin is noted for the beat (R174). -/
def Basin.claim (n : Fin 3) (b : Basin) : Basin := if b.hold then b else { b with consumer := some n }

/-! ### Entries -/

/-- The job for whose period an entry works, and that period (R388). -/
structure Work where
  job    : Option (Fin 12) := none
  period : Nat := 0
  deriving DecidableEq, Repr

/-- Where an entry stands at the head of a core's context: context and half. -/
def Core.headPlace (op : Nat) (e : Entry) (c : Core) : Option (Fin 5 × Fin 2) :=
  ((List.finRange 5).flatMap fun k => (List.finRange 2).map fun h => (k, h)).find? fun p =>
    (c.seq.halves[p.1][p.2]).entries.head? == some (op, e)

/-- The job whose entries context k of core u holds (R182). -/
def State.ctxJob (s : State) (u k : Nat) : Option (Fin 12) :=
  (s.jobs.all.find? fun x => x.2.ctx == k && x.2.usesCore u).map (·.1)

/-- The job that an entry of core u belongs to: that of the context it heads, otherwise the owner of the beat. -/
def State.workOf (s : State) (u : UnitIdx) (op : Nat) (e : Entry) : Work :=
  let c := s.cores[u]
  let k : Option (Fin 12) :=
    if 64 ≤ u.1 then none
    else match c.headPlace op e with
      | some p => s.ctxJob u.1 p.1.1
      | none => c.seq.owner.bind fun o => s.slotOf o.toNat
  match k with
  | none => {}
  | some k => match s.job k with
    | none => {}
    | some j => { job := some k, period := j.entryPeriod (entryBeat e) s.clk.beat }

/-- The entry leaves its context or the list of entries to issue again, is counted, and ends a hold and the STOPPED of an engine
(R100, R190, R191). -/
def Core.popEntry (op : Nat) (e : Entry) (c : Core) : Core :=
  let seq := match c.headPlace op e with
    | none => c.seq
    | some p => { c.seq with halves := modV c.seq.halves p.1 fun hs => modV hs p.2 fun h => { h with entries := h.entries.drop 1 } }
  let eng := if op == 1 && c.eng.rerun.head? == some e then { c.eng with rerun := c.eng.rerun.drop 1 } else c.eng
  let vec := if c.vec.rerun == some (op, e) then { c.vec with rerun := none } else c.vec
  { c with
    seq := { seq with issued := seq.issued + 1, holding := false, holdCause := 0, held := 0, permitted := false }
    eng := { eng with resumed := true, draining := if op == 1 && eng.passes.isEmpty then none else eng.draining }
    vec := vec }

/-- The power domain of a core or radio engine is on (R418). -/
def State.unitOn (s : State) (u : UnitIdx) : Bool :=
  if u.1 < 64 then s.coreOn u.1 else s.dom.hub.getLsbD (5 + (u.1 - 64))

/-- A MANIFEST event of an entry (R57): the job's; on a radio engine the radio manifest's fault (R377). -/
def manifestAt (u : UnitIdx) (w : Work) (s : State) : State :=
  if u.1 < 64 then manifestOf w.job s else radioFault (Fin.ofNat 2 u.1) s

/-- What the sequencer finds of an entry: it holds with a cause, it breaks a rule, it may issue. -/
inductive Ready where
  | hold (cause : Nat)
  | bad
  | go
  deriving DecidableEq, Repr

/-- The first answer that is not `go`. -/
def Ready.andThen : Ready → Ready → Ready
  | .go, r => r
  | r, _ => r

/-- A rule: broken when false. (DEDUCED, log entry 16) -/
def must (b : Bool) : Ready := if b then .go else .bad

/-- A condition the entry waits for, with its cause. -/
def waits (cause : Nat) (b : Bool) : Ready := if b then .go else .hold cause

/-- All checks in order. (DEDUCED, log entry 16) -/
def checks (rs : List Ready) : Ready := rs.foldl Ready.andThen .go

/-- Has an element saturated in a cycle up to `now` that SAT does not show yet (R79)? No step of a pass that a stop in cycle t
interrupted is performed later than t. -/
def Engine.saturated (now : Nat) (g : Engine) : Bool :=
  g.passes.any fun p => match p.satAt with
    | none => false
    | some t => decide (g.satTo ≤ t ∧ t ≤ now) && (match g.draining with | none => true | some d => decide (t ≤ d ∨ p.last ≤ d))

/-- An element saturates in a cycle. -/
def Engine.satIn (now : Nat) (g : Engine) : Bool :=
  g.passes.any fun p => p.satAt == some now && (match g.draining with | none => true | some d => decide (now ≤ d ∨ p.last ≤ d))

/-- SAT takes in the saturations of cycles up to `now` (R79, R105). -/
def Engine.settle (now : Nat) (g : Engine) : Engine := { g with sat := g.sat || g.saturated now, satTo := max g.satTo (now + 1) }

/-- The release of a cascade's tile takes effect from its cycle on (R145). -/
def Core.release (now : Nat) (c : Core) : Core :=
  match c.vec.entry with
  | none => c
  | some v =>
    match v.release with
    | none => c
    | some (t, r) =>
      if now < r then c
      else { c with
             eng := { c.eng with tiles := modV c.eng.tiles t fun x => { x with st := .free, since := r } }
             vec := { c.vec with entry := some { v with release := none } } }

/-- What has fallen due by itself in a core up to a raw cycle: saturations, the release of a cascade's tile. -/
def Core.settle (now : Nat) (c : Core) : Core := { c with eng := c.eng.settle now }.release now

/-- The banks of runs that sleep in a raw cycle. -/
def Core.sleeping (t : Nat) (rs : List (Nat × Nat)) (c : Core) : List (Fin 32) := (banksOf rs).filter fun k => (c.banks[k]).asleep t

/-- A late write is counted, and under CTL_STRICT is the LATE_WRITE event (R179). -/
def countLate (u : UnitIdx) (w : Option (Fin 12)) (s : State) : State :=
  let s := modCore u (fun c => { c with seq := { c.seq with lateCnt := satInc c.seq.lateCnt } }) s
  if s.det.strict then contractEvent 6 w s else s

/-- A write whose runs touch banks that are not ON reaches their ingress: a forced wake of those that sleep begins now, and a write
that meets one is a late write (R179). -/
def lateWrite (u : UnitIdx) (w : Option (Fin 12)) (rs : List (Nat × Nat)) (s : State) : State :=
  let k := s.cores[u].sleeping s.clk.raw rs
  if k.isEmpty then s else countLate u w (modCore u (Core.wakeAll s.clk.raw s.clk.raw k) s)

/-- The bytes of the next word of a SEQ_PUT, and where they go. -/
def SeqPut.word (p : SeqPut) : List Byte := (p.bytes.drop (8 * p.done)).take 8

/-- The scratchpad runs of the next word of a SEQ_PUT. -/
def Core.putRuns8 (p : SeqPut) (c : Core) : List (Nat × Nat) := (c.basin p.basin).runs (p.start + 8 * p.done) 8

/-- The next word of a SEQ_PUT is written in raw cycle t; with the last one TAIL advances (R175, R186). -/
def Core.putWord (t : Nat) (p : SeqPut) (c : Core) : Core :=
  let c := c.writeRuns t (c.putRuns8 p) p.word
  if p.bytes.length ≤ 8 * (p.done + 1) then
    let n := p.bytes.length
    let c := c.modBasin p.basin fun b => { b.append t n with reserved := b.reserved - n }
    { c with seq := { c.seq with put := none, putTo := t + 1 } }
  else { c with seq := { c.seq with put := some { p with done := p.done + 1, next := t + 1 } } }

/-- The raw cycle, no later than `now`, in which the banks of runs are all ON from cycle t on. -/
def Core.onFrom (now t : Nat) (rs : List (Nat × Nat)) (c : Core) : Option Nat :=
  if c.banksOn t rs then some t
  else if c.banksOn now rs then some ((banksOf rs).foldl (fun m k => max m (c.banks[k]).since) t)
  else none

/-- The next word of a SEQ_PUT whose cycle has come is written, or waits at the ingress of a bank that is not ON; the first such
word that meets a sleeping bank makes the put a late write (R179). -/
def stepPut (u : UnitIdx) (s : State) : State :=
  let c := s.cores[u]
  match c.seq.put with
  | none => s
  | some p =>
    if s.clk.raw < p.next then s
    else
      let rs := c.putRuns8 p
      match c.onFrom s.clk.raw p.next rs with
      | some t => modCore u (Core.putWord t p) s
      | none =>
        let k := c.sleeping p.next rs
        if k.isEmpty then s
        else
          let s := modCore u (fun c => { c.wakeAll p.next p.next k with seq := { c.seq with put := some { p with late := true } } }) s
          if p.late then s else countLate u (c.seq.owner.bind fun o => s.slotOf o.toNat) s

/-- The host's narrow-view writes whose banks are ON are carried out (R168, R179). -/
def Core.landNarrow (now : Nat) (c : Core) : Core :=
  let on (x : Nat × Nat) : Bool := c.banksOn now [(x.1, 8)]
  { (c.narrow.filter on).foldl (fun c x => c.writeRuns now [(x.1, 8)] (natLE 8 x.2)) c with narrow := c.narrow.filter fun x => !on x }

/-- The words of a SEQ_PUT, at most 127, that are due are written (R186). -/
def landPut (u : UnitIdx) (s : State) : State := (List.range 127).foldl (fun s _ => stepPut u s) s

/-! ### Engine time (R264) -/

/-- Cycles of an interval that lie from lo to below hi. -/
def clip (lo hi : Nat) (i : Nat × Nat) : Nat := min hi i.2 - max lo i.1

/-- The raw cycles, first and first beyond, in which steps of a pass enter; none after a stop (R99). -/
def Engine.stepCycles (g : Engine) (p : Pass) : Nat × Nat :=
  (p.entered + p.init, match g.draining with
    | none => p.entered + p.len
    | some d => if p.last ≤ d then p.entered + p.len else min (p.entered + p.len) (d + 1))

/-- The raw cycles of a vector entry, none after a stop. -/
def VecEngine.cycles (k : Option (Fin 12)) (v : VecEngine) : Nat × Nat :=
  match v.entry with
  | none => (0, 0)
  | some e => if e.job == k then (e.issued, match v.draining with | none => e.issued + e.len | some d => min (e.issued + e.len) (d + 1))
    else (0, 0)

/-- Engine time of a job on a core from raw cycle lo to below hi (R264): the cycles in which a step enters or, with `vec`, the
vector engine works, each once. -/
def Core.useOf (k : Fin 12) (lo hi : Nat) (vec : Bool) (c : Core) : Nat :=
  let ps := (c.eng.passes.filter fun p => p.job == some k).map c.eng.stepCycles
  let v := if vec then c.vec.cycles (some k) else (0, 0)
  (ps.map (clip lo hi)).sum + (clip lo hi v - (ps.map (clip (max lo v.1) (min hi v.2))).sum)

/-- Engine time of a core up to below raw cycle hi is counted for its jobs (R264). (DEDUCED, log entry 63) -/
def settleUse (u : UnitIdx) (hi : Nat) (vec : Bool) (s : State) : State :=
  let c := s.cores[u]
  let count (k : Fin 12) (j : Job) : Job :=
    let n := c.useOf k c.useTo hi vec
    if j.isSafety then j else { j with used := j.used + BitVec.ofNat 64 n, frameUse := j.frameUse + n }
  let s := if u.1 < 64 then { s with jobs := { s.jobs with slots := Vector.ofFn fun k => (s.jobs.slots[k]).map (count k) } } else s
  modCore u (fun c => { c with useTo := max c.useTo hi }) s

/-- What has fallen due on a core since its last command takes effect. (DEDUCED, log entry 63) -/
def settleCore (u : UnitIdx) (s : State) : State := landPut u (modCore u (Core.settle s.clk.raw) (settleUse u s.clk.raw true s))

/-- The phase that runs on the radio engine of unit u (R372). -/
def State.phaseOf (s : State) (u : UnitIdx) : Option Phase := s.radio[(Fin.ofNat 2 u.1)].phase

/-- The grid beat that an entry of a core is stated in. An entry of no job is the island's, for the present beat. -/
def State.statedIn (s : State) (u : UnitIdx) (op : Nat) (e : Entry) : Nat :=
  match (s.workOf u op e).job.bind s.job with
  | none => s.clk.beat
  | some j => j.statedBeat (entryBeat e) s.clk.beat

/-- The grid cycle from which an entry of a core may issue: its stated cycle plus the core's slip (R185). -/
def State.dueGrid (s : State) (u : UnitIdx) (op : Nat) (e : Entry) : Nat :=
  s.statedIn u op e * beatCycles + e.cycle + s.cores[u].seq.slip

/-- The state in the cycle in which an entry is due, with what falls due until then; none while that cycle lies beyond the
next boundary. An entry of a radio engine counts from the start of its phase, CE at BEAT 0 and DM at BEAT 1 (R366). -/
def toEntry (u : UnitIdx) (op : Nat) (e : Entry) (s : State) : Option State :=
  let t := if 64 ≤ u.1 then
      match s.phaseOf u with
      | none => none
      | some p => if entryBeat e = b2n p.dm then reach (p.ready + e.cycle + s.cores[u].seq.slip) s else none
    else if s.clk.running then reachGrid (s.dueGrid u op e) s
    else none
  t.map (settleCore u)

/-- The engines of a SAFETY job that continues after a throttle stay quiet until their quiet time ends (R426). -/
def State.quiet (s : State) : Bool := match s.pwr.quietTo with | none => false | some t => decide (s.clk.raw < t)

/-- A stop drains the core (R100, R158): no entry issues. -/
def Core.stopping (c : Core) : Bool := (c.eng.draining.isSome && !c.eng.passes.isEmpty) || c.vec.draining.isSome

/-! ### The next entry -/

/-- Does the job issue entries in a grid beat (R48)? -/
def Job.marks (j : Job) (beat : Nat) : Bool := j.started beat && j.beatMap.getD (j.beatAt beat) false

/-- The entries of a grid beat for a core, as the manifest image in DRAM states them (R182). -/
def coreEntries (img : List Byte) (j : Job) (c beat : Nat) : List (Nat × Entry) :=
  (unitEntries img j 1 8 c).filter fun x => entryBeat x.2 == j.beatAt beat

/-- The first entry of the owner's beat as the manifest states it, while its half is not complete (R184). -/
def State.unfetched (s : State) (u : UnitIdx) : Option (Nat × Entry) :=
  match s.ctxJob u.1 s.cores[u].seq.context.1 with
  | none => none
  | some k => match s.job k with
    | none => none
    | some j => if j.marks s.clk.beat then (coreEntries (s.image j) j u.1 s.clk.beat).head? else none

/-- The interrupted entry that issues again first: the one stated first (R101, R158, R188). -/
def State.rerunFirst (s : State) (u : UnitIdx) : Option (Nat × Entry) :=
  let c := s.cores[u]
  match c.vec.rerun, c.eng.rerun with
  | none, [] => none
  | some x, [] => some x
  | none, e :: _ => some (1, e)
  | some x, e :: _ => if s.dueGrid u 1 e < s.dueGrid u x.1 x.2 then some (1, e) else some x

/-- The entries of the owner's context for a beat, when they are complete. -/
def Core.ownEntries (beat : Nat) (c : Core) : Option (List (Nat × Entry)) :=
  ((c.seq.halves.toList.getD c.seq.context.1 (Vector.replicate 2 {})).toList.find? fun h => h.beat == beat && h.complete).map
    fun h => h.entries

/-- The entries of earlier beats that a core has still to issue (R57). -/
def Core.lateEntries (beat : Nat) (c : Core) : List (Nat × Entry) :=
  (((c.seq.halves.toList.flatMap fun hs => hs.toList).find? fun h => decide (h.beat < beat) && !h.entries.isEmpty).map
    fun h => h.entries).getD []

/-- The entries of a radio engine's running phase that have not issued (R366). -/
def State.phaseEntries (s : State) (u : UnitIdx) : List (Nat × Entry) :=
  let r := s.radio[(Fin.ofNat 2 u.1)]
  match r.phase, r.active with
  | some p, some m => (m.timetable.filter fun x => entryBeat x.2 == b2n p.dm).drop p.issued
  | _, _ => []

/-- The entry that a core or radio engine issues next, and whether it is in its context: an interrupted one, one of an earlier
beat, the next of the owner's for the present beat (R56, R184, R185, R188). -/
def State.nextEntry (s : State) (u : UnitIdx) : Option (Nat × Entry × Bool) :=
  let c := s.cores[u]
  match s.rerunFirst u with
  | some x => some (x.1, x.2, true)
  | none =>
    if 64 ≤ u.1 then (s.phaseEntries u).head?.map fun x => (x.1, x.2, true)
    else match c.lateEntries s.clk.beat with
      | x :: _ => some (x.1, x.2, true)
      | [] =>
        match c.ownEntries s.clk.beat with
        | some es => es.head?.map fun x => (x.1, x.2, true)
        | none => (s.unfetched u).map fun x => (x.1, x.2, false)

/-- Does the island drive the sequencer directly: no job owns the core, or a phase runs of which no timetable is known (R182)? -/
def State.islandDriven (s : State) (u : UnitIdx) : Bool :=
  if 64 ≤ u.1 then s.radio[(Fin.ofNat 2 u.1)].active.isNone else s.cores[u].seq.owner.isNone

/-- Is this the entry that issues next (R56, R184, R185)? -/
def State.inTurn (s : State) (u : UnitIdx) (op : Nat) (e : Entry) : Bool :=
  match s.nextEntry u with
  | some x => x == (op, e, true)
  | none => s.islandDriven u && (s.cores[u].headPlace op e).isNone

/-- What the core's owner before leaves is gone (R161, R177): V0 to V31, stage buffer and cistern are zero, VEC_CISTERN_CLR
counts one, and every basin is undefined. (DEDUCED, log entry 48) -/
def Core.clearOwner (c : Core) : Core :=
  { c with
    vec := { c.vec with
             v := Vector.replicate 32 (Vector.replicate 64 0), stage := [], cistern := [], cisternClr := satInc c.vec.cisternClr }
    basins := Vector.replicate 16 {}
    seq := { c.seq with carried := false } }

/-- Does the entry belong to the present owner while an earlier owner's carried entries have issued last (R57)? -/
def Core.follows (op : Nat) (e : Entry) (c : Core) : Bool :=
  c.seq.carried && ((c.headPlace op e).map fun p => p.1.1) == some c.seq.context.1

/-- Carried work still runs, behind which the present owner's entries hold (R57, R533). -/
def Core.behind (op : Nat) (e : Entry) (c : Core) : Bool :=
  c.follows op e && (!c.eng.passes.isEmpty || c.vec.entry.isSome || c.seq.put.isSome)

/-- The present owner's first entry behind carried ones finds a cleared core (R57, R161, R177). (DEDUCED, log entry 48) -/
def takeOver (u : UnitIdx) (op : Nat) (e : Entry) (s : State) : State :=
  if (s.cores[u]).follows op e && !(s.cores[u]).behind op e then modCore u Core.clearOwner s else s

/-- May the sequencer issue the entry that is due (R182, R185)? Its unit is on and neither quiet nor stopping, it is the next one,
and no work carried into the beat runs ahead of it. -/
def State.mayIssue (s : State) (u : UnitIdx) (op : Nat) (e : Entry) : Bool :=
  s.unitOn u && (!s.quiet || decide (64 ≤ u.1)) && !(s.cores[u]).stopping && s.inTurn u op e && !(s.cores[u]).behind op e

/-- An entry at the head of the context of a job that does not own the core in the present beat, and whose own turn it is not: another
job's entry found on the core (R52). -/
def State.intruder (s : State) (u : UnitIdx) (op : Nat) (e : Entry) : Option (Fin 12) :=
  let c := s.cores[u]
  match c.headPlace op e with
  | none => none
  | some p =>
    if p.1.1 == c.seq.context.1 || s.inTurn u op e || !(c.seq.halves[p.1][p.2]).complete ||
        (c.seq.halves[p.1][p.2]).beat != s.clk.beat then none
    else s.ctxJob u.1 p.1.1

/-- A radio engine's phase has issued one entry more. -/
def notePhase (u : UnitIdx) (s : State) : State :=
  if 64 ≤ u.1 then modRadio (Fin.ofNat 2 u.1) (fun r => { r with phase := r.phase.map fun p => { p with issued := p.issued + 1 } }) s else s

/-- An entry leaves its place in the timetable (R185). -/
def popNext (u : UnitIdx) (op : Nat) (e : Entry) (s : State) : State :=
  let again := (s.rerunFirst u).isSome
  let s := modCore u (Core.popEntry op e) s
  if again then s else notePhase u s

/-- An entry issues (R185): it is due and in turn. `chk` then holds it back, with no effect, finds a rule broken, which is a MANIFEST
event and the entry does not run (R532), or lets `run` take effect. (DESIGN CHOICE, log entry 2) (DEDUCED, log entry 8) -/
def issueEntry (u : UnitIdx) (op : Nat) (e : Entry) (chk : State → Ready) (run : Work → State → State) (s : State) : State :=
  match (toEntry u op e s).map (takeOver u op e) with
  | none => s
  | some s1 =>
    if !s1.mayIssue u op e then
      match s1.intruder u op e with
      | none => s
      | some k => manifestEvent k s1
    else
      match chk s1 with
      | .hold _ => s
      | .bad => let w := s1.workOf u op e; manifestAt u w (popNext u op e s1)
      | .go => let w := s1.workOf u op e; run w (popNext u op e s1)

/-- BEAT's reserved bits are zero (R45). -/
def headerOk (e : Entry) : Bool := decide (e.beat < 2 ^ 17)

/-- Did the entry issue in its stated cycle? -/
def State.onTime (s : State) (e : Entry) : Bool := s.clk.cyc == e.cycle

/-- An entry of a core that issued without slip and completes in the reserve breaks R53. (DEDUCED, log entry 32) (DEDUCED, log entry 41) -/
def checkReserve (u : UnitIdx) (w : Work) (slipless : Bool) (s : State) : State :=
  if slipless && decide (u.1 < 64 ∧ s.reserveAt ≤ s.clk.cyc) then manifestAt u w s else s

/-- What SEC-DED found on a scratchpad read of an entry or descriptor (R406). An address of 8 MiB and more names a word of
the cistern, of which an error flips the low 32 bits. (DESIGN CHOICE, log entry 22) -/
def upsetPad (u : UnitIdx) (w : Work) (up : SramUpset) (s : State) : State :=
  match up with
  | .none => s
  | .corrected n => { s with safe := { s.safe with corrected := satAdd s.safe.corrected n } }
  | .double a flip =>
    let s := modCore u (fun c =>
      if a < 2 ^ 23 then
        let a := a / 8 * 8
        { c with pad := Cells.puts 0 c.pad a (natLE 8 (Memory.num 0 c.pad a 8 ^^^ flip.toNat)) }
      else
        let i := (a - 2 ^ 23) % 65536
        { c with vec := { c.vec with cistern := Cells.put 0 c.vec.cistern i (Cells.get 0 c.vec.cistern i ^^^ BitVec.ofNat 32 flip.toNat) } }) s
    let s := { s with safe := { s.safe with uncorr := satInc s.safe.uncorr } }
    unprove w.job w.period (raiseFault 5 u.1 a w.job s)

/-- Work that completes on a suspect core makes its period UNPROVEN (R388). -/
def suspectWork (u : UnitIdx) (w : Work) (s : State) : State :=
  if s.safe.suspect.getLsbD u.1 then unprove w.job w.period s else s

end Sys2Proof.Machine
end

