-- ==== Sys2Proof/Machine/MathFn.lean ====
section
/-! DEFINITION. The functions of R136, correctly rounded: each value is enclosed between two exact numbers, at rising
precisions, until both round to the same code. -/

namespace Sys2Proof.Machine

/-- The whole square root of n, by its binary digits from bit k - 1 down. -/
def isqrtFrom (n : Nat) : Nat → Nat → Nat
  | 0, r => r
  | k + 1, r => let t := r + 2 ^ k; isqrtFrom n k (if t * t ≤ n then t else r)

/-- The largest r with r² ≤ n. -/
def isqrt (n : Nat) : Nat := isqrtFrom n (Nat.log2 n / 2 + 1) 0

/-- n / d rounded up. -/
def ceilDiv (n d : Nat) : Nat := (n + d - 1) / d

/-- A lower and an upper bound of the sum of t, t·x/i, t·x²/(i(i+1)), … with p fractional bits. -/
def taylor (p : Nat) (x : Nat × Nat) : Nat → Nat → Nat × Nat → Nat × Nat
  | 0, _, t => (t.1, t.2 + t.2)
  | k + 1, i, t =>
    let next := (t.1 * x.1 / 2 ^ p / i, ceilDiv (ceilDiv (t.2 * x.2) (2 ^ p)) i)
    let r := taylor p x k (i + 1) next
    (t.1 + r.1, t.2 + r.2)

/-- Bounds squared k times. -/
def squares (p : Nat) : Nat → Nat × Nat → Nat × Nat
  | 0, t => t
  | k + 1, t => squares p k (t.1 * t.1 / 2 ^ p, ceilDiv (t.2 * t.2) (2 ^ p))

/-- The value n/d · 2^e of p fractional bits, bounded. -/
def fixed (p n d : Nat) (e : Int) : Nat × Nat :=
  let f := scaleFrac n d (e + p)
  (f.1 / f.2, ceilDiv f.1 f.2)

/-- Bounds, with p fractional bits, of e to the power n/d · 2^e, which is positive and at most 2^9. -/
def expFixed (p n d : Nat) (e : Int) : Nat × Nat :=
  squares p 16 (taylor p (fixed p n d (e - 16)) (p / 7 + 2) 1 (2 ^ p, 2 ^ p))

/-- The exact number m / 2^p. -/
def ofFixed (p m : Nat) : Num := Num.scaled false m (-(p : Int))

/-- One. -/
def Num.one : Num := .fin false 1 1 0

/-- Two to the power k. -/
def Num.pow2 (k : Int) : Num := .fin false 1 1 k

/-- Bounds of e to the power x, for a finite x. -/
def expBounds (p : Nat) (x : Num) : Num × Num :=
  match x with
  | .fin neg n d e =>
    if (Num.pow2 9).lt x.abs then (if neg then (Num.pow2 (-700), Num.pow2 (-700)) else (Num.pow2 700, Num.pow2 700))
    else
      let b := expFixed p n d e
      let lo := ofFixed p b.1
      let hi := ofFixed p b.2
      if neg then (Num.one.div hi, Num.one.div lo) else (lo, hi)
  | _ => (Num.one, Num.one)

/-- Bounds of tanh x = 1 − 2/(e^2x + 1), for a finite x that is not zero. -/
def tanhBounds (p : Nat) (x : Num) : Num × Num :=
  let b := expBounds p (x.abs.add x.abs)
  let f (t : Num) : Num := (t.sub Num.one).div (t.add Num.one)
  if x.isNeg then ((f b.2).neg, (f b.1).neg) else (f b.1, f b.2)

/-- Bounds of the logistic function 1/(1 + e^−x). -/
def sigmoidBounds (p : Nat) (x : Num) : Num × Num :=
  let b := expBounds p x.neg
  (Num.one.div (Num.one.add b.2), Num.one.div (Num.one.add b.1))

/-- x times a bounded value. -/
def timesBounds (x : Num) (b : Num × Num) : Num × Num := (x.mul b.1, x.mul b.2)

/-- Bounds of the arctangent of 1/k with p fractional bits: the sum of ± 1/((2i + 1) k^(2i + 1)), all terms floored, off by
less than one unit a term. -/
def arctanInv (p k : Nat) : Nat → Nat → Int
  | 0, _ => 0
  | n + 1, i => (if i % 2 = 0 then 1 else -1) * ((2 ^ p / (k ^ (2 * i + 1) * (2 * i + 1)) : Nat) : Int) + arctanInv p k n (i + 1)

/-- Bounds of π with p fractional bits, by Machin's formula. -/
def piFixed (p : Nat) : Nat × Nat :=
  let n := p / 4 + 2
  let v := (16 * arctanInv p 5 n 0 - 4 * arctanInv p 239 n 0).toNat
  (v - 20 * (n + 1), v + 20 * (n + 1))

/-- Bounds of the sum of x, x³/3!!, x⁵/5!!, … where `sq` bounds x² and the next divisor is i. -/
def oddSeries (p : Nat) (sq : Nat × Nat) : Nat → Nat → Nat × Nat → Nat × Nat
  | 0, _, t => (t.1, t.2 + t.2)
  | k + 1, i, t =>
    let next := (t.1 * sq.1 / 2 ^ p / i, ceilDiv (ceilDiv (t.2 * sq.2) (2 ^ p)) i)
    let r := oddSeries p sq k (i + 2) next
    (t.1 + r.1, t.2 + r.2)

/-- Bounds of Φ(|x|) − 1/2 for |x| at most 16: the odd series over e^(x²/2) √(2π). -/
def phiBounds (p n d : Nat) (e : Int) : Num × Num :=
  let x := fixed p n d e
  let sq := fixed p (n * n) (d * d) (2 * e)
  let s := oddSeries p sq (p / 2 + 600) 3 x
  let ex := expFixed p (n * n) (d * d) (2 * e - 1)
  let pi := piFixed p
  let root := (isqrt (2 * pi.1 * 2 ^ p), isqrt (2 * pi.2 * 2 ^ p) + 1)
  ((ofFixed p s.1).div ((ofFixed p ex.2).mul (ofFixed p root.2)), (ofFixed p s.2).div ((ofFixed p ex.1).mul (ofFixed p root.1)))

/-- Bounds of GELU, x·Φ(x), for a finite x that is not zero. -/
def geluBounds (p : Nat) (x : Num) : Num × Num :=
  match x with
  | .fin neg n d e =>
    if (Num.pow2 4).lt x.abs then
      (if neg then (Num.pow2 (-180)).neg else x.sub (Num.pow2 (-180)),
       if neg then (Num.pow2 (-700)).neg else x.sub (Num.pow2 (-700)))
    else
      let b := phiBounds p n d e
      let half := Num.pow2 (-1)
      if neg then timesBounds x (half.sub b.2, half.sub b.1) else timesBounds x (half.add b.1, half.add b.2)
  | _ => (x, x)

/-- Bounds of SILU, x·σ(x), for a finite x that is not zero. -/
def siluBounds (p : Nat) (x : Num) : Num × Num :=
  if (Num.pow2 9).lt x.abs then
    let t := if x.isNeg then (Num.pow2 (-600)).neg else x.sub (Num.pow2 (-600))
    (t, t)
  else timesBounds x (sigmoidBounds p x)

/-- Bounds of 1/√x for a positive finite x; equal where the root is exact. -/
def rsqrtBounds (p : Nat) (x : Num) : Num × Num :=
  match x with
  | .fin _ n d e =>
    let f := scaleFrac d n (2 * p - e)
    let r := isqrt (f.1 / f.2)
    let exact := f.1 % f.2 == 0 && r * r == f.1 / f.2
    (ofFixed p r, ofFixed p (if exact then r else r + 1))
  | _ => (x, x)

/-- The rounded value of a bounded number: the first precision whose bounds round to one code. (DEDUCED, log entry 15) -/
def refine (f : Nat → Num × Num) (r : Num → Rounded) : List Nat → Rounded
  | [] => r (f 4096).1
  | p :: ps => let b := f p; if r b.1 = r b.2 then r b.1 else refine f r ps

/-- The precisions tried in turn. (DEDUCED, log entry 15) -/
def precisions : List Nat := [128, 512, 1024, 2048]

/-- The functions of R136, as FUNC codes them (R139). -/
inductive Func where
  | exp
  | recip
  | rsqrt
  | tanh
  | sigmoid
  | silu
  | gelu
  deriving DecidableEq, Repr

/-- The function of a FUNC field. -/
def funcOf : Nat → Option Func
  | 0 => some .exp
  | 1 => some .recip
  | 2 => some .rsqrt
  | 3 => some .tanh
  | 4 => some .sigmoid
  | 5 => some .silu
  | 6 => some .gelu
  | _ => none

/-- The results that are exact numbers (R136): those of special operands, and RECIP throughout. -/
def Func.exact (f : Func) (x : Num) : Option Num :=
  match x with
  | .nan => some .nan
  | .inf neg =>
    some (match f with
      | .exp => if neg then .zero false else .inf false
      | .recip => .zero neg
      | .rsqrt => if neg then .nan else .zero false
      | .tanh => if neg then Num.one.neg else Num.one
      | .sigmoid => if neg then .zero false else Num.one
      | .silu => if neg then .zero true else .inf false
      | .gelu => if neg then .zero true else .inf false)
  | .zero neg =>
    some (match f with
      | .exp => Num.one
      | .recip => .inf neg
      | .rsqrt => .inf neg
      | .tanh => x
      | .sigmoid => Num.pow2 (-1)
      | .silu => x
      | .gelu => x)
  | .fin neg _ _ _ =>
    match f with
    | .recip => some (Num.one.div x)
    | .rsqrt => if neg then some .nan else none
    | _ => none

/-- The bounds of a function of a finite number that is not zero. -/
def Func.bounds (f : Func) (p : Nat) (x : Num) : Num × Num :=
  match f with
  | .exp => expBounds p x
  | .recip => (Num.one.div x, Num.one.div x)
  | .rsqrt => rsqrtBounds p x
  | .tanh => tanhBounds p x
  | .sigmoid => sigmoidBounds p x
  | .silu => siluBounds p x
  | .gelu => geluBounds p x

/-- f(x) rounded once by r (R136). -/
def Func.eval (f : Func) (r : Num → Rounded) (x : Num) : Rounded :=
  match f.exact x with
  | some v => r v
  | none => refine (fun p => f.bounds p x) r precisions

/-- Is the exact result infinite or NaN on a finite operand (R164)? -/
def Func.nonfinite (f : Func) (x : Num) : Bool :=
  x.isFin && (match f.exact x with | none => false | some v => !v.isFin)

end Sys2Proof.Machine
end

