-- ==== Sys2Proof/Machine/PassMath.lean ====
section
/-! DEFINITION. The arithmetic of a pass: its fields (R74, R91), its records (R77, R124), contributions and accumulation
(R78 to R82, R118 to R122), and the weir's reference sums and comparison (R391, R392). -/

namespace Sys2Proof.Machine

/-- The fields of ENG_PASS (R91). -/
structure PassFields where
  act   : Nat
  wgt   : Nat
  tile  : Fin 4
  init  : Nat
  slot  : Fin 2
  outl  : Nat
  steps : Nat
  actB  : Fin 16
  wgtB  : Fin 16
  initB : Fin 16
  outaB : Fin 16
  outwB : Fin 16
  deriving DecidableEq, Repr

/-- The payload of ENG_PASS read. -/
def passFields (e : Entry) : PassFields :=
  let a := wordAt e.words 0
  let b := wordAt e.words 1
  { act := bits a 2 0, wgt := bits a 6 4, tile := Fin.ofNat 4 (bits a 9 8), init := bits a 11 10
    slot := Fin.ofNat 2 (bits a 12 12), outl := bits a 19 13, steps := bits b 15 0, actB := basinNo (bits b 19 16)
    wgtB := basinNo (bits b 23 20), initB := basinNo (bits b 27 24), outaB := basinNo (bits b 31 28)
    outwB := basinNo (bits (wordAt e.words 2) 3 0) }

/-- Reserved bits of ENG_PASS are zero. -/
def passZero (e : Entry) : Bool :=
  let a := wordAt e.words 0
  headerOk e && bits a 3 3 == 0 && bits a 7 7 == 0 && bits a 31 20 == 0 && bits (wordAt e.words 2) 31 4 == 0

/-- Depth d of a format combination, and whether it accumulates in FP32 (R74). -/
def passDepth (act wgt : Nat) : Option (Nat × Bool) :=
  if act = 0 ∧ wgt = 0 then some (4, false)
  else if (act = 1 ∨ act = 2) ∧ (wgt = 1 ∨ wgt = 2) then some (4, true)
  else if act = 3 ∧ wgt = 3 then some (1, true)
  else if act ≤ 2 ∧ wgt = 4 then some (8, true)
  else if act ≤ 2 ∧ wgt = 5 then some (4, true)
  else none

/-- Is the pass a codebook pass? -/
def PassFields.book (p : PassFields) : Bool := p.wgt == 4 || p.wgt == 5

/-- INIT cycles (R81). -/
def PassFields.initCycles (p : PassFields) : Nat := if p.init = 1 then 1 else if p.init = 2 then 4 else 0

/-- Occupancy P (R83). -/
def PassFields.occupancy (p : PassFields) : Nat := p.initCycles + p.steps + p.outl

/-- Bytes of activation records (R77). -/
def PassFields.actBytes (p : PassFields) (d : Nat) : Nat := if p.act = 3 then 64 * p.steps else 32 * d * p.steps

/-- Bytes of weight records (R77, R124). -/
def PassFields.wgtBytes (p : PassFields) (d : Nat) : Nat :=
  if p.wgt = 3 then 64 * p.steps
  else if p.book then 128 * p.steps + 128 * ((p.steps * d + 1023) / 1024) + 32 * ((p.steps * d + 31) / 32)
  else 128 * p.steps

/-- The basins a pass reads, with the bytes (R172). -/
def PassFields.reads (p : PassFields) (d : Nat) : List (Fin 16 × Nat) :=
  [(p.actB, p.actBytes d), (p.wgtB, p.wgtBytes d)] ++
  (if p.init = 1 then [(p.initB, 128)] else if p.init = 2 then [(p.initB, 4096)] else []) ++
  (if p.outl = 0 then [] else [(p.outaB, 64 * p.outl), (p.outwB, 64 * p.outl)])

/-- The format of an operand field or codebook entry. -/
def opFmt : Nat → Fmt
  | 0 => .i8
  | 1 => .e4m3
  | 2 => .e5m2
  | _ => .bf16

/-- Byte k of an array. -/
def byteAt (bs : Array Byte) (k : Nat) : Nat := (bs.getD k 0).toNat

/-- Little-endian word at byte k of an array. -/
def word32At (bs : Array Byte) (k : Nat) : Nat :=
  byteAt bs k + 256 * byteAt bs (k + 1) + 65536 * byteAt bs (k + 2) + 16777216 * byteAt bs (k + 3)

/-- BF16 element n of an array. -/
def bf16At (bs : Array Byte) (n : Nat) : Num := ofBf16 (byteAt bs (2 * n) + 256 * byteAt bs (2 * n + 1))

/-- The operand bytes of a pass as the engine reads them. -/
structure PassData where
  f    : PassFields
  d    : Nat
  fp   : Bool
  act  : Array Byte
  wgt  : Array Byte
  init : Array Byte
  outa : Array Byte
  outw : Array Byte
  book : Array Byte
  bfmt : Nat

/-- Activation of row i at term k (R77). -/
def PassData.a (p : PassData) (k i : Nat) : Num :=
  if p.f.act = 3 then bf16At p.act (32 * k + i)
  else (opFmt p.f.act).value (byteAt p.act (32 * p.d * (k / p.d) + p.d * i + k % p.d))

/-- Where the codes of step s begin in a codebook weight stream (R124). -/
def codesAt (d s : Nat) : Nat := 128 * s + 128 * (d * s / 1024 + 1) + 32 * (d * s / 32 + 1)

/-- The code of weight (k, j) (R77). -/
def PassData.code (p : PassData) (k j : Nat) : Nat :=
  let at_ := codesAt p.d (k / p.d) + 4 * j
  let r := k % p.d
  if p.f.wgt = 4 then (let b := byteAt p.wgt (at_ + r / 2); if r % 2 = 0 then b % 16 else b / 16) else byteAt p.wgt (at_ + r)

/-- The operand value of weight (k, j): the plain value, or the codebook entry q of its code (R116, R118). -/
def PassData.w (p : PassData) (k j : Nat) : Num :=
  if p.f.book then (opFmt p.bfmt).value (byteAt p.book (p.code k j))
  else if p.f.wgt = 3 then bf16At p.wgt (32 * k + j)
  else (opFmt p.f.wgt).value (byteAt p.wgt (128 * (k / 4) + 4 * j + k % 4))

/-- S(b, j) of the block of step s (R120, R124). -/
def PassData.blockScale (p : PassData) (s j : Nat) : Num :=
  let b := p.d * s / 1024
  ofF32 (BitVec.ofNat 32 (word32At p.wgt (128 * (1024 * b / p.d) + 128 * b + 32 * (32 * b) + 4 * j)))

/-- s(g, j) of the group of step s (R120, R124). -/
def PassData.groupScale (p : PassData) (s j : Nat) : Num :=
  let g := p.d * s / 32
  ofE4m3 (byteAt p.wgt (128 * (32 * g / p.d) + 128 * (32 * g / 1024 + 1) + 32 * g + j))

/-- The sum of exact values. -/
def sumNum (l : List Num) : Num := l.foldl Num.add (.zero false)

/-- The contribution of main step s to element (i, j), exact (R78, R122). -/
def PassData.step (p : PassData) (i j s : Nat) : Num :=
  let t := sumNum ((List.range p.d).map fun r => (p.a (p.d * s + r) i).mul (p.w (p.d * s + r) j))
  if p.f.book then ((p.blockScale s j).mul (p.groupScale s j)).mul t else t

/-- The contribution of outlier step m (R82). -/
def PassData.outlier (p : PassData) (i j m : Nat) : Num := (bf16At p.outa (32 * m + i)).mul (bf16At p.outw (32 * m + j))

/-- The start value of element (i, j) (R81). -/
def PassData.start (p : PassData) (i j : Nat) : Word :=
  if p.f.init = 1 then BitVec.ofNat 32 (word32At p.init (4 * j))
  else if p.f.init = 2 then BitVec.ofNat 32 (word32At p.init (4 * (32 * i + j)))
  else 0

/-- One step of FP32 accumulation (R79, R80): a zero contribution changes nothing, and no sum becomes −0. (DEDUCED, log entry 13) -/
def accFp (acc : Word) (c : Num) : Word :=
  if c.isZero then acc
  else
    let r := BitVec.ofNat 32 (toF32 ((ofF32 acc).add c)).code
    if r = 0x80000000 then 0 else r

/-- One step of INT32 accumulation (R79): the limit, once reached, holds. -/
def accInt (acc : Word × Bool) (c : Num) : Word × Bool :=
  if acc.2 then acc
  else
    let r := toIntW 32 ((ofI32 acc.1).add c)
    (BitVec.ofNat 32 r.code, r.sat)

/-- One INT32 step that remembers the step in which the element first saturated. -/
def accStep (acc : Word × Option Nat) (s : Nat) (c : Num) : Word × Option Nat :=
  let r := accInt (acc.1, acc.2.isSome) c
  (r.1, if acc.2.isNone && r.2 then some s else acc.2)

/-- Element (i, j) of the completed tile, and the step in which it first saturated, if it did. -/
def PassData.element (p : PassData) (i j : Nat) : Word × Option Nat :=
  if p.fp then
    let main := (List.range p.f.steps).foldl (fun a s => accFp a (p.step i j s)) (p.start i j)
    ((List.range p.f.outl).foldl (fun a m => accFp a (p.outlier i j m)) main, none)
  else (List.range p.f.steps).foldl (fun a s => accStep a s (p.step i j s)) (p.start i j, none)

/-- All elements in index order (R84). -/
def PassData.tile (p : PassData) : List (Word × Option Nat) := (List.range 1024).map fun n => p.element (n / 32) (n % 32)

/-- The cycle, counted from the entry of step 0, in which an element first saturates: step s of quad (q, p) is performed q + p
cycles after it entered (R76, R79). -/
def firstSat (el : List (Word × Option Nat)) : Option Nat :=
  (el.zipIdx.filterMap fun x => x.1.2.map fun s => s + x.2 / 32 / 4 + x.2 % 32 / 4).min?

/-! ### The weir -/

/-- The full weight of term k, column j (R391). -/
def PassData.fullWeight (p : PassData) (k j : Nat) : Num :=
  if p.f.book then ((p.blockScale (k / p.d) j).mul (p.groupScale (k / p.d) j)).mul (p.w k j) else p.w k j

/-- The terms of a pass for the weir, each as 32 activations and 32 weights. -/
def PassData.terms (p : PassData) : List (List Num × List Num) :=
  ((List.range (p.d * p.f.steps)).map fun k => ((List.range 32).map (p.a k), (List.range 32).map (p.fullWeight k))) ++
  ((List.range p.f.outl).map fun m =>
    ((List.range 32).map fun i => bf16At p.outa (32 * m + i), (List.range 32).map fun j => bf16At p.outw (32 * m + j)))

/-- The exact value of an accumulator word. -/
def accValue (fp : Bool) (w : Word) : Num := if fp then ofF32 w else ofI32 w

/-- The weir's arithmetic (R392): exact integers, or binary64 with every sum and product rounded. -/
def weirRound (fp : Bool) (x : Num) : Num := if fp then round64 x else x

/-- A sum that the weir forms, in the order of the list. (DESIGN CHOICE, log entry 14) -/
def weirSum (fp : Bool) (l : List Num) : Num := l.foldl (fun a x => weirRound fp (a.add x)) (.zero false)

/-- Sums and magnitudes of the rows: Σ init + Σ a·Σ w, and the same of absolute values (R391). (DESIGN CHOICE, log entry 14) -/
def rowRefs (fp : Bool) (starts : List (List Num)) (terms : List (List Num × List Num)) : List (Num × Num) :=
  let step (acc a w : Num) : Num := weirRound fp (acc.add (weirRound fp (a.mul w)))
  let sums := terms.map fun t => (t.1, weirSum fp t.2, weirSum fp (t.2.map Num.abs))
  starts.zipIdx.map fun x =>
    (sums.foldl (fun acc t => step acc (t.1.getD x.2 .nan) t.2.1) (weirSum fp x.1),
     sums.foldl (fun acc t => step acc (t.1.getD x.2 .nan).abs t.2.2) (weirSum fp (x.1.map Num.abs)))

/-- The rows and columns of a 32 × 32 block of start values. -/
def PassData.starts (p : PassData) (byRow : Bool) : List (List Num) :=
  (List.range 32).map fun x => (List.range 32).map fun y => accValue p.fp (if byRow then p.start x y else p.start y x)

/-- What the weir forms of a pass (R391). -/
def PassData.ref (p : PassData) : WeirRef :=
  let ts := p.terms
  { rows := rowRefs p.fp (p.starts true) ts, cols := rowRefs p.fp (p.starts false) (ts.map fun t => (t.2, t.1)), n := p.f.steps + p.f.outl }

/-- Does a row or column sum agree with its reference (R392)? (DESIGN CHOICE, log entry 14) -/
def sumAgrees (fp : Bool) (n : Nat) (sum : Num) (ref : Num × Num) : Bool :=
  if !fp then sum.sub ref.1 == .zero false
  else if !sum.isFin || !ref.1.isFin then !sum.isFin && !ref.1.isFin
  else
    let t := round64 ((round64 ((Num.scaled false (n + 2) (-23)).mul ref.2)).add (Num.pow2 (-126)))
    !(t.lt (round64 (sum.sub ref.1)).abs)

/-- Does a tile agree with the weir (R392)? -/
def WeirRef.agrees (r : WeirRef) (fp : Bool) (el : List Word) : Bool :=
  let v := (el.map (accValue fp)).toArray
  let row (i : Nat) : Num := weirSum fp ((List.range 32).map fun j => v.getD (32 * i + j) .nan)
  let col (j : Nat) : Num := weirSum fp ((List.range 32).map fun i => v.getD (32 * i + j) .nan)
  (r.rows.zipIdx.all fun x => sumAgrees fp r.n (row x.2) x.1) && r.cols.zipIdx.all fun x => sumAgrees fp r.n (col x.2) x.1

end Sys2Proof.Machine
end

