-- ==== Sys2Proof/Machine/Engine.lean ====
section
/-! DEFINITION. The matrix engine (chapter 03): entry, completion and interruption of a pass (R81 to R102), codebook loads
(R89, R92). -/

namespace Sys2Proof.Machine

/-- The engine of a unit changed by f. -/
def modEng (u : UnitIdx) (f : Engine → Engine) (s : State) : State := modCore u (fun c => { c with eng := f c.eng }) s

/-- The codebook that a pass names is loaded with the size of its format (R110). -/
def bookOk (g : Engine) (f : PassFields) : Bool :=
  !f.book || ((g.books[f.slot]).valid && (g.books[f.slot]).big == (f.wgt == 5))

/-- Does a STREAM basin stand in two roles of the pass (R174)? -/
def twoRoles (c : Core) (rs : List (Fin 16 × Nat)) : Bool :=
  rs.any fun r => !(c.basin r.1).hold && 1 < (rs.filter fun x => x.1 == r.1).length

/-- The offset at which a pass begins to read a basin (R173). -/
def Basin.cursorAt (b : Basin) : Nat := if b.hold then b.head else b.head + b.cursor

/-- The cycle of the beat on a core, of the phase on a radio engine (R365). -/
def State.unitCycle (s : State) (u : UnitIdx) : Nat :=
  if 64 ≤ u.1 then (match s.phaseOf u with | none => 0 | some p => s.clk.raw - p.ready) else s.clk.cyc

/-- How the engine comes to a pass (R94, R97): its gap is one that DUMMY fills, or its RAMP_UP begins in raw cycle `at_`. -/
structure Approach where
  filled : Bool
  at_    : Nat
  deriving DecidableEq, Repr

/-- The raw cycle before which no RAMP_UP begins: a RAMP_DOWN ends first (R98, R101), and a throttle's quiet time (R426). -/
def Engine.rampFloor (g : Engine) : Nat :=
  max g.rampFrom (match g.draining with
    | some t => t + 193
    | none => match g.lastEnd with | none => 0 | some l => l.1 + 128)

/-- The way to a pass stated in cycle `cyc` of grid beat `beat`, due in raw cycle `due`, whose beat or phase begins in raw cycle
`start` (R94, R97, R98): a gap of less than 512 stated cycles within one beat is filled; otherwise the ramp begins 128 cycles before the
pass is due, unless it has begun before. -/
def Engine.approach (g : Engine) (beat cyc due start : Nat) : Approach :=
  { filled := g.draining.isNone && (match g.lastEnd with | none => false | some l => l.2.1 == beat && decide (cyc - l.2.2 < 512))
    at_ := g.rampAt.getD (max (due - 128) (max g.rampFloor start)) }

/-- The raw cycle of a grid cycle. -/
def State.rawAt (s : State) (g : Nat) : Nat := s.clk.raw + g - s.grid

/-- The way of an engine to an ENG_PASS. A radio engine's phase is one beat (R366). -/
def State.approach (s : State) (u : UnitIdx) (e : Entry) : Approach :=
  let c := s.cores[u]
  if 64 ≤ u.1 then
    let t := match s.phaseOf u with | none => s.clk.raw | some p => p.ready
    c.eng.approach 0 e.cycle (t + e.cycle + c.seq.slip) t
  else
    let b := s.statedIn u 1 e
    c.eng.approach b e.cycle (s.rawAt (s.dueGrid u 1 e)) (if b = s.clk.beat then s.clk.raw - s.clk.cyc else 0)

/-- The ramps allow a pass in the present cycle (R96 to R98, R101). -/
def Approach.done (now : Nat) (a : Approach) : Bool := a.filled || decide (a.at_ + 128 ≤ now)

/-- The ENG_PASS that an engine issues next, as far as its timetable stands in the core. (DEDUCED, log entry 61) -/
def State.nextPass (s : State) (u : UnitIdx) : Option Entry :=
  let c := s.cores[u]
  match c.eng.rerun with
  | e :: _ => some e
  | [] =>
    let l := if 64 ≤ u.1 then s.phaseEntries u else c.lateEntries s.clk.beat ++ (c.ownEntries s.clk.beat).getD []
    (l.find? fun x => x.1 == 1).map (·.2)

/-- Before slip grows, a RAMP_UP that has begun is noted: it does not move (R97). -/
def markRamp (u : UnitIdx) (s : State) : State :=
  match s.nextPass u with
  | none => s
  | some e =>
    let a := s.approach u e
    if a.filled || decide (s.clk.raw < a.at_) then s else modEng u (fun g => { g with rampAt := some a.at_ }) s

/-! ### Dummy operations (R94 to R96) -/

/-- The quad rows that perform dummy operations in cycle n, 0 to 127, of a ramp: 8 steps of 16 cycles (R96). -/
def rampRows (up : Bool) (n : Nat) : Nat := if up then n / 16 + 1 else 7 - n / 16

/-- One step of the LFSR: feedback polynomial x^31 + x^28 + 1 (R95), shifted towards bit 30. (DESIGN CHOICE, log entry 91) -/
def lfsrNext (x : BitVec 31) : BitVec 31 := (x <<< 1) ||| (BitVec.ofBool (x.getLsbD 30 ^^ x.getLsbD 27)).setWidth 31

/-- The LFSR after n steps. -/
def lfsrAfter : Nat → BitVec 31 → BitVec 31
  | 0, x => x
  | n + 1, x => lfsrAfter n (lfsrNext x)

/-- The operand byte of an LFSR state (R95). -/
def lfsrByte (x : BitVec 31) : Byte := (x.setWidth 8) ||| 1

/-- The operand bytes of n successive LFSR states (R95). -/
def lfsrBytes : Nat → BitVec 31 → List Byte
  | 0, _ => []
  | n + 1, x => lfsrByte x :: lfsrBytes n (lfsrNext x)

/-- DUMMY cycles of an engine before raw cycle t, since its last pass or its ramp (R94, R96, R97). -/
def Engine.dummyUpTo (g : Engine) (a : Approach) (t : Nat) : Nat :=
  if a.filled then (match g.lastEnd with | none => 0 | some l => t - l.1) else t - (a.at_ + 128)

/-- The DUMMY cycles of an engine that ENG_DUMMY_CNT has not taken in yet, the present one included: the drain after a stop (R100) or the
gap before the next pass. (DESIGN CHOICE, log entry 17) -/
def State.dummyNow (s : State) (u : UnitIdx) : Nat :=
  let g := s.cores[u].eng
  match g.draining, g.stopping with
  | some t, true => min 64 (s.clk.raw - t)
  | _, _ =>
    if g.passes.any fun p => decide (s.clk.raw < p.entered + p.len) then 0
    else match s.nextPass u with
      | none => 0
      | some e => g.dummyUpTo (s.approach u e) (s.clk.raw + 1)

/-- The cycles of ENG_ACTIVE that it has not taken in yet, the present one included (R108). -/
def State.activeNow (s : State) (u : UnitIdx) : Nat :=
  let g := s.cores[u].eng
  (g.passes.map fun p => clip 0 (s.clk.raw + 1) (g.stepCycles p)).sum

/-- The rules of a pass that hold or break when it issues (R74, R81, R82, R91, R110, R169, R174). -/
def passRules (c : Core) (e : Entry) : Bool :=
  let f := passFields e
  match passDepth f.act f.wgt with
  | none => false
  | some (d, fp) =>
    let rs := f.reads d
    passZero e && f.init != 3 && decide (f.outl ≤ 64) && (fp || f.outl == 0) && f.steps != 0 && bookOk c.eng f &&
    (rs.all fun r => (c.basin r.1).defined && decide (r.2 ≤ (c.basin r.1).size) && (c.basin r.1).consumedBy 0) && !twoRoles c rs

/-- The step of a codebook pass that reads byte o of its weight stream, depth d (R124). -/
def wgtStep (d o : Nat) : Nat :=
  let group := 32 + 4096 / d
  let block := 128 + 32 * group
  let r := o % block - 128
  o / block * (1024 / d) + r / group * (32 / d) + (r % group - 32) / 128

/-- The banks that a pass entering in raw cycle t reads, with the cycles (R77, R81, R82, R124). -/
def passSpans (t : Nat) (c : Core) (e : Entry) : List (Fin 32 × Nat × Nat) :=
  let f := passFields e
  match passDepth f.act f.wgt with
  | none => []
  | some (d, _) =>
    let at_ (cyc : Nat → Nat) (r : Fin 16 × Nat) : List (Fin 32 × Nat × Nat) := c.spansOf cyc r.1 (c.basin r.1).cursorAt r.2
    let i := t + f.initCycles
    at_ (fun o => i + o / (if f.act = 3 then 64 else 32 * d)) (f.actB, f.actBytes d) ++
    at_ (fun o => i + if f.wgt = 3 then o / 64 else if f.book then wgtStep d o else o / 128) (f.wgtB, f.wgtBytes d) ++
    (if f.init = 1 then at_ (fun _ => t) (f.initB, 128) else if f.init = 2 then at_ (fun o => t + o / 1024) (f.initB, 4096) else []) ++
    (if f.outl = 0 then [] else at_ (fun o => i + f.steps + o / 64) (f.outaB, 64 * f.outl) ++
      at_ (fun o => i + f.steps + o / 64) (f.outwB, 64 * f.outl))

/-- What the sequencer finds of an ENG_PASS (R83, R86, R87, R91, R97, R172, R179). -/
def passCheck (u : UnitIdx) (e : Entry) (s : State) : Ready :=
  let c := s.cores[u]
  let f := passFields e
  let now := s.clk.raw
  let rs := match passDepth f.act f.wgt with | none => [] | some (d, _) => f.reads d
  checks [
    waits 1 (!c.eng.fenced && c.eng.passes.all fun p => decide (p.entered + p.len ≤ now)),
    must (passRules c e),
    waits 6 ((s.approach u e).done now),
    waits 3 ((c.eng.tiles[f.tile]).st == .free && decide ((c.eng.tiles[f.tile]).since ≤ now)),
    waits 2 (rs.all fun r =>
      let b := c.basin r.1
      decide (r.2 + (if b.hold then 0 else b.cursor) ≤ b.usable now)),
    must ((passSpans now c e).all fun x => x.2.1 != now || (c.banks[x.1]).at_ now == .on)]

/-- The operand bytes of a pass. -/
def passData (c : Core) (f : PassFields) (d : Nat) (fp : Bool) : PassData :=
  let read (b : Fin 16) (n : Nat) : Array Byte := (c.bytes (c.basin b) (c.basin b).cursorAt n).toArray
  let k := c.eng.books[f.slot]
  { f := f, d := d, fp := fp, act := read f.actB (f.actBytes d), wgt := read f.wgtB (f.wgtBytes d)
    init := if f.init = 1 then read f.initB 128 else if f.init = 2 then read f.initB 4096 else #[]
    outa := if f.outl = 0 then #[] else read f.outaB (64 * f.outl), outw := if f.outl = 0 then #[] else read f.outwB (64 * f.outl)
    book := k.bytes.toArray, bfmt := k.fmt.toNat }

/-- A period has one weir verdict more to come. -/
def weirMore (w : Work) (s : State) : State :=
  match w.job with
  | none => s
  | some k => modPeriod k w.period (fun p => { p with weirPend := p.weirPend + 1 }) s

/-- The basins that a pass has read: the cursor of a STREAM basin moves, and the engine is its consumer in this beat. -/
def readBasins (rs : List (Fin 16 × Nat)) (c : Core) : Core :=
  rs.foldl (fun c r => c.modBasin r.1 fun b => { b.claim 0 with cursor := if b.hold then b.cursor else b.cursor + r.2 }) c

/-- A pass enters the engine in the present cycle (R76 to R83, R90 to R98). What the LFSR draws for dummy operations R95 does not say.
(DESIGN CHOICE, log entry 91) -/
def enterPass (u : UnitIdx) (e : Entry) (a : Approach) (beat : Nat) (up : SramUpset) (w : Work) (s : State) : State :=
  let f := passFields e
  match passDepth f.act f.wgt with
  | none => s
  | some (d, fp) =>
    let s := upsetPad u w up s
    let c := s.cores[u]
    let now := s.clk.raw
    let p := passData c f d fp
    let el := p.tile
    let rs := f.reads d
    let spans := passSpans now c e
    let pass : Pass :=
      { entry := e, entered := now, init := f.initCycles, len := f.occupancy, target := f.tile, fp := fp, job := w.job,
        period := w.period, result := el.map (·.1), satAt := (firstSat el).map (now + f.initCycles + ·), ref := p.ref,
        slot := if f.book then some f.slot else none, reads := rs.filter fun r => !(c.basin r.1).hold,
        named := rs.map (·.1), spans := spans, bad := c.badSpan now spans, slipless := s.onTime e }
    let dummies := c.eng.dummyUpTo a now
    let s := modCore u (readBasins rs) s
    let s := modEng u (fun g => { g with
      tiles := modV g.tiles f.tile fun t => { t with st := .filling, since := now }
      passes := g.passes ++ [pass]
      dummy := g.dummy + BitVec.ofNat 32 dummies
      lfsr := lfsrAfter (Config.dummyDraws dummies) g.lfsr
      rampAt := none
      lastEnd := some (now + f.occupancy, beat, e.cycle + f.occupancy) }) s
    if u.1 < 64 then weirMore w s else s

/-- The grid beat that an ENG_PASS is stated in; a radio engine's phase counts as one. -/
def State.passBeat (s : State) (u : UnitIdx) (e : Entry) : Nat := if 64 ≤ u.1 then 0 else s.statedIn u 1 e

/-- ENG_PASS (R74 to R98, R406). -/
def execEngPass (u : UnitIdx) (e : Entry) (up : SramUpset) (s : State) : Host.Outcome State Fault Refusal :=
  let at_ := (toEntry u 1 e s).getD s
  .next (issueEntry u 1 e (passCheck u e) (enterPass u e (at_.approach u e) (at_.passBeat u e) up) s)

/-- Reserved bits and the format of ENG_LOAD_CB (R92). -/
def loadRules (c : Core) (e : Entry) (n : Nat) : Bool :=
  let w := wordAt e.words 0
  let b := c.basin (basinNo (bits w 7 4))
  headerOk e && bits w 3 1 == 0 && bits w 9 9 == 0 && bits w 31 12 == 0 && bits w 11 10 != 3 && b.defined &&
  decide (n ≤ b.size) && b.consumedBy 0

/-- Bytes that ENG_LOAD_CB reads. -/
def loadBytes (e : Entry) : Nat := if bitOf (wordAt e.words 0) 8 then 256 else 16

/-- What the sequencer finds of an ENG_LOAD_CB (R89, R92, R172). -/
def loadCheck (u : UnitIdx) (e : Entry) (s : State) : Ready :=
  let c := s.cores[u]
  let w := wordAt e.words 0
  let b := c.basin (basinNo (bits w 7 4))
  let slot : Fin 2 := Fin.ofNat 2 (bits w 0 0)
  checks [
    waits 1 ((c.eng.passes.all fun p => p.slot != some slot || decide (p.last < s.clk.raw)) && decide ((c.eng.bookTo[slot]) < s.clk.raw)),
    must (loadRules c e (loadBytes e)),
    waits 2 (decide (loadBytes e ≤ b.usable s.clk.raw)),
    must (c.readable s.clk.raw b b.head (loadBytes e))]

/-- A codebook slot is filled from the head of a basin, whose bytes are consumed at once (R89, R172). -/
def loadBook (u : UnitIdx) (e : Entry) (_ : Work) (s : State) : State :=
  let w := wordAt e.words 0
  let n := basinNo (bits w 7 4)
  let slot : Fin 2 := Fin.ofNat 2 (bits w 0 0)
  let c := s.cores[u]
  let b := c.basin n
  let book : Codebook :=
    { valid := true, big := bitOf w 8, fmt := BitVec.ofNat 2 (bits w 11 10), bytes := c.bytes b b.head (loadBytes e) }
  modCore u (fun c =>
    let c := { c with eng := { c.eng with books := setV c.eng.books slot book } }
    if b.hold then c else c.modBasin n fun b => (b.claim 0).take s.clk.raw (loadBytes e)) s

/-- ENG_LOAD_CB (R89, R92, R109). -/
def execEngLoadCb (u : UnitIdx) (e : Entry) (s : State) : Host.Outcome State Fault Refusal :=
  .next (issueEntry u 2 e (loadCheck u e) (loadBook u e) s)

/-- The result of a pass with the errors that arose in its accumulators. -/
def upsetTile (el : List Word) (upset : List (Nat × Word)) : List Word :=
  upset.foldl (fun l x => l.modify x.1 (· ^^^ x.2)) el

/-- Is an FP32 code infinite or NaN? -/
def nonfinWord (w : Word) : Bool := bits w.toNat 30 23 == 255

/-- Consumption of STREAM bytes is committed: HEAD advances, the cursor loses them (R172, R173). -/
def commitReads (now : Nat) (rs : List (Fin 16 × Nat)) (c : Core) : Core :=
  rs.foldl (fun c r => c.modBasin r.1 fun b => { b.take now r.2 with cursor := b.cursor - r.2 }) c

/-- Is the weir of a core's cluster UNCHECKED (R407)? (DEDUCED, log entry 39) -/
def State.weirOff (s : State) (u : Nat) : Bool := (s.safe.weirs.toList.getD (u / 8) {}).unchecked

/-- The safety record of core c changed by f. -/
def modSafe (c : Fin 64) (f : CoreSafe → CoreSafe) (s : State) : State :=
  { s with safe := { s.safe with cores := modV s.safe.cores c f } }

/-- The rerun of a pass that a hop parity error interrupted has completed (R405). -/
def clearHop (u : UnitIdx) (e : Entry) (s : State) : State :=
  if u.1 < 64 then modSafe (Fin.ofNat 64 u.1) (fun k => if k.hopRerun == some e then { k with hopRerun := none } else k) s else s

/-- The address of a unit's ENG_STATUS (R103). -/
def engStatusAt (u : UnitIdx) : Nat := 0xF020000004 + 0x1000 * u.1

/-- The address of a unit's VEC_STATUS (R162). -/
def vecStatusAt (u : UnitIdx) : Nat := 0xF021000004 + 0x1000 * u.1

/-- A pass is complete (R79, R83, R85, R172, R390). -/
def endPass (u : UnitIdx) (p : Pass) (upset : List (Nat × Word)) (s : State) : State :=
  let el := upsetTile p.result upset
  let wait : WeirWait :=
    { job := p.job, period := p.period, due := p.last + 17, agree := p.ref.agrees p.fp el, unchecked := p.satAt.isSome || s.weirOff u.1 }
  let s := modCore u (commitReads p.last p.reads) s
  let s := modEng u (fun g => { g with
    tiles := setV g.tiles p.target { st := .full, since := p.last + 1, el := Cells.puts 0 [] 0 el }
    passes := g.passes.drop 1
    passCnt := g.passCnt + 1
    active := g.active + BitVec.ofNat 64 (p.len - p.init)
    bookTo := match p.slot with | none => g.bookTo | some k => setV g.bookTo k p.last
    nonfin := g.nonfin || (p.fp && el.any nonfinWord)
    weir := if u.1 < 64 then g.weir ++ [wait] else g.weir }) s
  let s := noteIf (p.fp && el.any nonfinWord) (engStatusAt u) 17 (noteIf (p.satAt == some s.clk.raw) (engStatusAt u) 16 s)
  let w : Work := { job := p.job, period := p.period }
  let s := clearHop u p.entry s
  checkReserve u w p.slipless (suspectWork u w s)

/-- Does the pass complete, the stop in progress, if any, having come at or after its last accumulation (R99, R102)? -/
def Engine.completes (g : Engine) (p : Pass) : Bool :=
  match g.draining with
  | none => true
  | some t => decide (p.last ≤ t)

/-- The oldest pass meets a bank that is not ON in the cycle of that read: a MANIFEST event (R179). -/
def readsOff (u : UnitIdx) (s : State) : State :=
  match s.cores[u].eng.passes with
  | [] => s
  | p :: _ =>
    match p.bad with
    | none => s
    | some t => if s.cores[u].eng.stopping && !decide (p.last ≤ s.cores[u].eng.draining.getD 0) then s else
      atCycle t s fun s => manifestAt u { job := p.job, period := p.period } (settleCore u s)

/-- The oldest pass completes in the cycle of its last accumulation, unless one of its reads has met a bank that is not ON. -/
def passComplete (u : UnitIdx) (upset : List (Nat × Word)) (s : State) : State :=
  let s := readsOff u s
  match s.cores[u].eng.passes with
  | [] => s
  | p :: _ =>
    if s.cores[u].eng.completes p && p.bad.isNone then atCycle p.last s fun s => endPass u p upset (settleCore u s) else s

/-- PASS_COMPLETE (R83, R85, R172). -/
def execPassComplete (u : UnitIdx) (upset : List (Nat × Word)) (s : State) : Host.Outcome State Fault Refusal :=
  .next (passComplete u upset s)

/-! ### Stops -/

/-- A pass in flight leaves without a result: its tile is FREE and zero, its reads are discarded (R100, R101). -/
def dropPass (now : Nat) (c : Core) (p : Pass) : Core :=
  let c := { c with eng := { c.eng with
    tiles := setV c.eng.tiles p.target { st := .free, since := now, el := [] }
    stopCnt := satInc c.eng.stopCnt } }
  p.reads.foldl (fun c r => c.modBasin r.1 fun b => { b with cursor := b.cursor - r.2 }) c

/-- The period of an interrupted pass waits for one weir verdict less; its rerun is checked anew (R393). -/
def weirLess (p : Pass) (s : State) : State :=
  match p.job with
  | none => s
  | some k => modPeriod k p.period (fun q => { q with weirPend := q.weirPend - 1 }) s

/-- Does the work of a job continue after a stop: is the job still admitted (R101)? -/
def State.continues (s : State) (k : Option (Fin 12)) : Bool :=
  match k with
  | none => false
  | some k => (s.job k).isSome

/-- The interrupted passes are discarded (R100); those of a job that continues issue again (R101). -/
def drainEngine (u : UnitIdx) (t : Nat) (s : State) : State :=
  let g := s.cores[u].eng
  let (keep, lost) := g.passes.partition fun p => decide (p.last ≤ t)
  let again := (lost.filter fun p => s.continues p.job).map (·.entry)
  let s := lost.foldl (fun s p => weirLess p s) s
  let s := modCore u (fun c => lost.foldl (dropPass s.clk.raw) c) s
  modEng u (fun k => { k with
    passes := keep
    rerun := again ++ k.rerun
    active := k.active + BitVec.ofNat 64 ((lost.map fun p => clip 0 (t + 1) (g.stepCycles p)).sum)
    dummy := if lost.isEmpty then k.dummy else k.dummy + 64
    lfsr := if lost.isEmpty then k.lfsr else lfsrAfter (Config.dummyDraws 64) k.lfsr }) s

/-- The interrupted vector entry is discarded: V0 to V31 are restored, nothing is committed (R158). MODE stays until the end of
the drain, and the engine takes its next entry in the cycle after. -/
def drainVector (u : UnitIdx) (t : Nat) (s : State) : State :=
  match s.cores[u].vec.entry, s.cores[u].vec.draining with
  | some v, some _ =>
    let again := s.continues v.job
    note (vecStatusAt u) 20 <| modCore u (fun c =>
      let c := v.reserved.foldl (fun c r => c.modBasin r.1 fun b => { b with reserved := b.reserved - r.2 }) c
      { c with vec := { c.vec with
        entry := none, draining := none, v := v.saved, mode := .idle, interrupted := true
        freeAt := t + 65
        busyCnt := c.vec.busyCnt + BitVec.ofNat 32 (t + 65 - v.issued)
        rerun := if again then some (v.op, v.entry) else none
        keep := again && v.op == 8 && !bitOf (wordAt v.entry.words 0) 0 && bitOf (wordAt v.entry.words 0) 11 && v.release.isNone } }) s
  | _, _ => modCore u (fun c => { c with vec := { c.vec with draining := none } }) s

/-- The raw cycle of the stop that drains on a core, if one does. -/
def Core.stopCycle (c : Core) : Option Nat :=
  match c.vec.draining with
  | some t => some t
  | none => if c.eng.passes.isEmpty then none else c.eng.draining

/-- ENGINE_DRAIN_DONE (R100, R101, R158): in cycle t_s + 64. A cascade's tile release that falls between the stop and this cycle takes
effect (DESIGN CHOICE, log entry 91). -/
def execEngineDrainDone (u : UnitIdx) (s : State) : Host.Outcome State Fault Refusal :=
  .next (match s.cores[u].stopCycle with
    | none => s
    | some t => atCycle (t + 64) s fun s => drainVector u t (drainEngine u t (settleCore u s)))

end Sys2Proof.Machine
end

