-- ==== Sys2Proof/Machine/VecMath.lean ====
section
/-! DEFINITION. The arithmetic of the vector engine (chapter 05): roundings with their flags (R135, R164), the element
operations of instructions and cascade stages (R139, R144, R147), tree sums (R137), the Hadamard stages (R131), AMAX_QUANT
(R150), row statistics and closing stages (R151 to R155). -/

namespace Sys2Proof.Machine

/-- Flags of two operations together. An element that an operation rounds several times counts once for each rounding that R114
counts, and so may set SAT and NAN_CVT (DESIGN CHOICE, log entry 90). -/
def joinFlags (a b : VecFlags) : VecFlags :=
  { sat := a.sat || b.sat, nanCvt := a.nanCvt || b.nanCvt, nonfin := a.nonfin || b.nonfin
    amaxZero := a.amaxZero || b.amaxZero, count := a.count + b.count }

/-- A value with the flags found on the way to it. -/
abbrev Flagged (α : Type) := α × VecFlags

/-- A value that raised nothing. -/
def plain {α : Type} (x : α) : Flagged α := (x, {})

/-- One computation after another, their flags together. -/
def andThen {α β : Type} (x : Flagged α) (f : α → Flagged β) : Flagged β := let y := f x.1; (y.1, joinFlags x.2 y.2)

/-- f on every element in order. -/
def mapF {α β : Type} (f : α → Flagged β) (l : List α) : Flagged (List β) :=
  let rs := l.map f
  (rs.map (·.1), rs.foldl (fun a r => joinFlags a r.2) {})

/-- The flags of a rounding (R114); `fin` says that the operands were finite, for NONFINITE (R164). -/
def roundFlags (r : Rounded) (exactFin fin : Bool) : VecFlags :=
  { sat := r.sat, nanCvt := r.conv, nonfin := fin && (!exactFin || r.above), count := b2n (r.sat || r.conv) }

/-- An exact result rounded to a format (R135): the value it then has. -/
def rnd (f : Fmt) (fin : Bool) (x : Num) : Flagged Num :=
  let r := f.round x
  (f.value r.code, roundFlags r x.isFin fin)

/-- A conversion: rounding of a value that no operation formed. -/
def convert (f : Fmt) (x : Num) : Flagged Num := rnd f false x

/-- The larger of two values; +0 counts as larger than −0 (R139). -/
def vmaxNum (x y : Num) : Num :=
  match x, y with
  | .nan, _ => .nan
  | _, .nan => .nan
  | .zero s, .zero t => .zero (s && t)
  | x, y => if x.lt y then y else x

/-- The smaller of two values (R139). -/
def vminNum (x y : Num) : Num :=
  match x, y with
  | .nan, _ => .nan
  | _, .nan => .nan
  | .zero s, .zero t => .zero (s || t)
  | x, y => if y.lt x then y else x

/-- ReLU (R139): +0 where x is negative or −0; NaN stays. -/
def reluNum (x : Num) : Num := if x.isNeg then .zero false else x

/-- The binary operations of R139. -/
inductive BinOp where
  | add
  | sub
  | mul
  | div
  | max
  | min
  deriving DecidableEq, Repr

/-- The exact result of a binary operation. -/
def BinOp.exact : BinOp → Num → Num → Num
  | .add, x, y => x.add y
  | .sub, x, y => x.sub y
  | .mul, x, y => x.mul y
  | .div, x, y => x.div y
  | .max, x, y => vmaxNum x y
  | .min, x, y => vminNum x y

/-- A binary operation rounded once (R135). -/
def binF (o : BinOp) (f : Fmt) (x y : Num) : Flagged Num := rnd f (x.isFin && y.isFin) (o.exact x y)

/-- A function of R136 rounded once. -/
def funcF (g : Func) (f : Fmt) (x : Num) : Flagged Num :=
  let r := g.eval f.round x
  (f.value r.code, { roundFlags r true x.isFin with nonfin := g.nonfinite x || (x.isFin && r.above) })

/-- The value of the code that converting x to a code format gives, held in a lane format (R139, R144). -/
def quantF (q f : Fmt) (x : Num) : Flagged Num :=
  let c := convert q x
  ((rnd f false c.1).1, c.2)

/-- Do QFMT and the destination format go together: INT32 for INT8, FP32 or BF16 for FP8 (R139)? -/
def quantOk (q f : Fmt) : Bool := (q == .i8) == (f == .i32)

/-- One level of a tree sum. -/
def sumLevel (f : Fmt) : List Num → Flagged (List Num)
  | x :: y :: rest => let a := binF .add f x y; let r := sumLevel f rest; (a.1 :: r.1, joinFlags a.2 r.2)
  | l => plain l

/-- The tree sum of 32 values (R137): five levels, every addition rounded. -/
def treeSum (f : Fmt) (l : List Num) : Flagged Num :=
  andThen (sumLevel f l) fun l => andThen (sumLevel f l) fun l => andThen (sumLevel f l) fun l =>
  andThen (sumLevel f l) fun l => andThen (sumLevel f l) fun l => plain (l.headD (.zero false))

/-- The largest of some values, NaN if any is NaN (R139). -/
def maxAll (l : List Num) : Num :=
  match l with
  | [] => .zero false
  | x :: xs => xs.foldl vmaxNum x

/-- One stage of the transform of R131 on 32 values, h = 2^stage: FP32 sums and differences. -/
def hadStage (h : Nat) (l : List Num) : Flagged (List Num) :=
  mapF (fun r =>
    let x := l.getD r .nan
    if r / h % 2 = 0 then binF .add .f32 x (l.getD (r + h) .nan) else binF .sub .f32 (l.getD (r - h) .nan) x) (List.range 32)

/-- Stages 0 to 4 of the transform of R131 on 32 values. -/
def hadamard (l : List Num) : Flagged (List Num) :=
  andThen (hadStage 1 l) fun l => andThen (hadStage 2 l) fun l => andThen (hadStage 4 l) fun l =>
  andThen (hadStage 8 l) fun l => hadStage 16 l

/-! ### Cascade stages -/

/-- The fields of a stage word (R143). -/
structure Stage where
  op    : Nat
  ifmt  : Nat
  match_ : Bool
  bsrc  : Nat
  addr  : Nat
  qfmt  : Nat
  zero  : Bool
  imm   : Word
  deriving DecidableEq, Repr

/-- A stage word read. -/
def stageOf (a b : Word) : Stage :=
  let v := a.toNat
  { op := bits v 5 0, ifmt := bits v 7 6, match_ := bitOf v 8, bsrc := bits v 11 9, addr := bits v 27 12
    qfmt := bits v 29 28, zero := bits v 31 30 == 0, imm := b }

/-- The stage words that follow a cascade header. -/
def stagesOf : List Word → List Stage
  | a :: b :: rest => stageOf a b :: stagesOf rest
  | _ => []

/-- Positions that a stage takes (R145). -/
def Stage.positions (g : Stage) : Nat := if g.op = 0x13 then 2 else 1

/-- The BSRC values of an operation's row (R144). -/
def bsrcOk (op bsrc : Nat) : Bool :=
  if op = 0x11 then decide (1 ≤ bsrc ∧ bsrc ≤ 5)
  else if op = 0x05 then bsrc == 2 || bsrc == 3
  else if op ∈ [0x01, 0x02, 0x03, 0x04, 0x06, 0x07, 0x12] then decide (1 ≤ bsrc ∧ bsrc ≤ 4)
  else if 0x15 ≤ op ∧ op ≤ 0x1A then bsrc == 5
  else bsrc == 0

/-- The IFMT values of an operation's row (R144). -/
def ifmtOk (op ifmt : Nat) : Bool :=
  if op = 0x1B then true
  else if op ∈ [0x14, 0x15, 0x16, 0x17] then ifmt == 0
  else if op ∈ [0x04, 0x05, 0x11, 0x18, 0x19, 0x1A] ∨ (0x0A ≤ op ∧ op ≤ 0x10) then decide (ifmt ≤ 1)
  else decide (ifmt ≤ 2)

/-- Cistern words from CIST_ADDR on that a stage names (R143, R144, R151). -/
def Stage.span (g : Stage) (seq ntiles : Nat) : Nat :=
  if g.op = 0x13 then 1
  else if g.op = 0x18 then 64 + 32 * (max seq ntiles + 1)
  else if g.op = 0x11 ∧ g.bsrc = 5 ∨ g.op = 0x15 ∨ g.op = 0x16 then 64 + 32 * (seq + 1)
  else if g.op = 0x17 ∨ g.op = 0x19 ∨ g.op = 0x1A then 64
  else if g.bsrc = 4 then 1024
  else if g.op = 0x05 then 64
  else if g.bsrc = 2 ∨ g.bsrc = 3 then 32
  else 0

/-- Destination basin of a STORE (R143). -/
def Stage.dst (g : Stage) : Nat := bits g.imm.toNat 3 0

/-- Element format of a STORE. -/
def Stage.dstFmt (g : Stage) : Option Fmt := fmtOf (bits g.imm.toNat 6 4)

/-- LAYOUT of a STORE. -/
def Stage.layout (g : Stage) : Nat := bits g.imm.toNat 8 7

/-- The combinations of LAYOUT and DST_FMT of R146. -/
def layoutOk (layout : Nat) (f : Fmt) : Bool :=
  if layout = 0 then true else if layout = 3 then f == .bf16 else f == .i8 || f == .e4m3 || f == .e5m2

/-- The rules of a stage word (R143, R144, R146, R532). -/
def Stage.legal (seq ntiles : Nat) (g : Stage) : Bool :=
  g.zero && decide (1 ≤ g.op ∧ g.op ≤ 0x1B) && bsrcOk g.op g.bsrc && ifmtOk g.op g.ifmt &&
  (if g.op = 0x12 ∨ g.op = 0x13 then
    (match codeFmt g.qfmt, laneFmt g.ifmt with | some q, some f => quantOk q f | _, _ => false) else g.qfmt == 0) &&
  decide (g.addr + g.span seq ntiles ≤ 65536) &&
  (if g.op = 0x1B then
    bits g.imm.toNat 31 9 == 0 && (match g.dstFmt with | none => false | some f => layoutOk g.layout f) else true)

/-- What runs through a cascade: the 1,024 carried values, whether x is still INT32 (R142), the cistern writes so far, the
basin bytes stored, the scale of AMAX_QUANT. -/
structure Casc where
  x     : List Num
  xint  : Bool
  cist  : List (Nat × Word) := []
  stores : List (Fin 16 × List Byte) := []
  scale : Option Word := none

/-- A cistern word as the entry sees it: its own pending write, the newest first, or the stored word (R157). -/
def cistAt (cistern : Cells 32) (pend : List (Nat × Word)) (a : Nat) : Word :=
  match pend.find? fun x => x.1 == a with
  | some x => x.2
  | none => Cells.get 0 cistern a

/-- The operand b of every element, from a cistern offset (R143); `seq` is the tile's position, for BSRC 5. -/
def operandB (g : Stage) (int : Bool) (rd : Nat → Word) (extra seq : Nat) : List Num :=
  let a := g.addr + extra
  let v (w : Word) : Num := laneValue int w
  match g.bsrc with
  | 1 => List.replicate 1024 (v g.imm)
  | 2 => (List.range 1024).map fun n => v (rd (a + n % 32))
  | 3 => (List.range 1024).map fun n => v (rd (a + n / 32))
  | 4 => (List.range 1024).map fun n => v (rd (a + n))
  | _ => (List.range 1024).map fun n => v (rd (a + 64 + 32 * seq + n / 32))

/-- The inner format of a compound stage (R147). -/
def innerFmt (f : Fmt) : Fmt := if f = .bf16 then .bf16 else .f32

/-- A cascade stage on one element (R144, R147), for operands x, b, b′. -/
def stageElement (g : Stage) (f : Fmt) (x b b2 : Num) : Flagged Num :=
  match g.op with
  | 0x01 => binF .add f x b
  | 0x02 => binF .sub f x b
  | 0x03 => binF .mul f x b
  | 0x04 => binF .div f x b
  | 0x05 =>
    if g.match_ then andThen (binF .mul (innerFmt f) x b) fun p => rnd f (x.isFin && b.isFin && b2.isFin) (p.add b2)
    else rnd f (x.isFin && b.isFin && b2.isFin) ((x.mul b).add b2)
  | 0x06 => binF .max f x b
  | 0x07 => binF .min f x b
  | 0x08 => rnd f x.isFin (reluNum x)
  | 0x09 => convert f x
  | 0x11 =>
    if g.bsrc = 5 ∧ b = .inf true then plain (.zero false)
    else if g.match_ then andThen (binF .sub (innerFmt f) x b) fun d => funcF .exp f d
    else funcF .exp f (x.sub b)
  | 0x12 =>
    let q := (codeFmt g.qfmt).getD .i8
    if g.match_ then andThen (binF .div (innerFmt f) x b) fun d => quantF q f d
    else
      let d := x.div b
      let r := quantF q f d
      (r.1, { r.2 with nonfin := x.isFin && b.isFin && !d.isFin })
  | n => match funcOf (n - 0x0A) with
    | some k => funcF k f x
    | none => plain x

/-- Rows of 32 elements. -/
def rowsOf : Nat → List Num → List (List Num)
  | 0, _ => []
  | k + 1, l => l.take 32 :: rowsOf k (l.drop 32)

/-- QMAX of a code format (R150). -/
def qmax : Fmt → Num
  | .i8 => Num.ofInt 127
  | .e4m3 => Num.ofInt 448
  | _ => Num.ofInt 57344

/-- AMAX_QUANT (R150): the outputs and the scale s. -/
def amaxQuant (g : Stage) (f : Fmt) (x : List Num) : Flagged (List Num × Num) :=
  let q := (codeFmt g.qfmt).getD .i8
  let amax := maxAll (x.map Num.abs)
  let s := if amax.isZero then Num.one else (convert .f32 (amax.div (qmax q))).1
  let out := mapF (fun v =>
    if g.match_ then andThen (binF .div (innerFmt f) v s) fun d => quantF q f d
    else
      let d := v.div s
      let r := quantF q f d
      (r.1, { r.2 with nonfin := v.isFin && s.isFin && !d.isFin })) x
  ((out.1, s), { out.2 with amaxZero := amax.isZero })

/-- FP32 word of a value. -/
def f32Word (x : Num) : Word := BitVec.ofNat 32 (toF32 x).code

/-- ROWMAX_UPD on row i (R152): the new H[t][i]; exact. -/
def rowMax (g : Stage) (rd : Nat → Word) (t i : Nat) (row : List Num) : Nat × Word :=
  let prev := if t = 0 then .inf true else ofF32 (rd (g.addr + 64 + 32 * (t - 1) + i))
  (g.addr + 64 + 32 * t + i, f32Word (vmaxNum prev (maxAll row)))

/-- ROWSUM_UPD on row i (R152): the new L[i]. -/
def rowSum (g : Stage) (rd : Nat → Word) (t i : Nat) (row : List Num) : Flagged (Nat × Word) :=
  let mt := ofF32 (rd (g.addr + 64 + 32 * t + i))
  let prev := if t = 0 then .inf true else ofF32 (rd (g.addr + 64 + 32 * (t - 1) + i))
  let l := if t = 0 then .zero false else ofF32 (rd (g.addr + i))
  if mt = .inf true then plain (g.addr + i, f32Word l)
  else
    andThen (treeSum .f32 row) fun s =>
    andThen (if t = 0 then plain (.zero false) else funcF .exp .f32 (prev.sub mt)) fun c =>
    andThen (rnd .f32 (l.isFin && c.isFin && s.isFin) ((l.mul c).add s)) fun r => plain (g.addr + i, f32Word r)

/-- ROWNORM_UPD on row i (R155): the new S1[i] and S2[i]. -/
def rowNorm (g : Stage) (rd : Nat → Word) (t i : Nat) (row : List Num) : Flagged (List (Nat × Word)) :=
  let s1 := if t = 0 then .zero false else ofF32 (rd (g.addr + i))
  let s2 := if t = 0 then .zero false else ofF32 (rd (g.addr + 32 + i))
  andThen (treeSum .f32 row) fun a => andThen (binF .add .f32 s1 a) fun r1 =>
  andThen (mapF (fun v => binF .mul .f32 v v) row) fun sq => andThen (treeSum .f32 sq) fun b =>
  andThen (binF .add .f32 s2 b) fun r2 => plain [(g.addr + i, f32Word r1), (g.addr + 32 + i, f32Word r2)]

/-- CLOSE_SOFTMAX on row i (R153). -/
def closeSoftmax (g : Stage) (f : Fmt) (rd : Nat → Word) (t nm1 i : Nat) (row : List Num) : Flagged (List Num) :=
  let mf := ofF32 (rd (g.addr + 64 + 32 * nm1 + i))
  if mf = .inf true then plain (row.map fun _ => .zero false)
  else
    andThen (funcF .exp .f32 ((ofF32 (rd (g.addr + 64 + 32 * t + i))).sub mf)) fun a =>
    andThen (binF .div .f32 a (ofF32 (rd (g.addr + i)))) fun k => mapF (fun p => binF .mul f p k) row

/-- 32N, from NTILES_M1. -/
def rowLength (nm1 : Nat) : Num := Num.ofInt (32 * (nm1 + 1))

/-- CLOSE_NORM on row i (R155). -/
def closeNorm (g : Stage) (f : Fmt) (rd : Nat → Word) (nm1 i : Nat) (row : List Num) : Flagged (List Num) :=
  let n := rowLength nm1
  andThen (binF .div .f32 (ofF32 (rd (g.addr + i))) n) fun mu =>
  andThen (binF .div .f32 (ofF32 (rd (g.addr + 32 + i))) n) fun q =>
  andThen (binF .mul .f32 mu mu) fun m2 => andThen (binF .sub .f32 q m2) fun v0 =>
  let v := if v0.lt (.zero false) then .zero false else v0
  andThen (binF .add .f32 v (ofF32 g.imm)) fun ve => andThen (funcF .rsqrt .f32 ve) fun r =>
  mapF (fun x => andThen (binF .sub .f32 x mu) fun d => binF .mul f d r) row

/-- CLOSE_RMS on row i (R155). -/
def closeRms (g : Stage) (f : Fmt) (rd : Nat → Word) (nm1 i : Nat) (row : List Num) : Flagged (List Num) :=
  andThen (binF .div .f32 (ofF32 (rd (g.addr + 32 + i))) (rowLength nm1)) fun q =>
  andThen (binF .add .f32 q (ofF32 g.imm)) fun qe => andThen (funcF .rsqrt .f32 qe) fun r =>
  mapF (fun x => binF .mul f x r) row

/-- The order in which STORE lays out the elements, by index 32i + j (R146). -/
def storeOrder (layout : Nat) : List Nat :=
  match layout with
  | 0 => List.range 1024
  | 1 => (List.range 1024).map fun n => 32 * (n / 4 % 32) + (4 * (n / 128) + n % 4)
  | 2 => (List.range 1024).map fun n => 32 * (n / 8 % 32) + (8 * (n / 256) + n % 8)
  | _ => (List.range 1024).map fun n => 32 * (n % 32) + n / 32

/-- The bytes of values converted to a format (R113, R114). -/
def elementBytes (f : Fmt) (l : List Num) : Flagged (List Byte) :=
  let rs := l.map f.round
  (rs.flatMap fun r => natLE f.size r.code,
   rs.foldl (fun a r => joinFlags a (roundFlags r true false)) {})

/-- One stage of a cascade (R144 to R155), over the cistern as the entry finds it. A row statistic takes a carried INT32 x at its
exact value, and leaves it so (DESIGN CHOICE, log entry 90). `xint` says that the carried x was last rounded to INT32. -/
def runStage (cistern : Cells 32) (t nm1 : Nat) (g : Stage) (c : Casc) : Flagged Casc :=
  let f := (laneFmt g.ifmt).getD .f32
  let rd : Nat → Word := cistAt cistern c.cist
  let float := f != .i32
  let x := if c.xint && g.match_ && float && g.op != 0x09 && g.op < 0x15 then c.x.map fun v => (convert .f32 v).1 else c.x
  let rows := (rowsOf 32 x).zipIdx
  let int := !float
  match g.op with
  | 0x13 =>
    andThen (amaxQuant g f x) fun r =>
      let w := f32Word r.2
      plain { c with x := r.1, xint := int, cist := (g.addr, w) :: c.cist, scale := some w }
  | 0x14 => andThen (mapF hadamard (rowsOf 32 x)) fun r => plain { c with x := r.flatten, xint := int }
  | 0x15 => plain { c with cist := (rows.map fun r => rowMax g rd t r.2 r.1) ++ c.cist }
  | 0x16 => andThen (mapF (fun r => rowSum g rd t r.2 r.1) rows) fun ws => plain { c with cist := ws ++ c.cist }
  | 0x17 => andThen (mapF (fun r => rowNorm g rd t r.2 r.1) rows) fun ws => plain { c with cist := ws.flatten ++ c.cist }
  | 0x18 => andThen (mapF (fun r => closeSoftmax g f rd t nm1 r.2 r.1) rows) fun r => plain { c with x := r.flatten, xint := int }
  | 0x19 => andThen (mapF (fun r => closeNorm g f rd nm1 r.2 r.1) rows) fun r => plain { c with x := r.flatten, xint := int }
  | 0x1A => andThen (mapF (fun r => closeRms g f rd nm1 r.2 r.1) rows) fun r => plain { c with x := r.flatten, xint := int }
  | 0x1B =>
    let df := g.dstFmt.getD .f32
    let v := x.toArray
    andThen (elementBytes df ((storeOrder g.layout).map fun n => v.getD n .nan)) fun bs =>
      plain { c with stores := c.stores ++ [(Fin.ofNat 16 g.dst, bs)] }
  | _ =>
    let b := operandB g (f == .i32) rd 0 t
    let b2 := if g.op = 0x05 then operandB g (f == .i32) rd 32 t else b
    andThen (mapF (fun z => stageElement g f z.1 z.2.1 z.2.2) (x.zip (b.zip b2))) fun r => plain { c with x := r, xint := int }

/-- A whole cascade. -/
def runStages (cistern : Cells 32) (t nm1 : Nat) : List Stage → Casc → Flagged Casc
  | [], c => plain c
  | g :: gs, c => andThen (runStage cistern t nm1 g c) (runStages cistern t nm1 gs)

end Sys2Proof.Machine
end

