-- ==== Sys2Proof/Machine/Vector.lean ====
section
/-! DEFINITION. Vector entries (chapter 05): cascades, instruction blocks and cistern transfers from issue to commitment
(R133, R141, R145, R157, R160), their STOREs and releases. -/

namespace Sys2Proof.Machine

/-- The vector engine of a unit changed by f. -/
def modVec (u : UnitIdx) (f : VecEngine → VecEngine) (s : State) : State := modCore u (fun c => { c with vec := f c.vec }) s

/-- The vector engine can take an entry in a raw cycle (R133, R158): from the cycle after the last one of the entry before, or
after a drain. -/
def Core.vecFree (now : Nat) (c : Core) : Bool := c.vec.entry.isNone && c.vec.draining.isNone && decide (c.vec.freeAt ≤ now)

/-- The entry in the vector engine changed by f. -/
def modEntry (u : UnitIdx) (f : VecEntry → VecEntry) (s : State) : State := modVec u (fun k => { k with entry := k.entry.map f }) s

/-- The instruction leaves the block. -/
def popInsn (u : UnitIdx) (s : State) : State := modEntry u (fun v => { v with left := v.left.drop 1, paused := false }) s

/-- Is the OPC one of R139? -/
def opcListed (opc : Nat) : Bool := decide (1 ≤ opc ∧ opc ≤ 0x14)

/-- The instruction of a block that issues next, when its OPC is not listed. -/
def Core.unlisted (c : Core) : Option VecEntry :=
  match c.vec.entry with
  | none => none
  | some v =>
    match v.left with
    | x :: _ => if v.op == 9 && c.vec.draining.isNone && !opcListed (bits x.1.toNat 7 0) then some v else none
    | [] => none

/-- An instruction whose OPC is not listed issues: a MANIFEST event in its own cycle (R139). -/
def issueUnlisted (u : UnitIdx) (s : State) : State :=
  match s.cores[u].unlisted with
  | none => s
  | some v => atCycle v.issueAt s fun s => manifestAt u { job := v.job, period := v.period } (popInsn u s)

/-- Bytes an entry will append, one total a basin. -/
def needs : List (Fin 16 × Nat) → List (Fin 16 × Nat)
  | [] => []
  | x :: xs =>
    let r := needs xs
    if r.any (·.1 == x.1) then r.map fun y => if y.1 = x.1 then (y.1, y.2 + x.2) else y else x :: r

/-- The basins an entry appends to are defined, written through the vector port alone, and long enough (R169, R174). -/
def appendRules (c : Core) (ns : List (Fin 16 × Nat)) : Bool :=
  ns.all fun n => let b := c.basin n.1; b.defined && b.writtenBy 0 && decide (n.2 ≤ b.size)

/-- There is space for all that an entry appends (R175). (DEDUCED, log entry 26) -/
def spaceFor (now : Nat) (c : Core) (ns : List (Fin 16 × Nat)) : Bool := ns.all fun n => decide (n.2 ≤ (c.basin n.1).free now)

/-- Space reserved at issue, through the vector write port (R174, R175). -/
def reserve (ns : List (Fin 16 × Nat)) (c : Core) : Core :=
  ns.foldl (fun c n => c.modBasin n.1 fun b => { b with reserved := b.reserved + n.2, port := some 0 }) c

/-- An entry begins (R158): registers copied, mode set, its space reserved. -/
def beginVec (u : UnitIdx) (v : VecEntry) (mode : VecMode) (s : State) : State :=
  modCore u (fun c =>
    let c := reserve v.reserved c
    { c with vec := { c.vec with entry := some { v with bad := c.badSpan v.issued v.spans }, mode := mode } }) s

/-- The spans meet no bank that is not ON in a raw cycle (R179). -/
def Core.spansOn (now : Nat) (c : Core) (spans : List (Fin 32 × Nat × Nat)) : Bool :=
  spans.all fun x => x.2.1 != now || (c.banks[x.1]).at_ now == .on

/-- The bytes of a basin as lane values of a format (R142). -/
def elementsOf (f : Fmt) : Nat → List Byte → List Num
  | 0, _ => []
  | n + 1, bs => f.value (leNat (bs.take f.size)) :: elementsOf f n (bs.drop f.size)

/-! ### Cascades -/

/-- The fields of a cascade header (R141). -/
structure CascHead where
  src     : Nat
  tile    : Fin 4
  basin   : Fin 16
  fmt     : Nat
  release : Bool
  seq     : Nat
  nm1     : Nat
  zero    : Bool
  deriving DecidableEq, Repr

/-- A cascade header read. -/
def cascHead (e : Entry) : CascHead :=
  let w := wordAt e.words 0
  { src := bits w 1 0, tile := Fin.ofNat 4 (bits w 3 2), basin := basinNo (bits w 7 4), fmt := bits w 10 8, release := bitOf w 11
    seq := bits w 17 12, nm1 := bits w 23 18, zero := bits w 31 24 == 0 }

/-- The stage words of a cascade entry. -/
def cascStages (e : Entry) : List Stage := stagesOf (e.words.drop 1)

/-- Stage positions of a cascade (R145). -/
def cascPositions (e : Entry) : Nat := ((cascStages e).map Stage.positions).sum

/-- Bytes a cascade reads of a source basin. -/
def cascBytes (h : CascHead) : Nat := 1024 * ((fmtOf h.fmt).getD .f32).size

/-- What a cascade appends. -/
def cascNeeds (e : Entry) : List (Fin 16 × Nat) :=
  needs ((cascStages e).filterMap fun g =>
    if g.op = 0x1B then some (Fin.ofNat 16 g.dst, 1024 * (g.dstFmt.getD .f32).size) else none)

/-- The rules of a cascade (R141, R143 to R146, R169, R174). -/
def cascRules (c : Core) (e : Entry) : Bool :=
  let h := cascHead e
  let gs := cascStages e
  headerOk e && h.zero && (if h.src = 0 then decide (h.fmt ≤ 1) else h.src == 1 && (fmtOf h.fmt).isSome) &&
  decide (1 ≤ gs.length ∧ gs.length ≤ 8 ∧ cascPositions e ≤ 8) && gs.all (Stage.legal h.seq h.nm1) &&
  (h.src == 0 || ((c.basin h.basin).defined && (c.basin h.basin).consumedBy 1 && decide (cascBytes h ≤ (c.basin h.basin).size))) &&
  appendRules c (cascNeeds e)

/-- A cascade that rereads its source from the stage buffer (R158). -/
def Core.rereads (e : Entry) (c : Core) : Bool := c.vec.keep && c.vec.rerun == some (8, e)

/-- The banks that a cascade with a basin source reads when it issues in raw cycle t: a block in 16 cycles (R133, R141). -/
def cascSpans (t : Nat) (c : Core) (h : CascHead) : List (Fin 32 × Nat × Nat) :=
  if h.src = 0 then [] else c.spansOf (fun o => t + o / (cascBytes h / 16)) h.basin (c.basin h.basin).head (cascBytes h)

/-- What the sequencer finds of a VEC_CASCADE. -/
def cascCheck (u : UnitIdx) (e : Entry) (s : State) : Ready :=
  let c := s.cores[u]
  let h := cascHead e
  let now := s.clk.raw
  let b := c.basin h.basin
  checks [
    waits 1 (c.vecFree now),
    must (cascRules c e),
    waits 2 (if h.src = 0 then c.rereads e || (c.eng.tiles[h.tile]).readable now else decide (cascBytes h ≤ b.usable now)),
    waits 3 (spaceFor now c (cascNeeds e)),
    must (c.spansOn now (cascSpans now c h))]

/-- The lane words of a source block as the stage buffer keeps them. -/
def laneWords (int : Bool) (l : List Num) : List Word := l.map fun x => BitVec.ofNat 32 ((if int then Fmt.i32 else Fmt.f32).round x).code

/-- The source block of a cascade, and whether it enters as INT32 (R142). -/
def cascSource (c : Core) (h : CascHead) (reread : Bool) : List Num × Bool :=
  if h.src = 0 then
    let ws := if reread then Cells.gets 0 c.vec.stage 0 1024 else Cells.gets 0 (c.eng.tiles[h.tile]).el 0 1024
    (ws.map (laneValue (h.fmt == 0)), h.fmt == 0)
  else
    let f := (fmtOf h.fmt).getD .f32
    (elementsOf f 1024 (c.bytes (c.basin h.basin) (c.basin h.basin).head (cascBytes h)), f == .i32 || f == .i8)

/-- A cascade starts (R141 to R147, R150 to R155): its result is formed at once and committed in its last cycle. RELEASE with a
basin source is ignored (DESIGN CHOICE, log entry 91). -/
def startCascade (u : UnitIdx) (e : Entry) (reread : Bool) (up : SramUpset) (w : Work) (s : State) : State :=
  let s := upsetPad u w up s
  let h := cascHead e
  let c := s.cores[u]
  let src := cascSource c h reread
  let r := runStages c.vec.cistern h.seq h.nm1 (cascStages e) { x := src.1, xint := src.2 }
  let now := s.clk.raw
  let v : VecEntry :=
    { op := 8, entry := e, issued := now, len := 16 * cascPositions e, job := w.job, period := w.period, saved := c.vec.v
      spans := cascSpans now c h, reserved := cascNeeds e, flags := r.2, scale := r.1.scale, slipless := s.onTime e
      release := if h.src = 0 ∧ h.release ∧ !reread then some (h.tile, now + 16) else none
      writes := { cistern := r.1.cist, stores := r.1.stores, stage := some (laneWords r.1.xint r.1.x)
                  releases := if h.src = 1 ∧ !(c.basin h.basin).hold then [(h.basin, cascBytes h)] else [] } }
  let s := modCore u (fun c =>
    let c := { c with vec := { c.vec with stage := Cells.puts 0 [] 0 (laneWords src.2 src.1), keep := false } }
    let c := if h.src = 1 then c.modBasin h.basin (Basin.claim 1) else c
    if h.src = 0 ∧ !reread then
      { c with eng := { c.eng with tiles := modV c.eng.tiles h.tile fun t => { t with st := .reading } } }
    else c) s
  beginVec u v .cascade s

/-- VEC_CASCADE (R133, R141 to R159, R406). -/
def execVecCascade (u : UnitIdx) (e : Entry) (up : SramUpset) (s : State) : Host.Outcome State Fault Refusal :=
  .next (issueEntry u 8 e (cascCheck u e) (startCascade u e (s.cores[u].rereads e) up) s)

/-! ### Cistern transfers -/

/-- The rules of VEC_CISTERN (R160, R169, R174). -/
def moveRules (c : Core) (e : Entry) : Bool :=
  let a := wordAt e.words 0
  let d := wordAt e.words 1
  let b := c.basin (basinNo (bits a 7 4))
  let n := bits a 21 8
  headerOk e && bits a 3 1 == 0 && bits a 31 22 == 0 && bits d 31 16 == 0 && decide (1 ≤ n ∧ n ≤ 8192) &&
  decide (bits d 15 0 + n ≤ 65536) && b.defined && decide (4 * n ≤ b.size) && (if bitOf a 0 then b.writtenBy 0 else b.consumedBy 1)

/-- The banks that VEC_CISTERN with DIR 0 reads when it issues in raw cycle t: 64 words a cycle (R160). -/
def moveSpans (t : Nat) (c : Core) (e : Entry) : List (Fin 32 × Nat × Nat) :=
  let a := wordAt e.words 0
  let n := basinNo (bits a 7 4)
  if bitOf a 0 then [] else c.spansOf (fun o => t + o / 256) n (c.basin n).head (4 * bits a 21 8)

/-- What the sequencer finds of a VEC_CISTERN. -/
def moveCheck (u : UnitIdx) (e : Entry) (s : State) : Ready :=
  let c := s.cores[u]
  let a := wordAt e.words 0
  let b := c.basin (basinNo (bits a 7 4))
  let n := 4 * bits a 21 8
  checks [
    waits 1 (c.vecFree s.clk.raw),
    must (moveRules c e),
    waits 2 (bitOf a 0 || decide (n ≤ b.usable s.clk.raw)),
    waits 3 (!bitOf a 0 || decide (n ≤ b.free s.clk.raw)),
    must (c.spansOn s.clk.raw (moveSpans s.clk.raw c e))]

/-- A cistern transfer starts (R160). -/
def startMove (u : UnitIdx) (e : Entry) (w : Work) (s : State) : State :=
  let a := wordAt e.words 0
  let addr := bits (wordAt e.words 1) 15 0
  let n := bits a 21 8
  let bn := basinNo (bits a 7 4)
  let c := s.cores[u]
  let b := c.basin bn
  let writes : VecWrites :=
    if bitOf a 0 then { stores := [(bn, (Cells.gets 0 c.vec.cistern addr n).flatMap wordBytes)] }
    else { cistern := (bytesWords (c.bytes b b.head (4 * n))).zipIdx.map fun x => (addr + x.2, x.1)
           releases := if b.hold then [] else [(bn, 4 * n)] }
  let v : VecEntry :=
    { op := 10, entry := e, issued := s.clk.raw, len := (n + 63) / 64, job := w.job, period := w.period, saved := c.vec.v
      spans := moveSpans s.clk.raw c e, reserved := if bitOf a 0 then [(bn, 4 * n)] else [], writes := writes, slipless := s.onTime e }
  beginVec u v .cistern (if bitOf a 0 then s else modCore u (fun c => c.modBasin bn (Basin.claim 1)) s)

/-- VEC_CISTERN (R160, R172, R175). -/
def execVecCistern (u : UnitIdx) (e : Entry) (s : State) : Host.Outcome State Fault Refusal :=
  .next (issueEntry u 10 e (moveCheck u e) (startMove u e) s)

/-! ### Commitment -/

/-- Cistern words written, the oldest first. -/
def writeCistern (c : Cells 32) (ws : List (Nat × Word)) : Cells 32 := ws.foldr (fun w m => Cells.put 0 m w.1 w.2) c

/-- All writes of an entry take effect (R157, R161, R165). A VRELT sets its tile FREE whatever its state (DESIGN CHOICE, log
entry 91). (DESIGN CHOICE, log entry 91) -/
def commitVec (now : Nat) (v : VecEntry) (c : Core) : Core :=
  let c := v.writes.stores.foldl (fun c x => c.appendBytes now x.1 x.2) c
  let c := v.writes.releases.foldl (fun c r => c.modBasin r.1 fun b => b.take now r.2) c
  let c := c.settle (v.issued + v.len)
  let k := c.vec
  { c with
    eng := { c.eng with tiles := v.writes.tiles.foldl (fun ts t => modV ts t fun x => { x with st := .free, since := now + 1 }) c.eng.tiles }
    vec := { k with
             cistern := writeCistern k.cistern v.writes.cistern
             stage := match v.writes.stage with | none => k.stage | some l => Cells.puts 0 [] 0 l
             entry := none
             freeAt := now + 1
             mode := .idle
             sat := k.sat || v.flags.sat
             nanCvt := k.nanCvt || v.flags.nanCvt
             nonfin := k.nonfin || v.flags.nonfin
             amaxZero := k.amaxZero || v.flags.amaxZero
             satCnt := satAdd k.satCnt v.flags.count
             lastScale := v.scale.getD k.lastScale
             cascCnt := if v.op == 8 then k.cascCnt + 1 else k.cascCnt
             insnCnt := if v.op == 9 then k.insnCnt + BitVec.ofNat 32 v.count else k.insnCnt
             busyCnt := k.busyCnt + BitVec.ofNat 32 (now + 1 - v.issued) } }

/-- The runs that the stores of an entry write, basin by basin. -/
def VecEntry.storeRuns (v : VecEntry) (c : Core) : List (List (Nat × Nat)) :=
  v.reserved.map fun r => let b := c.basin r.1; b.runs b.tail r.2

/-- The events of VEC_STATUS that an entry's flags are (R16, R164). -/
def vecEvents (u : UnitIdx) (f : VecFlags) (s : State) : State :=
  noteBits (vecStatusAt u) (pack [(b2n f.sat, 16), (b2n f.nanCvt, 17), (b2n f.nonfin, 18), (b2n f.amaxZero, 19)]) 20 s

/-- The entry in the vector engine commits, or waits for the banks its writes reach (R157, R179); its writes to one basin count
as one late write, those to several basins as several (DESIGN CHOICE, log entry 91). (DESIGN CHOICE, log entry 17) (DEDUCED, log entry 24) -/
def commitEntry (u : UnitIdx) (v : VecEntry) (s : State) : State :=
  let c := s.cores[u]
  if (v.storeRuns c).all (c.banksOn s.clk.raw) then
    let w : Work := { job := v.job, period := v.period }
    checkReserve u w v.slipless (vecEvents u v.flags <| suspectWork u w (modCore u (commitVec s.clk.raw v) (settleUse u (s.clk.raw + 1) true s)))
  else if v.late then s
  else
    let s := (v.storeRuns c).foldl (fun s rs => lateWrite u v.job rs s) s
    modVec u (fun k => { k with entry := some { v with late := true } }) s

/-- The entry meets a bank that is not ON in the cycle of that read: a MANIFEST event (R179). -/
def vecReadsOff (u : UnitIdx) (s : State) : State :=
  match s.cores[u].vec.entry with
  | none => s
  | some v =>
    match v.bad with
    | none => s
    | some t => if s.cores[u].vec.draining.isSome then s else
      atCycle t s fun s => manifestAt u { job := v.job, period := v.period } (settleCore u s)

/-- VEC_ENTRY_COMMIT (R139, R150, R157, R159, R165): an instruction that is not listed has issued; the entry commits in its last
cycle when no stop has interrupted it. -/
def vecEntryCommit (u : UnitIdx) (s : State) : State :=
  let s := vecReadsOff u (issueUnlisted u s)
  match s.cores[u].vec.entry with
  | none => s
  | some v =>
    if v.bad.isNone && v.left.isEmpty && s.cores[u].vec.draining.isNone then
      atCycle (v.issued + v.len - 1) s fun s => commitEntry u v (settleCore u s)
    else s

/-- VEC_ENTRY_COMMIT (R157). -/
def execVecEntryCommit (u : UnitIdx) (s : State) : Host.Outcome State Fault Refusal := .next (vecEntryCommit u s)

end Sys2Proof.Machine
end

