-- ==== Sys2Proof/Machine/RillOps.lean ====
section
/-! DEFINITION. The shared operations of rills and channels (chapters 07, 08): descriptors, windows and their order, address
interleave and redirection, tags and issue, eligibility in lots. -/

namespace Sys2Proof.Machine

/-- A rill changed by f. -/
def modRill (r : Fin 32) (f : Rill → Rill) (s : State) : State := { s with rills := modV s.rills r f }

/-- The address of a rill's RILL_STATUS (R255). -/
def rillStatusAt (r : Fin 32) : Nat := 0xF032000004 + 0x1000 * r.1

/-- An event of a rill that f shows, bit b of its RILL_STATUS (R256). -/
def rillEvent (r : Fin 32) (b : Nat) (f : Rill → Rill) (s : State) : State := note (rillStatusAt r) b (modRill r f s)

/-- A channel changed by f. -/
def modChan (c : Fin 128) (f : Chan → Chan) (s : State) : State := { s with chans := modV s.chans c f }

/-! ### Addresses (R195) -/

/-- First address of the high half. -/
def highHalf : Nat := 0x3C00000000

/-- Offset of an address within its half. -/
def halfOff (a : Nat) : Nat := if highHalf ≤ a then a - highHalf else a

/-- The channel of an address. -/
def chanOf (a : Nat) : Nat := (if highHalf ≤ a then 64 else 0) + halfOff a / 960 % 64

/-- Blocks from address a to the end of its line. -/
def lineLeft (a : Nat) : Nat := 15 - halfOff a % 960 / 64

/-- The usable address of block 0 of the line that holds a (R229). -/
def lineOf (a : Nat) : Nat := a - halfOff a % 960

/-- The usable address of block 0 of channel line n. -/
def lineAddr (ch n : Nat) : Nat := (if 64 ≤ ch then highHalf else 0) + (n * 64 + ch % 64) * 960

/-- The line of an address within its channel. -/
def lineNo (a : Nat) : Nat := halfOff a / 960 / 64

/-- The bank slot of an address: rank and bank. -/
def bankOf (a : Nat) : Fin 16 := Fin.ofNat 16 (lineNo a)

/-- Its row. -/
def rowOf (a : Nat) : Nat := lineNo a / 32

/-- The half of the row in which its line lies. -/
def rowHalf (a : Nat) : Nat := lineNo a / 16 % 2

/-- Channel c exists on the part. -/
def State.hasChan (s : State) (c : Nat) : Bool := decide (c < s.part.channels)

/-- Data-bus cycles of an access of b data blocks (R200). -/
def busCycles (b : Nat) : Nat := (busHalf b + 1) / 2

/-! ### Descriptors (R234) -/

/-- Word i of a descriptor. -/
def Desc.word (i : Nat) (d : Desc) : Nat := wordAt d.entry.words i

/-- The core of a descriptor of rill r. -/
def Desc.core (r : Fin 32) (d : Desc) : UnitIdx := Fin.ofNat 66 (8 * (r.1 / 4) + bits (d.word 0) 2 0)

/-- Its basin. -/
def Desc.basin (d : Desc) : Fin 16 := basinNo (bits (d.word 0) 7 4)

/-- ARBITRATED? -/
def Desc.arb (d : Desc) : Bool := bits (d.word 0) 9 8 == 1

/-- BLOCKS. -/
def Desc.blocks (d : Desc) : Nat := bits (d.word 0) 25 16 + 1

/-- ADDR. -/
def Desc.addr (d : Desc) : Nat := d.word 1 + 2 ^ 32 * bits (d.word 2) 7 0

/-- The grid cycle of NEED in the descriptor's period (R246). -/
def Desc.need (j : Job) (d : Desc) : Nat :=
  (j.startBeat + d.period * j.periodBeats + bits (d.word 4) 16 0) * beatCycles + bits (d.word 3) 17 0

/-- Reserved and out-of-range fields (R234, R532). -/
def Desc.legal (j : Job) (d : Desc) : Bool :=
  let w := d.word
  headerOk d.entry &&
  if d.op = 3 then d.entry.words.all (· == 0)
  else
    bits (w 0) 3 3 == 0 && bits (w 0) 15 10 == 0 && bits (w 0) 31 26 == 0 && bits (w 1) 5 0 == 0 && bits (w 2) 31 8 == 0 &&
    bits (w 3) 31 18 == 0 && bits (w 4) 31 17 == 0 && w 5 == 0 &&
    (if d.arb then decide (bits (w 3) 17 0 < beatCycles ∧ bits (w 4) 16 0 < j.periodBeats) else w 3 == 0 && w 4 == 0)

/-- Fetched for the job, not retired: what a token's slot may name. -/
def Desc.names (k : Fin 12) (slot : Fin 64) (d : Desc) : Bool := d.job == k && d.slot == slot && !d.retired

/-- Open: active and not retired. -/
def Desc.open_ (d : Desc) : Bool := d.active && !d.retired && !d.failed

/-- The descriptor that a slot holds for a job. -/
def Rill.desc (k : Fin 12) (slot : Fin 64) (r : Rill) : Option Desc := r.descs.find? (Desc.names k slot)

/-- The descriptor of job k in a slot changed by f. -/
def modDesc (r : Fin 32) (k : Fin 12) (slot : Fin 64) (f : Desc → Desc) (s : State) : State :=
  modRill r (fun x => { x with descs := x.descs.map fun d => if d.names k slot then f d else d }) s

/-- Marks n blocks from block b on as landed or read out. -/
def Desc.mark (b n : Nat) (d : Desc) : Desc :=
  { d with done := (List.range d.blocks).map fun i => d.done.getD i false || (decide (b ≤ i) && decide (i < b + n)) }

/-- The rills of the cluster of a core. -/
def clusterRills (u : UnitIdx) : List (Fin 32) := (List.range 4).map fun i => Fin.ofNat 32 (u.1 / 8 * 4 + i)

/-- A window put into the order in which windows opened (R240, R289): raw cycle, then rill number. -/
def insertWin (x : Fin 32 × Desc) : List (Fin 32 × Desc) → List (Fin 32 × Desc)
  | [] => [x]
  | y :: ys => if y.2.since < x.2.since || (y.2.since == x.2.since && decide (y.1 ≤ x.1)) then y :: insertWin x ys else x :: y :: ys

/-- The open windows of an OP on a basin, the earliest first. -/
def State.windows (s : State) (u : UnitIdx) (n : Fin 16) (op : Nat) : List (Fin 32 × Desc) :=
  ((clusterRills u).flatMap fun r => (s.rills[r].descs.filter fun d =>
    d.open_ && d.op == op && d.basin == n && d.core r == u).map fun d => (r, d)).foldl (fun l x => insertWin x l) []

/-- Blocks by which a pointer advances over the windows (R240, R242), and the windows passed over, with how far. -/
def runOver : List (Fin 32 × Desc) → Nat × List (Fin 32 × Desc)
  | [] => (0, [])
  | (r, d) :: rest =>
    let m := ((d.done.drop d.moved).takeWhile fun x => x).length
    let d' := { d with moved := d.moved + m }
    if d'.moved = d.blocks then
      let x := runOver rest
      (m + x.1, (r, d') :: x.2)
    else (m, [(r, d')])

/-- The windows as they stand after a pointer has passed over them. -/
def setMoved (ws : List (Fin 32 × Desc)) (s : State) : State :=
  ws.foldl (fun s x => modDesc x.1 x.2.job x.2.slot (fun d => { d with moved := x.2.moved }) s) s

/-- Bytes from TAIL or HEAD to the end of the open windows: where the next one begins (R240, R242). With `still` the pointer has not
moved over what is read out: HEAD of a HOLD basin. -/
def windowsAhead (still : Bool) (ws : List (Fin 32 × Desc)) : Nat :=
  64 * (ws.map fun x => if still then x.2.blocks else x.2.blocks - x.2.moved).sum

/-- Bytes that wait in a landing buffer. -/
def Rill.buffered (r : Rill) : Nat := (r.landing.map fun l => l.bytes.length).sum

/-- The fields of a CH_READ or CH_WRITE; `rill` is the number the manifest gives. -/
structure ChanFields where
  addr   : Nat
  blocks : Nat
  rill   : Nat
  slot   : Fin 64
  block  : Nat
  deriving DecidableEq, Repr

/-- The payload of a CH_READ or CH_WRITE. -/
def chanFields (e : Entry) : ChanFields :=
  let w := wordAt e.words
  { addr := w 0 + 2 ^ 32 * bits (w 1) 7 0, blocks := bits (w 1) 11 8, rill := bits (w 1) 16 12
    slot := Fin.ofNat 64 (bits (w 2) 5 0), block := bits (w 2) 15 6 }

/-! ### Where an access goes (R278, R314) -/

/-- The address that an access of a job's period reaches, or none where it reads zero blocks and its writes are lost. -/
def State.place (s : State) (j : Job) (period a : Nat) : Option Nat :=
  let win := j.streams.find? fun w => decide (w.2 ≤ a ∧ a < w.2 + s.sens.ctxs[w.1].pages.toNat * 983040)
  match win with
  | some w =>
    match ((j.run ++ j.past).find? (·.index == period)).bind fun p => p.bound.find? (·.ctx == w.1) with
    | none => none
    | some b => if b.none then none
        else some (s.sens.ctxs[w.1].base.toNat + b.slot * s.sens.ctxs[w.1].pages.toNat * 983040 + (a - w.2))
  | none =>
    match j.extents.find? fun x => x.kind == 1 && decide (x.base ≤ a ∧ a < x.base + x.len) with
    | none => some a
    | some x =>
      let p := (a - x.base) / x.laneBytes
      let o := (a - x.base) % x.laneBytes
      match ((j.run ++ j.past).find? (·.index == period)).bind fun q => q.list[p]? with
      | none => none
      | some i => if o < 983040 * s.jobs.seqs[i].pages.toNat then some (s.jobs.seqs[i].kvBase.toNat + o) else none

/-- Bytes that a read of n bytes at a delivers. -/
def State.readPlace (s : State) (j : Job) (period a n : Nat) : List Byte :=
  match s.place j period a with
  | none => List.replicate n 0
  | some p => s.dramBytes p n

/-! ### Tags and lots -/

/-- Is a tag free in a raw cycle (R210)? -/
def tagFree (now : Nat) (f : Option Flight) : Bool :=
  match f with
  | none => true
  | some f => (f.write || f.own) && decide (f.ends ≤ now)

/-- The lowest free tag (R210). -/
def Chan.tag (now : Nat) (c : Chan) : Option (Fin 64) := (List.finRange 64).find? fun i => tagFree now c.slots[i]

/-- TAGS of MEM_CH_STATUS (R230). -/
def Chan.tags (now : Nat) (c : Chan) : Nat := (c.slots.toList.filter fun f => !tagFree now f).length

/-- The job that claims the present lot of a channel (R50). -/
def State.lotNow (s : State) (ch : Fin 128) : Option (Fin 12) := s.lotOwner ch.1 s.clk.beat (s.clk.cyc / 1000)

/-- The job that claims the lot after the present one. -/
def State.lotNext (s : State) (ch : Fin 128) : Option (Fin 12) :=
  let n := s.clk.cyc / 1000 + 1
  if n < 250 then s.lotOwner ch.1 s.clk.beat n else s.lotOwner ch.1 (s.clk.beat + 1) 0

/-- Is the job of the BACKGROUND class? -/
def State.background (s : State) (k : Fin 12) : Bool :=
  match s.job k with
  | none => false
  | some j => j.hdr.cls == 2

/-- Does a lot keep out an untimed requester: does another job claim it, or any job for one of no job (R206)? -/
def State.barred (s : State) (own : Option (Fin 12)) (lot : Option (Fin 12)) : Bool :=
  match lot with
  | none => false
  | some k => !(own == some k && s.background k)

/-- May an untimed access of b blocks start now (R206, R247, R248): its lot is open to it, it completes at LAT_MAX before
the next lot that is not, and in its job's own lot it ends before the retry slot. -/
def State.eligible (s : State) (ch : Fin 128) (own : Option (Fin 12)) (b : Nat) : Bool :=
  let left := 1000 - s.clk.cyc % 1000
  !s.barred own (s.lotNow ch) && (!s.barred own (s.lotNext ch) || decide (400 < left)) &&
  ((s.lotNow ch).isNone || decide (busCycles b + 160 ≤ left))

/-- Does the SAFETY job of the window beat leave the channel alone, so that CTL_STRICT lets streams and radio use it
(R290)? True outside windows. -/
def State.windowFree (s : State) (ch : Fin 128) : Bool :=
  match s.windowJob s.clk.beat with
  | none => true
  | some k => match s.job k with
    | none => true
    | some j => !j.lots.any fun l => l.chan == ch.1 && l.beat == j.beatAt s.clk.beat

/-- Does an access take the channel now: its data bus is free and a tag is? -/
def State.busReady (s : State) (ch : Fin 128) : Bool :=
  s.hasChan ch.1 && decide (s.chans[ch].busFree ≤ s.clk.raw) && (s.chans[ch].tag s.clk.raw).isSome

/-- The raw cycle after the last burst of an access that issues in raw cycle t: it waits for the bank of the address it names (R202,
R278). -/
def Chan.endOf (t : Nat) (f : Flight) (c : Chan) : Nat := max t (c.banks[bankOf f.addr]).busyTo + busCycles f.blocks

/-- An access takes the bus, its bank and the lowest free tag in raw cycle t (R200, R202, R210). -/
def takeBus (ch : Fin 128) (t : Nat) (f : Flight) (s : State) : State :=
  modChan ch (fun c =>
    let f := { f with issued := t, ends := c.endOf t f }
    match c.tag t with
    | none => c
    | some i => { c with
        slots := setV c.slots i (some f)
        busFree := max c.busFree (t + busCycles f.blocks)
        banks := setV c.banks (bankOf f.addr) { busyTo := f.ends } }) s

/-- What a read delivers, as DRAM stands in its issue cycle. (DEDUCED, log entry 27) -/
def State.readData (s : State) (f : Flight) : List Byte :=
  match s.job f.job with
  | none => []
  | some j => s.readPlace j f.period f.addr (64 * f.blocks)

/-- A failed read issues again in raw cycle t, with a new tag (R213, R230), for the bytes that it first asked for (R286). (DEDUCED, log
entry 27) -/
def reissue (ch : Fin 128) (t : Nat) (f : Flight) (s : State) : State :=
  takeBus ch t { f with retried := true, checked := false, arrived := false }
    (modChan ch (fun c => { c with failed := c.failed.erase f, retryCnt := satInc c.retryCnt }) s)

/-- Have the data of an access still somewhere to go: does its job stand, does the extent copy still run? -/
def State.stands (s : State) (f : Flight) : Bool :=
  match f.kind with
  | .radio e => s.radio[e].copying
  | .own => false
  | .rill | .fetch _ =>
    match s.job f.job with
    | none => false
    | some j => j.id == f.jid

/-- The first cycle from raw cycle t on in which a tag is known to be free; after the present cycle when none is. -/
def Chan.tagAt (t now : Nat) (c : Chan) : Nat :=
  (c.slots.toList.map fun f => match f with
    | none => now
    | some f => if f.write || f.own then max t f.ends else now + 1).foldl min (now + 1)

/-- A retry slot that waits for a tag (R213): the oldest failed read of its job that failed before the slot issues once an index is
free, if its bus cycles still end within the slot, else the slot passes unused. -/
def serveSlot (ch : Fin 128) (s : State) : State :=
  match s.chans[ch].retrySlot with
  | none => s
  | some (k, t0) =>
    let done := modChan ch (fun c => { c with retrySlot := none }) s
    match s.chans[ch].failed.find? fun f => f.timed && f.job == k && s.stands f && decide (f.failedAt < t0) with
    | none => done
    | some f =>
      let t := s.chans[ch].tagAt t0 s.clk.raw
      if s.clk.raw < t then s else if t + busCycles f.blocks ≤ t0 + 160 then reissue ch t f done else done

/-- The tag of an access is free (R210); a retry that waits for one issues. -/
def freeTag (ch : Fin 128) (i : Fin 64) (s : State) : State :=
  serveSlot ch (modChan ch (fun c => { c with slots := setV c.slots i none }) (serveSlot ch s))

/-- The job of an access, while it stands; an extent copy belongs to none. -/
def State.flightJob (s : State) (f : Flight) : Option (Fin 12) :=
  match f.kind with
  | .radio _ | .own => none
  | .rill | .fetch _ => if s.stands f then some f.job else none

/-- Is the read retried, waiting for its retry, or later than LAT_MAX (R54)? -/
def Flight.troubled (now : Nat) (f : Flight) : Bool := !f.own && !f.write && (f.retried || decide (f.issued + 400 < now))

/-- The reads of a channel that are retried, wait for their retry, or are later than LAT_MAX. -/
def Chan.troubles (now : Nat) (c : Chan) : List Flight :=
  c.failed ++ (c.slots.toList.filterMap fun f => f).filter (Flight.troubled now)

/-! ### Channel timetables (R52, R56, R200) -/

/-- How many entries of its CHAN_TT a job has issued on a channel. -/
def Chan.issuedBy (id : BitVec 8) (c : Chan) : Nat := ((c.issued.find? (·.1 == id)).map (·.2)).getD 0

/-- One entry more of a job has issued. -/
def Chan.issues (id : BitVec 8) (c : Chan) : Chan :=
  { c with issued := (id, c.issuedBy id + 1) :: c.issued.filter (·.1 != id) }

/-- The entry of a channel that a job issues next, OP, entry and period (R52, R56); a RUN_ONCE job has one period. -/
def State.chanNext (s : State) (ch : Fin 128) (j : Job) : Option (Nat × Entry × Nat) :=
  let es := (chanEntries (s.image j) j).filter fun x => x.1 == ch.1
  let n := s.chans[ch].issuedBy j.id
  if j.hdr.runOnce && decide (es.length ≤ n) then none else (es[n % es.length]?).map fun x => (x.2.1, x.2.2, n / es.length)

/-- The grid cycle in which an entry of a channel is stated. -/
def chanStated (j : Job) (x : Nat × Entry × Nat) : Nat := (j.startBeat + x.2.2 * j.periodBeats + entryBeat x.2.1) * beatCycles + x.2.1.cycle

/-- The jobs whose channel timetable has an entry to issue next, with it. -/
def State.chanHeads (s : State) (ch : Fin 128) : List (Fin 12 × Job × Nat × Entry × Nat) :=
  (s.jobs.all.filter fun x => x.2.lots.any fun l => l.chan == ch.1).filterMap fun x => (s.chanNext ch x.2).map fun y => (x.1, x.2, y)

/-- The one of several that is stated first. -/
def statedFirst (l : List (Fin 12 × Job × Nat × Entry × Nat)) : Option (Fin 12 × Job × Nat × Entry × Nat) :=
  l.foldl (fun best x => match best with
    | none => some x
    | some y => if chanStated x.2.1 x.2.2 < chanStated y.2.1 y.2.2 then some x else some y) none

/-- Must an entry of job k, stated in grid cycle g, wait for another job's: in a lot that another claims, or outside claimed lots behind
an entry stated earlier (R57, R205)? -/
def State.chanWaits (s : State) (ch : Fin 128) (k : Fin 12) (g : Nat) : Bool :=
  match s.lotNow ch with
  | some x => x != k
  | none => (s.chanHeads ch).any fun x => x.1 != k && decide (chanStated x.2.1 x.2.2 < g)

/-! ### Reads of several lines -/

/-- The blocks that hold the bytes from a up to e, line by line: address and blocks. -/
def lineRuns : Nat → Nat → Nat → List (Nat × Nat)
  | 0, _, _ => []
  | fuel + 1, a, e =>
    if e ≤ a then []
    else
      let n := min (lineLeft a) ((e - a + 63) / 64)
      (a, n) :: lineRuns fuel (a + 64 * n) e

/-- The reads of n bytes at a (R238). -/
def readsOf (a n : Nat) : List (Nat × Nat) := if n = 0 then [] else lineRuns (n / 64 + 2) (a / 64 * 64) (a + n)

/-! ### Timetable fetch (R238) -/

/-- The DRAM address of the section of an admitted job for one of its cores or rills. -/
def State.sectionAt (s : State) (j : Job) (type perCluster u : Nat) : Option Nat :=
  ((jobSections (s.image j) j type).find? fun x => j.mapUnit perCluster x.unit == u).map fun x => j.image + x.off

/-- A fetch is requested: the reads of its bytes, address and length, wait at their channels. (DESIGN CHOICE, log entry 82) -/
def postFetch (kind : FetchKind) (k : Fin 12) (j : Job) (due : Nat) (range : Option (Nat × Nat)) (s : State) : State :=
  let ls := match range with | none => [] | some (a, n) => readsOf a n
  let x : Fetch := { kind := kind, job := k, jid := j.id, due := due, posted := s.grid, lines := ls, left := ls.length }
  { s with mem := { s.mem with fetches := s.mem.fetches ++ [x] } }

/-- The manifest image of a job as reads delivered it. -/
def State.imageAs (s : State) (got : List (Nat × List Byte)) (j : Job) : List Byte :=
  Cells.gets 0 (got.foldl (fun m x => Cells.puts 0 m x.1 x.2) s.mem.dram) j.image (0x80 + j.hdr.bodyLen)

end Sys2Proof.Machine
end

