-- ==== Sys2Proof/Machine/Ecc.lean ====
section
/-! DEFINITION. The inline ECC of a channel line (R196 to R199): the Reed–Solomon code of a data block, its check symbols, and what
the check of a block as read finds. -/

namespace Sys2Proof.Machine

/-- Twice an element of GF(2⁸), with field polynomial x⁸ + x⁴ + x³ + x² + 1 (R197). -/
def gfTwice (a : Byte) : Byte := (a <<< 1) ^^^ (if a.getLsbD 7 then 0x1D else 0)

/-- The product of two elements: the sum of the doublings of a that the bits of b select. -/
def gfTimes (a b : Byte) : Byte :=
  ((List.range 8).foldl (fun (x : Byte × Byte) i => (gfTwice x.1, if b.getLsbD i then x.2 ^^^ x.1 else x.2)) (a, 0)).2

/-- α to the power n. -/
def gfAlpha : Nat → Byte
  | 0 => 1
  | n + 1 => gfTwice (gfAlpha n)

/-- The value of a word at a root, its first symbol that of the highest power. -/
def rsAt (root : Byte) (word : List Byte) : Byte := word.foldl (fun v x => gfTimes v root ^^^ x) 0

/-- The coefficients of the generator below x⁴: the product of x + α⁰ to x + α³ (R197), the coefficient of x³ first. -/
def rsGenerator : List Byte :=
  (((List.range 4).foldl (fun (g : List Byte) i =>
    (g ++ [0]).zipWith (· ^^^ ·) (0 :: g.map fun c => gfTimes c (gfAlpha i))) [1])).drop 1

/-- The remainder of a message, times x⁴, by the generator: its four check symbols. -/
def rsRemainder (msg : List Byte) : List Byte :=
  msg.foldl (fun r x =>
    let top := r.getD 0 0 ^^^ x
    (r.drop 1 ++ [0]).zipWith (· ^^^ ·) (rsGenerator.map fun c => gfTimes c top)) [0, 0, 0, 0]

/-- What the code of a block covers (R197): its 64 bytes, then the channel line number. (DESIGN CHOICE, log entry 22) -/
def rsMessage (n : Nat) (block : List Byte) : List Byte := block ++ natLE 4 n

/-- The check symbols of a data block of channel line n (R197). -/
def checkSymbols (n : Nat) (block : List Byte) : List Byte := rsRemainder (rsMessage n block)

/-- Block 15 of line n of a channel (R196, R199): what the last writes of its data blocks made of it. (DEDUCED, log entry 29) -/
def State.checkBlock (s : State) (ch : Fin 128) (n : Nat) : List Byte :=
  ((List.range 15).flatMap fun b => checkSymbols n (s.dramBytes (lineAddr ch.1 n + 64 * b) 64)) ++ List.replicate 4 (0 : Byte)

/-- What the check finds of a block: clean, one symbol to be corrected, with its error, or uncorrectable. A symbol below 64 is a byte of
the block, 64 to 67 are its check symbols. -/
inductive BlockEcc where
  | clean
  | corrected (symbol : Nat) (flip : Byte)
  | bad
  deriving DecidableEq, Repr

/-- The power of x at which a symbol stands: the line number lies between the data and the check symbols. -/
def rsPlace (symbol : Nat) : Nat := if symbol < 64 then 71 - symbol else 67 - symbol

/-- The check of the symbols of a block read as one of line n (R197): no error, the one symbol whose error explains all four
values, or an uncorrectable block. -/
def rsCheck (n : Nat) (symbols : List Byte) : BlockEcc :=
  let word := rsMessage n (symbols.take 64) ++ symbols.drop 64
  let syn := (List.range 4).map fun i => rsAt (gfAlpha i) word
  let e := syn.getD 0 0
  if syn.all (· == 0) then .clean
  else
    match (List.range 68).find? fun k =>
      let x := gfAlpha (rsPlace k)
      e != 0 && syn == [e, gfTimes e x, gfTimes (gfTimes e x) x, gfTimes (gfTimes (gfTimes e x) x) x] with
    | none => .bad
    | some k => .corrected k e

/-- Erroneous symbols of a data block, each named once. -/
def blockErrs (errs : List SymErr) (b : Nat) : List SymErr :=
  (errs.filter fun x => x.block == b && decide (x.symbol < 68) && x.flip != 0).foldl (fun l x =>
    if l.any (·.symbol == x.symbol) then l else l ++ [x]) []

/-- Symbols with some of them flipped. -/
def flipSymbols (errs : List SymErr) (symbols : List Byte) : List Byte :=
  symbols.zipIdx.map fun x => match errs.find? (·.symbol == x.2) with
    | none => x.1
    | some y => x.1 ^^^ y.flip

/-- The check of block b of a read of line n, given the blocks as written and the symbols that are read wrong. A block read as it
was written is a word of the code. (DEDUCED, log entry 29) -/
def eccOf (n : Nat) (data : List Byte) (errs : List SymErr) (b : Nat) : BlockEcc :=
  let es := blockErrs errs b
  let block := (data.drop (64 * b)).take 64
  if es.isEmpty then .clean else rsCheck n (flipSymbols es (block ++ checkSymbols n block))

/-- The bytes of a read as they stand in the devices. -/
def flipped (errs : List SymErr) (data : List Byte) : List Byte :=
  data.zipIdx.map fun x =>
    match (blockErrs errs (x.2 / 64)).find? (·.symbol == x.2 % 64) with
    | none => x.1
    | some y => x.1 ^^^ y.flip

/-- The bytes of a read after the check of its blocks: corrected where the check corrects. -/
def delivered (checks : List BlockEcc) (errs : List SymErr) (data : List Byte) : List Byte :=
  (flipped errs data).zipIdx.map fun x =>
    match checks.getD (x.2 / 64) .clean with
    | .corrected k e => if k == x.2 % 64 then x.1 ^^^ e else x.1
    | _ => x.1

/-- Does a check correct a symbol? -/
def BlockEcc.corrects (x : BlockEcc) : Bool :=
  match x with
  | .corrected _ _ => true
  | _ => false

end Sys2Proof.Machine
end

