-- ==== Sys2Proof/Machine/Seq.lean ====
section
/-! DEFINITION. The sequencer's own entries (R169 to R187), the end of a bank's wake (R178, R179), and the fetch of context
halves (R182, R184, R238). -/

namespace Sys2Proof.Machine

/-- Is a read or write of basin n of a core uncommitted by a rill (R169): a landing held for a bank, or bytes read out that HEAD has
not passed? -/
def State.rillBusy (s : State) (u : UnitIdx) (n : Fin 16) : Bool :=
  (clusterRills u).any fun r => s.rills[r].descs.any fun d =>
    d.open_ && d.core r == u && d.basin == n &&
    ((d.op == 2 && (d.done.drop d.moved).any fun x => x) || s.rills[r].landing.any fun l => l.job == d.job && l.slot == d.slot && l.late)

/-- Is a read or write of basin n uncommitted (R169): by a pass, a vector entry, a SEQ_PUT or a rill that has reserved a part of a
window? -/
def Core.basinBusy (n : Fin 16) (c : Core) : Bool :=
  let b := c.basin n
  b.cursor != 0 || b.reserved != 0 || c.eng.passes.any (fun p => p.named.contains n) ||
  (match c.vec.entry with
    | none => false
    | some v =>
      (v.op == 8 && (cascHead v.entry).src == 1 && (cascHead v.entry).basin == n) ||
      (v.op == 10 && basinNo (bits (wordAt v.entry.words 0) 7 4) == n)) ||
  (match c.seq.put with | none => false | some p => p.basin == n)

/-- Basin numbers of a MASK. -/
def maskBasins (m : Nat) : List (Fin 16) := (List.finRange 16).filter fun n => bitOf m n.1

/-- Banks of a MASK. -/
def maskBanks (m : Nat) : List (Fin 32) := (List.finRange 32).filter fun n => bitOf m n.1

/-! ### BASIN_DEF -/

/-- The rules of a BASIN_DEF (R169, R187). (DEDUCED, log entry 23) -/
def defRules (u : UnitIdx) (e : Entry) (s : State) : Bool :=
  let c := s.cores[u]
  let a := wordAt e.words 0
  let z := bits (wordAt e.words 1) 13 0
  let n := basinNo (bits a 3 0)
  let base := bits a 18 5
  headerOk e && bits a 31 19 == 0 && bits (wordAt e.words 1) 31 14 == 0 && decide (1 ≤ z ∧ base + z ≤ 8192) &&
  (!(c.basin n).defined || (!c.basinBusy n && !s.rillBusy u n)) &&
  (List.finRange 16).all fun m => m == n || !(c.basin m).defined ||
    decide (base + z ≤ (c.basin m).baseKib ∨ (c.basin m).baseKib + (c.basin m).sizeKib ≤ base)

/-- The basin that a BASIN_DEF defines: empty, both pointers zero (R170). The units that used it in this beat stay noted. -/
def newBasin (e : Entry) (b : Basin) : Basin :=
  { defined := true, hold := bitOf (wordAt e.words 0) 4, baseKib := bits (wordAt e.words 0) 18 5
    sizeKib := bits (wordAt e.words 1) 13 0, consumer := b.consumer, port := b.port }

/-- BASIN_DEF (R169, R170, R187). (DEDUCED, log entry 23) -/
def execBasinDef (u : UnitIdx) (e : Entry) (s : State) : Host.Outcome State Fault Refusal :=
  .next (issueEntry u 0x10 e (fun s => must (defRules u e s))
    (fun _ s => modCore u (fun c => c.modBasin (basinNo (bits (wordAt e.words 0) 3 0)) (newBasin e)) s) s)

/-! ### BASIN_POP -/

/-- Bytes of basin n whose consumption commits in the present cycle and has not done so yet: of a pass, of a vector entry (R172). -/
def Core.consuming (now : Nat) (n : Fin 16) (c : Core) : Nat :=
  let of_ (rs : List (Fin 16 × Nat)) : Nat := ((rs.filter fun r => r.1 == n).map (·.2)).sum
  ((c.eng.passes.filter fun p => p.last == now && (match c.eng.draining with | none => true | some t => decide (p.last ≤ t))).map
    fun p => of_ p.reads).sum +
  (match c.vec.entry with
    | none => 0
    | some v => if v.left.isEmpty && c.vec.draining.isNone && v.issued + v.len == now + 1 then of_ v.writes.releases else 0)

/-- The rules of a BASIN_POP (R172, R174, R187): bytes appended in this cycle do not count yet, those of which the consumption commits in it
do no longer. -/
def popRules (c : Core) (e : Entry) (now : Nat) : Bool :=
  let a := wordAt e.words 0
  let b := c.basin (basinNo (bits a 3 0))
  let n := bits a 27 4
  headerOk e && bits a 31 28 == 0 && b.defined && decide (1 ≤ n ∧ n ≤ b.size ∧ n + c.consuming now (basinNo (bits a 3 0)) ≤ b.usable now)

/-- BASIN_POP (R171, R172, R176). -/
def execBasinPop (u : UnitIdx) (e : Entry) (s : State) : Host.Outcome State Fault Refusal :=
  .next (issueEntry u 0x11 e (fun s => must (popRules s.cores[u] e s.clk.raw))
    (fun _ s => modCore u (fun c => c.modBasin (basinNo (bits (wordAt e.words 0) 3 0))
      (Basin.take s.clk.raw (bits (wordAt e.words 0) 27 4))) s) s)

/-! ### BASIN_FREE -/

/-- The rules of a BASIN_FREE (R169, R187): a basin that is not defined is not touched. -/
def freeRules (u : UnitIdx) (e : Entry) (s : State) : Bool :=
  headerOk e && bits (wordAt e.words 0) 31 16 == 0 &&
  (maskBasins (wordAt e.words 0)).all fun n => !((s.cores[u]).basin n).defined || (!(s.cores[u]).basinBusy n && !s.rillBusy u n)

/-- A basin undefined. -/
def noBasin (b : Basin) : Basin := { consumer := b.consumer, port := b.port }

/-- BASIN_FREE (R169). -/
def execBasinFree (u : UnitIdx) (e : Entry) (s : State) : Host.Outcome State Fault Refusal :=
  .next (issueEntry u 0x12 e (fun s => must (freeRules u e s))
    (fun _ s => modCore u (fun c => (maskBasins (wordAt e.words 0)).foldl (fun c n => c.modBasin n noBasin) c) s) s)

/-! ### Banks -/

/-- A bank that is ON goes to sleep from the next cycle on (R178, R180); others stay as they are. (DEDUCED, log entry 19) -/
def Core.sleepBank (now : Nat) (retain : Bool) (k : Fin 32) (c : Core) : Core :=
  if (c.banks[k]).at_ now == .on then
    { c with banks := modV c.banks k (Bank.to now (now + 1) (if retain then .sleepRet else .sleepOff)) }
  else c

/-- BANK_SLEEP (R178, R180, R187). (DEDUCED, log entry 19) -/
def execBankSleep (u : UnitIdx) (e : Entry) (s : State) : Host.Outcome State Fault Refusal :=
  .next (issueEntry u 0x13 e (fun _ => must (headerOk e && bits (wordAt e.words 1) 31 1 == 0))
    (fun _ s => modCore u (fun c =>
      ((maskBanks (wordAt e.words 0)).foldl (fun c k => c.sleepBank s.clk.raw (bitOf (wordAt e.words 1) 0) k) c).recheck (s.clk.raw + 1)) s) s)

/-- BANK_WAKE (R178, R187): the wakes begin in the next cycle. (DEDUCED, log entry 18) -/
def execBankWake (u : UnitIdx) (e : Entry) (s : State) : Host.Outcome State Fault Refusal :=
  .next (issueEntry u 0x14 e (fun _ => must (headerOk e))
    (fun _ s => modCore u (fun c => c.wakeAll s.clk.raw (s.clk.raw + 1) (maskBanks (wordAt e.words 0))) s) s)

/-! ### SEQ_PUT and SEQ_MARK -/

/-- Words of a SEQ_PUT. -/
def putWords (e : Entry) : Nat := (e.words.length - 1) / 2

/-- What the sequencer finds of a SEQ_PUT (R169, R174, R175, R186, R187). -/
def putCheck (u : UnitIdx) (e : Entry) (s : State) : Ready :=
  let c := s.cores[u]
  let a := wordAt e.words 0
  let b := c.basin (basinNo (bits a 3 0))
  let n := 8 * putWords e
  checks [
    waits 1 (c.seq.put.isNone && decide (c.seq.putTo ≤ s.clk.raw)),
    must (headerOk e && bits a 31 4 == 0 && decide (1 ≤ putWords e) && b.defined && b.writtenBy 2 && decide (n ≤ b.size)),
    waits 3 (decide (n ≤ b.free s.clk.raw))]

/-- A SEQ_PUT that issues in its stated cycle and, its banks ON, writes its last word in the reserve breaks R53. The event comes with
the issue. (DEDUCED, log entry 32) -/
def State.putLate (s : State) (u : UnitIdx) (e : Entry) : Bool :=
  let b := s.cores[u].basin (basinNo (bits (wordAt e.words 0) 3 0))
  decide (u.1 < 64) && s.onTime e && decide (s.reserveAt < s.clk.cyc + putWords e) &&
    (s.cores[u]).banksOn s.clk.raw (b.runs b.tail (8 * putWords e))

/-- A SEQ_PUT starts: its space is reserved, its words reach the narrow view one a cycle, the first in this one. -/
def startPut (u : UnitIdx) (e : Entry) (w : Work) (s : State) : State :=
  let n := basinNo (bits (wordAt e.words 0) 3 0)
  let p : SeqPut :=
    { basin := n, start := (s.cores[u].basin n).tail, bytes := (e.words.drop 1).flatMap wordBytes, next := s.clk.raw }
  let t := modCore u (fun c =>
    let c := c.modBasin n fun b => { b with reserved := b.reserved + 8 * putWords e, port := some 2 }
    { c with seq := { c.seq with put := some p } }) s
  if s.putLate u e then manifestAt u w t else t

/-- SEQ_PUT (R175, R186, R187). -/
def execSeqPut (u : UnitIdx) (e : Entry) (s : State) : Host.Outcome State Fault Refusal :=
  .next (settleCore u (issueEntry u 0x15 e (putCheck u e) (startPut u e) s))

/-- SEQ_MARK (R186). -/
def execSeqMark (u : UnitIdx) (e : Entry) (s : State) : Host.Outcome State Fault Refusal :=
  .next (issueEntry u 0x16 e (fun _ => must (headerOk e))
    (fun _ s => modCore u (fun c => { c with seq := { c.seq with mark := BitVec.ofNat 32 (wordAt e.words 0) } }) s) s)

/-! ### Context halves -/

/-- A half on its way: a beat is named and its entries are not complete. -/
def Half.asked (h : Half) : Bool := !h.complete && h.beat != 0

/-- The half that may receive the entries of a later beat: one whose entries have all issued. -/
def freeHalf (now : Nat) (hs : Vector Half 2) : Option (Fin 2) :=
  (List.finRange 2).find? fun i => (hs[i]).entries.isEmpty && !(hs[i]).asked && ((hs[i]).beat != now || !(hs[i]).complete)

/-- Where the entries of a beat of the period lie among the entries of a section: offset and length, with the header of the first later
one, which says that the beat is complete (R184). -/
def beatRange (beat : Nat) (es : List (Nat × Entry)) : Nat × Nat :=
  let size (l : List (Nat × Entry)) : Nat := (l.map fun x => 8 + 4 * x.2.words.length).sum
  let before := es.takeWhile fun x => decide (entryBeat x.2 < beat)
  let rest := es.drop before.length
  let mine := rest.takeWhile fun x => entryBeat x.2 == beat
  (size before, size mine + if mine.length < rest.length then 8 else 0)

/-- CONTEXT_FETCH (R182, R238): the half for the next beat of the job is asked for. (DEDUCED, log entry 35) (DESIGN CHOICE, log entry 82) -/
def contextFetch (c : Fin 64) (k : Fin 5) (s : State) : State :=
  let u : UnitIdx := Fin.castLE (by decide) c
  let next := s.clk.beat + 1
  match s.ctxJob c.1 k.1 with
  | none => s
  | some x =>
    match s.job x with
    | none => s
    | some j =>
      let hs := (s.cores[u]).seq.halves[k]
      if !j.marks next || hs.toList.any (fun h => h.beat == next) then s
      else
        match freeHalf s.clk.beat hs with
        | none => s
        | some h =>
          let r := beatRange (j.beatAt next) (unitEntries (s.image j) j 1 8 c.1)
          let at_ := (s.sectionAt j 1 8 c.1).map fun a => (a + r.1, r.2)
          modCore u (fun c => { c with seq := { c.seq with
            halves := modV c.seq.halves k fun hs => setV hs h { beat := next, entries := [], complete := false } } })
            (postFetch (.context c k) x j (next * beatCycles) at_ s)

/-- CONTEXT_FETCH (R182, R238). -/
def execContextFetch (c : Fin 64) (k : Fin 5) (s : State) : Host.Outcome State Fault Refusal := .next (contextFetch c k s)

/-- A half that was asked for lands whole (R184), read from an image. -/
def landContext (c : Fin 64) (k : Fin 5) (j : Job) (img : List Byte) (s : State) : State :=
  modCore (Fin.castLE (by decide) c) (fun core => { core with seq := { core.seq with
    halves := modV core.seq.halves k fun hs => hs.map fun h =>
      if h.asked then { h with entries := coreEntries img j c.1 h.beat, complete := true } else h } }) s

end Sys2Proof.Machine
end

