-- ==== Sys2Proof/Machine/Rill.lean ====
section
/-! DEFINITION. The rills (chapter 08): activation and retirement of descriptors, completions, landings, read-outs, the
descriptor fetch, arbitrated requests, timeouts and block resets. -/

namespace Sys2Proof.Machine

/-! ### Activation -/

/-- Where a descriptor stands in its queue: every earlier descriptor of its job has activated (R236). -/
def Rill.inOrder (r : Rill) (d : Desc) : Bool :=
  d.seq == 0 || r.descs.any fun x => x.job == d.job && x.slot.1 == (d.seq + 63) % 64 &&
    (decide (d.seq ≤ x.seq) || (x.seq + 1 == d.seq && x.active))

/-- The grid cycle in which a descriptor activates unless it holds (R236). -/
def Desc.dueAt (j : Job) (slip : Nat) (d : Desc) : Nat := d.statedBeat j * beatCycles + d.entry.cycle + slip

/-- A RUN_ONCE job has no descriptor after its first period. -/
def Desc.real (j : Job) (d : Desc) : Bool := !j.hdr.runOnce || d.period == 0

/-- The descriptor of an OP in a slot that is next to activate, with its job: the one stated first. -/
def State.nextDesc (s : State) (r : Fin 32) (slot : Fin 64) (op : Nat) : Option (Desc × Job) :=
  let ds := s.rills[r].descs.filterMap fun d =>
    if d.slot == slot && d.op == op && !d.active && !d.retired && s.rills[r].inOrder d then
      (s.job d.job).bind fun j => if d.real j then some (d, j) else none
    else none
  ds.foldl (fun best x => match best with
    | none => some x
    | some (y : Desc × Job) => if x.1.dueAt x.2 0 < y.1.dueAt y.2 0 then some x else some y) none

/-- The range of a descriptor lies within one extent that its job declares (R41, R236, R278, R314). -/
def State.rangeOk (s : State) (j : Job) (d : Desc) : Bool :=
  let inside (base len : Nat) : Bool := decide (base ≤ d.addr ∧ d.addr + 64 * d.blocks ≤ base + len)
  (j.extents.any fun x => inside x.base x.len && !(x.kind == 1 && d.arb) && (d.op == 1 || !x.ro)) ||
  (d.op == 1 && (inside j.image (0x80 + j.hdr.bodyLen) ||
    j.streams.any fun w => inside w.2 (s.sens.ctxs[w.1].pages.toNat * 983040)))

/-- The descriptors of a job as the manifest image states them for a rill. -/
def State.rillList (s : State) (j : Job) (r : Fin 32) : List (Nat × Entry) := unitEntries (s.image j) j 2 4 r.1

/-- Descriptor number i of a job on a rill, counted over all periods; none when the section is empty. -/
def descAt (k : Fin 12) (es : List (Nat × Entry)) (i : Nat) : Option Desc :=
  (es[i % es.length]?).map fun x =>
    { job := k, slot := Fin.ofNat 64 i, op := x.1, entry := x.2, seq := i, period := i / es.length }

/-- The descriptors of a job that a rill has still to activate, in its queue or fetched next into its slots (R237). -/
def State.upcoming (s : State) (q : Fin 32) (k : Fin 12) (j : Job) : List Desc :=
  let ds := s.rills[q].descs.filter (·.job == k)
  let es := if ds.isEmpty then [] else s.rillList j q
  (ds.filterMap fun d => if d.active || d.retired then descAt k es (d.seq + 64) else some d).filter (Desc.real j)

/-- The rills on which a window of d's basin is stated earlier than d and not open yet, fetched or not (R289). -/
def State.earlierRills (s : State) (r : Fin 32) (d : Desc) (j : Job) : List (Fin 32) :=
  let b := d.dueAt j 0
  (clusterRills (d.core r)).filter fun q => q != r && s.jobs.all.any fun y => (s.upcoming q y.1 y.2).any fun x =>
    x.op == 1 && x.basin == d.basin && x.core q == d.core r &&
    (decide (x.dueAt y.2 0 < b) || (x.dueAt y.2 0 == b && decide (q < r)))

/-- Is there one (R289)? -/
def State.earlierWindow (s : State) (r : Fin 32) (d : Desc) (j : Job) : Bool := !(s.earlierRills r d j).isEmpty

/-- The windows of d's kind on one basin open in stated order (R289). (DEDUCED, log entry 26) -/
def State.ordered (s : State) (d : Desc) : Bool := !d.arb || s.det.strict

/-- A descriptor opens its window in the present cycle (R240, R242). Of windows that open in one cycle the one of the lower rill opens
first (R289), whichever command came first. -/
def openWindow (r : Fin 32) (d : Desc) (s : State) : State :=
  let u := d.core r
  let b := s.cores[u].basin d.basin
  let later (x : Fin 32 × Desc) : Bool := x.2.since == s.clk.raw && decide (r < x.1)
  let ws := s.windows u d.basin d.op
  let at_ := (if d.op = 1 then b.tail else b.head) + windowsAhead (d.op == 2 && b.hold) (ws.filter fun x => !later x)
  let s := (ws.filter later).foldl (fun s x =>
    modDesc x.1 x.2.job x.2.slot (fun y => { y with winStart := (y.winStart + 64 * d.blocks) % b.size }) s) s
  modDesc r d.job d.slot (fun d => { d with
    active := true
    since := s.clk.raw
    winStart := at_ % b.size
    done := List.replicate d.blocks false }) s

/-- A rill no longer holds. -/
def Rill.go (r : Rill) : Rill := { r with holding := false, permitted := false }

/-- RILL_IN or RILL_OUT activates when it is due (R234, R236, R240, R242, R289). -/
def activate (r : Fin 32) (slot : Fin 64) (op : Nat) (s : State) : State :=
  match s.nextDesc r slot op with
  | none => s
  | some (d, j) =>
    match reachGrid (d.dueAt j s.rills[r].slip) s with
    | none => s
    | some t =>
      if op == 1 && t.ordered d && t.earlierWindow r d j then s
      else
        let t := modRill r Rill.go (settleCore (d.core r) t)
        if !d.legal j then manifestEvent d.job t
        else if !t.rangeOk j d then manifestEvent d.job (rillEvent r 22 (fun x => { x with extent := true }) t)
        else if !(t.cores[d.core r].basin d.basin).defined then manifestEvent d.job t
        else
          let t := if op == 1 && !t.ordered d && t.earlierWindow r d j
            then { t with det := { t.det with reordered := satInc t.det.reordered } } else t
          openWindow r d t

/-- RILL_IN (R233 to R236, R240, R289). -/
def execRillIn (r : Fin 32) (slot : Fin 64) (s : State) : Host.Outcome State Fault Refusal := .next (activate r slot 1 s)

/-- RILL_OUT (R233 to R236, R242). -/
def execRillOut (r : Fin 32) (slot : Fin 64) (s : State) : Host.Outcome State Fault Refusal := .next (activate r slot 2 s)

/-- A descriptor has retired: its slot is free and it is counted (R243). -/
def retired (r : Fin 32) (k : Fin 12) (slot : Fin 64) (s : State) : State :=
  let s := modDesc r k slot (fun d => { d with active := true, retired := true, outs := [], done := [] }) s
  modRill r (fun x => { x with retiredCnt := x.retiredCnt + 1 }) s

/-- RILL_NOP (R233): activates and retires when it is due. -/
def execRillNop (r : Fin 32) (slot : Fin 64) (s : State) : Host.Outcome State Fault Refusal :=
  .next (match s.nextDesc r slot 3 with
    | none => s
    | some (d, j) =>
      match reachGrid (d.dueAt j s.rills[r].slip) s with
      | none => s
      | some t =>
        let t := modRill r Rill.go t
        if d.legal j then retired r d.job slot t else manifestEvent d.job t)

/-! ### Completions and landings -/

/-- A completion fits its descriptor (R239). -/
def Flight.fits (f : Flight) (d : Desc) : Bool :=
  d.op == 1 && f.addr == d.addr + 64 * f.block && decide (f.block + f.blocks ≤ d.blocks) &&
  !(((d.done.drop f.block).take f.blocks).any fun x => x)

/-- The landings that await the same blocks: a second completion for them breaks R239 too. -/
def Rill.awaits (r : Rill) (f : Flight) : Bool :=
  r.landing.any fun l => l.job == f.job && l.slot == f.slot && decide (l.block < f.block + f.blocks) &&
    decide (f.block < l.block + l.bytes.length / 64)

/-- Does a timed read that issued in its stated cycle and lands now, held by nothing, land in the reserve (R53)? (DEDUCED, log entry 32) -/
def State.landsLate (s : State) (f : Flight) : Bool :=
  f.timed && f.slipless && !f.retried && decide (s.clk.raw ≤ f.issued + 400) && decide (s.reserveAt ≤ s.clk.cyc) &&
  s.rills[f.rill].slip == 0

/-- A read has landed in the present cycle (R53, R57, R210, R216, R230): latency, LATENCY event, tag. -/
def readLanded (ch : Fin 128) (i : Fin 64) (s : State) : State :=
  match s.chans[ch].slots[i] with
  | none => s
  | some f =>
    let lat := s.clk.raw - f.issued
    let l16 : BitVec 16 := satAdd 0 lat
    let s := freeTag ch i (modChan ch (fun c => { c with
      latLast := l16
      latPeak := if c.latPeak < l16 then l16 else c.latPeak }) s)
    if 400 < lat then contractEvent 0 (s.flightJob f) s
    else if f.ofRill && s.stands f && s.landsLate f then manifestEvent f.job s
    else s

/-- A completion reaches its rill (R239, R240): it breaks a rule, or waits in the landing buffer. -/
def rillArrival (ch : Fin 128) (i : Fin 64) (f : Flight) (s : State) : State :=
  let r := f.rill
  match s.rills[r].desc f.job f.slot with
  | none => manifestEvent f.job (rillEvent r 23 (fun x => { x with token := true }) (freeTag ch i s))
  | some d =>
    if d.failed then freeTag ch i s
    else if !f.fits d || s.rills[r].awaits f then
      manifestEvent f.job (rillEvent r 23 (fun x => { x with token := true }) (freeTag ch i s))
    else if !d.active && decide (16384 < s.rills[r].buffered + f.data.length) then manifestEvent f.job (freeTag ch i s)
    else
      let s := modChan ch (fun c => { c with slots := setV c.slots i (some { f with arrived := true }) }) s
      modRill r (fun x => { x with landing := x.landing ++
        [{ job := f.job, slot := f.slot, block := f.block, bytes := f.data, timed := f.timed, chan := ch, tag := i }] }) s

/-- The fetches with f done to that of a kind for a job. -/
def modFetch (k : FetchKind) (id : BitVec 8) (f : Fetch → Fetch) (s : State) : State :=
  { s with mem := { s.mem with fetches := s.mem.fetches.map fun x => if x.kind == k && x.jid == id then f x else x } }

/-- An arrival (R211, R238 to R240, R252, R384): the data of a checked read reach the rill, the timetable fetch or the radio
engine that asked for them. -/
def arrive (ch : Fin 128) (i : Fin 64) (s : State) : State :=
  match s.chans[ch].slots[i] with
  | none => s
  | some f =>
    if f.write || f.own || !f.checked || f.arrived then s
    else if !s.stands f then freeTag ch i s
    else
      match f.kind with
      | .rill => rillArrival ch i f s
      | .radio e => readLanded ch i (landCopyLine e f.block f.data s)
      | .fetch k =>
        readLanded ch i (modFetch k f.jid (fun x => { x with left := x.left - 1, got := x.got ++ [(f.addr, f.data)] }) s)
      | .own => s

/-- The arrival whose last byte lands at LAT_MAX (R216): 400 cycles after the issue, at 256 bytes per cycle (R241). (DEDUCED, log entry 31) -/
def Flight.maxArrival (f : Flight) : Nat := f.issued + 401 - (f.blocks + 3) / 4

/-- COMPLETION_ARRIVAL: the zeros that a lane access past its list delivers arrive when a read at LAT_MAX would (R278). -/
def completionArrival (ch : Fin 128) (i : Fin 64) (s : State) : State :=
  match s.chans[ch].slots[i] with
  | some f => if f.zero && !f.write then atCycle f.maxArrival s (arrive ch i) else arrive ch i s
  | none => s

/-- COMPLETION_ARRIVAL (R239). -/
def execCompletionArrival (ch : Fin 128) (i : Fin 64) (s : State) : Host.Outcome State Fault Refusal :=
  .next (completionArrival ch i s)

/-- The bytes of a landing at their place in the window (R240). -/
def landRuns (b : Basin) (d : Desc) (l : Landing) : List (Nat × Nat) := b.runs (d.winStart + 64 * l.block) l.bytes.length

/-- Bytes by which a landing extends its window's reservation (R240). -/
def Landing.needs (d : Desc) (l : Landing) : Nat := 64 * (max d.ext (l.block + l.bytes.length / 64) - d.ext)

/-- A landing reaches its basin (R175, R240): the reservation of its window extends through its end. -/
def reserveLanding (r : Fin 32) (d : Desc) (l : Landing) (s : State) : State :=
  modDesc r d.job d.slot (fun d => { d with ext := max d.ext (l.block + l.bytes.length / 64) })
    (modCore (d.core r) (fun c => c.modBasin d.basin fun b => { b with reserved := b.reserved + l.needs d, port := some 1 }) s)

/-- A landing is carried out in the present cycle (R240, R243): reservation, bytes, TAIL, latency, tag, count. -/
def land (r : Fin 32) (d : Desc) (l : Landing) (s : State) : State :=
  let u := d.core r
  let n := l.bytes.length
  let s := reserveLanding r d l s
  let s := modCore u (fun c => c.writeRuns s.clk.raw (landRuns (c.basin d.basin) d l) l.bytes) s
  let s := modDesc r d.job d.slot (Desc.mark l.block (n / 64)) s
  let x := runOver (s.windows u d.basin 1)
  let s := setMoved x.2 s
  let s := if x.1 = 0 then s else modCore u (fun c => c.modBasin d.basin fun b =>
    let b := b.append s.clk.raw (64 * x.1)
    { b with reserved := b.reserved - 64 * x.1 }) s
  let s := modRill r (fun y => { y with landing := y.landing.erase l, bytes := y.bytes + BitVec.ofNat 64 n, holding := y.permitted }) s
  readLanded l.chan l.tag s

/-- A landing put among those that wait for a core's port: timed ones first, then the lower rill, then the older (R241). -/
def insertLanding (x : Fin 32 × Desc × Landing) : List (Fin 32 × Desc × Landing) → List (Fin 32 × Desc × Landing)
  | [] => [x]
  | y :: ys => if !y.2.2.timed && x.2.2.timed then x :: y :: ys else y :: insertLanding x ys

/-- The landings that wait for the fabric write port of core u, in the order in which they take it. -/
def State.waiting (s : State) (u : UnitIdx) : List (Fin 32 × Desc × Landing) :=
  ((clusterRills u).flatMap fun r => s.rills[r].landing.filterMap fun l =>
    match s.rills[r].desc l.job l.slot with
    | none => none
    | some d => if d.open_ && d.core r == u then some (r, d, l) else none).foldl (fun q x => insertLanding x q) []

/-- The rules of a landing (R169, R174). -/
def landRules (c : Core) (d : Desc) (l : Landing) : Bool :=
  let b := c.basin d.basin
  b.defined && b.writtenBy 1 && decide (l.bytes.length ≤ b.size)

/-- Has the basin of a landing the space for it (R175)? -/
def Core.roomFor (now : Nat) (d : Desc) (l : Landing) (c : Core) : Bool := decide (l.needs d ≤ (c.basin d.basin).free now)

/-- The first waiting landing that can take the port: it breaks a rule, or its basin has the space (R175, R241). A landing
held for a bank keeps the others waiting no longer. -/
def State.nextLanding (s : State) (u : UnitIdx) : Option (Fin 32 × Desc × Landing) :=
  (s.waiting u).find? fun x =>
    let c := s.cores[u]
    !x.2.2.late && (!landRules c x.2.1 x.2.2 || c.roomFor s.clk.raw x.2.1 x.2.2)

/-- A landing of a rill changed by f. -/
def modLanding (r : Fin 32) (l : Landing) (f : Landing → Landing) (s : State) : State :=
  modRill r (fun y => { y with landing := y.landing.map fun x => if x == l then f x else x }) s

/-- A landing waits at its banks, with its space reserved (R175, R179). -/
def markLate (r : Fin 32) (d : Desc) (l : Landing) (s : State) : State :=
  modLanding r l (fun x => { x with late := true }) (reserveLanding r d l s)

/-- A landing takes the fabric write port of a core (R179, R240, R241): it lands in the cycle of its last byte, or waits
for the banks that it wakes. -/
def basinLanding (u : UnitIdx) (s : State) : State :=
  let s := settleCore u s
  match s.nextLanding u with
  | none => s
  | some (r, d, l) =>
    let c := s.cores[u]
    if !landRules c d l then manifestEvent d.job (modRill r (fun y => { y with landing := y.landing.erase l }) (freeTag l.chan l.tag s))
    else
      let start := max s.clk.raw c.fabric
      let rs := landRuns (c.basin d.basin) d l
      atCycle (start + (l.bytes.length + 255) / 256 - 1) s fun s =>
        let s := modCore u (fun c => { c with fabric := s.clk.raw + 1 }) s
        if (s.cores[u]).banksOn s.clk.raw rs then land r d l s else markLate r d l (lateWrite u (some d.job) rs s)

/-- BASIN_LANDING (R167, R175, R179, R240, R241). -/
def execBasinLanding (c : Fin 64) (s : State) : Host.Outcome State Fault Refusal :=
  .next (basinLanding (Fin.castLE (by decide) c) s)

/-- The landings held for banks of core u that are now ON land (R179). (DEDUCED, log entry 18) -/
def landLate (u : UnitIdx) (s : State) : State :=
  ((s.waiting u).filter fun x => x.2.2.late).foldl (fun s x =>
    match s.rills[x.1].desc x.2.2.job x.2.2.slot with
    | none => s
    | some d =>
      let c := s.cores[u]
      if c.banksOn s.clk.raw (landRuns (c.basin d.basin) d x.2.2) then land x.1 d x.2.2 s else s) s

/-- BANK_WAKE_DONE (R178, R179): 200 cycles after its wake began a bank is ON, and the writes held for it take effect. (DEDUCED, log entry 18) -/
def bankWakeDone (u : UnitIdx) (k : Fin 32) (s : State) : State :=
  let b := s.cores[u].banks[k]
  if b.st != .waking then s
  else
    atCycle (b.since + 200) s fun s =>
      let s := modCore u (fun c => { c with banks := modV c.banks k (Bank.to s.clk.raw (b.since + 200) .on) }.recheck (b.since + 200)) s
      let s := match s.cores[u].vec.entry with
        | none => s
        | some v => if v.late then commitEntry u v s else s
      landLate u (landPut u (modCore u (Core.landNarrow s.clk.raw) s))

/-- BANK_WAKE_DONE (R178). -/
def execBankWakeDone (u : UnitIdx) (k : Fin 32) (s : State) : Host.Outcome State Fault Refusal := .next (bankWakeDone u k s)

/-! ### Read-outs -/

/-- Offset of a block of d's window from HEAD. -/
def State.outOffset (s : State) (r : Fin 32) (d : Desc) (block : Nat) : Nat :=
  let b := s.cores[d.core r].basin d.basin
  (d.winStart + 64 * block + b.size - b.head) % b.size

/-- The rules of a read-out (R174, R179, R239). -/
def outRules (c : Core) (d : Desc) (now block blocks : Nat) : Bool :=
  let b := c.basin d.basin
  b.defined && b.consumedBy 2 && decide (64 * blocks ≤ b.size) && decide (block + blocks ≤ d.blocks) &&
  c.readable now b (d.winStart + 64 * block) (64 * blocks)

/-- The grid cycle from which a read-out may begin (R242): for a TIMED descriptor 64 cycles before its CH_WRITE would issue,
counted with the channel's slip; none when no CH_WRITE of the timetable, and no posted request (R249), stores these blocks. -/
def State.readOutFrom (s : State) (r : Fin 32) (j : Job) (d : Desc) (block blocks : Nat) : Option Nat :=
  if d.arb then
    if s.rills[r].posted.any fun q => q.write && q.job == d.job && q.slot == d.slot && q.block == block && q.blocks == blocks
    then some s.grid else none
  else ((chanEntries (s.image j) j).find? fun x =>
      let f := chanFields x.2.2
      x.2.1 == 2 && j.mapUnit 4 f.rill == r.1 && f.slot == d.slot && f.block == block && f.blocks == blocks &&
        f.addr == d.addr + 64 * block).map fun x =>
    (j.startBeat + d.period * j.periodBeats + entryBeat x.2.2) * beatCycles + x.2.2.cycle +
      (s.chans[(Fin.ofNat 128 x.1)]).slip - 64

/-- The blocks are still to be read out, and within FILL (R242). (DEDUCED, log entry 46) -/
def State.canReadOut (s : State) (r : Fin 32) (d : Desc) (block blocks : Nat) : Bool :=
  blocks != 0 && !((d.done.drop block).take blocks).any (fun x => x) &&
  decide (s.outOffset r d block + 64 * blocks ≤ (s.cores[d.core r].basin d.basin).usable s.clk.raw)

/-- A read-out whose last byte is read out in the present cycle, begun in raw cycle t0 (R172, R242, R406). -/
def doReadOut (r : Fin 32) (d : Desc) (block blocks t0 : Nat) (up : SramUpset) (s : State) : State :=
  let u := d.core r
  let s := upsetPad u { job := some d.job, period := d.period } up s
  let c := s.cores[u]
  let o : ReadOut :=
    { block := block, began := t0, bytes := c.bytes (c.basin d.basin) (d.winStart + 64 * block) (64 * blocks) }
  let s := modDesc r d.job d.slot (fun d => { d.mark block blocks with outs := d.outs ++ [o] }) s
  let x := runOver (s.windows u d.basin 2)
  let s := setMoved x.2 s
  let s := modCore u (fun c => c.modBasin d.basin fun b => if x.1 = 0 then b else if b.hold then b else b.take s.clk.raw (64 * x.1)) s
  modRill r (fun y => { y with bytes := y.bytes + BitVec.ofNat 64 (64 * blocks) }) s

/-- A read-out of blocks of an open RILL_OUT (R167, R172, R242, R406): it begins in its first cycle, once the blocks are within FILL and the
fabric read port is free, and HEAD moves in the cycle of its last byte. (DEDUCED, log entry 46) -/
def readOut (r : Fin 32) (d : Desc) (block blocks : Nat) (up : SramUpset) (s : State) : State :=
  match ((s.job d.job).bind fun j => s.readOutFrom r j d block blocks).bind fun g => reachGrid g s with
  | none => s
  | some t =>
    match reach (t.cores[d.core r]).fabricOut t with
    | none => s
    | some t =>
      let u := d.core r
      let t := settleCore u t
      if !t.canReadOut r d block blocks then s
      else if !outRules t.cores[u] d t.clk.raw block blocks then manifestEvent d.job t
      else
        let t0 := t.clk.raw
        let last := t0 + (64 * blocks + 255) / 256 - 1
        let t := modCore u (fun c => { c.modBasin d.basin (Basin.claim 2) with fabricOut := last + 1 }) t
        atCycle last t fun t => doReadOut r d block blocks t0 up (settleCore u t)

/-- RILL_OUT_READOUT (R172, R242, R406). -/
def execRillOutReadout (r : Fin 32) (slot : Fin 64) (block blocks : BitVec 10) (up : SramUpset) (s : State) :
    Host.Outcome State Fault Refusal :=
  .next (match s.rills[r].descs.find? fun d => d.slot == slot && d.op == 2 && d.open_ with
    | none => s
    | some d => readOut r d block.toNat blocks.toNat up s)

/-! ### Retirement -/

/-- Has an open descriptor moved all that it moves (R243)? -/
def Desc.complete (d : Desc) : Bool :=
  d.open_ && ((d.op == 1 && d.moved == d.blocks) || (d.op == 2 && d.written == d.blocks))

/-- RILL_RETIRE (R243, R245): a RILL_IN once TAIL has passed its window, a RILL_OUT in the cycle after the last burst of its
last write, which may end the work of its period. -/
def rillRetire (r : Fin 32) (slot : Fin 64) (s : State) : State :=
  match s.rills[r].descs.find? fun d => d.slot == slot && d.complete with
  | none => s
  | some d =>
    if d.op = 1 then retired r d.job slot s
    else atCycle d.ends s fun s => outRetired d.job d.period (retired r d.job slot s)

/-- RILL_RETIRE (R243). -/
def execRillRetire (r : Fin 32) (slot : Fin 64) (s : State) : Host.Outcome State Fault Refusal := .next (rillRetire r slot s)

/-! ### The descriptor queue -/

/-- The first fill of a queue with descriptors 0 to 63 (R237); a block reset written in the same cycle is refused (R254). (DEDUCED, log entry 35) -/
def fillQueue (k : Fin 12) (j : Job) (r : Fin 32) (s : State) : State :=
  let es := s.rillList j r
  let s := noteIf (s.rills[r].resetAt == some s.clk.raw) (rillStatusAt r) 21 s
  modRill r (fun x =>
    let now := x.resetAt == some s.clk.raw
    { x with descs := x.descs ++ (List.range 64).filterMap (descAt k es), failed := false,
             refused := x.refused || now, resetAt := if now then none else x.resetAt }) s

/-- The slots of a group. -/
def inGroup (g : Fin 4) (slot : Fin 64) : Bool := slot.1 / 16 == g.1

/-- The job whose descriptors of a group have all retired and that does not fetch it yet (R237). -/
def Rill.refillJob (g : Fin 4) (r : Rill) : Option (Fin 12) :=
  slotsList.find? fun k =>
    let ds := r.descs.filter fun d => d.job == k && inGroup g d.slot
    !ds.isEmpty && ds.all (·.retired) && !r.fetching.contains (k, g)

/-- The burst of a group is requested (R237, R238): 16 descriptors of 32 bytes, due when the first of them is stated. -/
def fetchGroup (r : Fin 32) (g : Fin 4) (k : Fin 12) (s : State) : State :=
  match s.job k with
  | none => s
  | some j =>
    let es := s.rillList j r
    let n := ((s.rills[r].descs.filter fun d => d.job == k && inGroup g d.slot).map fun d => d.seq + 64).min?.getD 0
    let due := ((descAt k es n).map fun d => d.dueAt j 0).getD s.grid
    let at_ := (s.sectionAt j 2 4 r.1).map fun a => (a + 32 * (n % es.length), 512)
    modRill r (fun x => { x with fetching := x.fetching ++ [(k, g)] }) (postFetch (.group r g) k j due at_ s)

/-- DESCRIPTOR_FETCH (R237, R238). (DESIGN CHOICE, log entry 82) -/
def execDescriptorFetch (r : Fin 32) (g : Fin 4) (s : State) : Host.Outcome State Fault Refusal :=
  .next (match s.rills[r].refillJob g with
    | none => s
    | some k => fetchGroup r g k s)

/-- A burst of descriptors lands (R237), read from an image: each slot of the group holds the descriptor 64 further on. -/
def landGroup (r : Fin 32) (g : Fin 4) (k : Fin 12) (j : Job) (img : List Byte) (s : State) : State :=
  let es := unitEntries img j 2 4 r.1
  modRill r (fun x => { x with
    fetching := x.fetching.filter (· != (k, g))
    descs := x.descs.map fun d =>
      if d.job == k && inGroup g d.slot && d.retired then (descAt k es (d.seq + 64)).getD d else d }) s

/-- FETCH_LANDED (R184, R237, R238): a fetch all of whose reads have landed takes effect, with the bytes that they delivered. -/
def fetchLanded (k : FetchKind) (s : State) : State :=
  match s.mem.fetches.find? fun x => x.kind == k && x.lines.isEmpty && x.left == 0 with
  | none => s
  | some x =>
    let s := { s with mem := { s.mem with fetches := s.mem.fetches.erase x } }
    match s.job x.job with
    | none => s
    | some j =>
      let img := s.imageAs x.got j
      match k with
      | .group r g => landGroup r g x.job j img s
      | .context c k => landContext c k j img s

/-- FETCH_LANDED (R184, R237, R238). (DESIGN CHOICE, log entry 82) -/
def execFetchLanded (k : FetchKind) (s : State) : Host.Outcome State Fault Refusal := .next (fetchLanded k s)

/-! ### Arbitrated requests -/

/-- The descriptor whose next run of blocks a rill posts: the oldest open ARBITRATED one with blocks not yet posted (R249). -/
def Rill.posting (r : Rill) : Option Desc :=
  (r.descs.filter fun d => d.open_ && d.arb && decide (d.posted < d.blocks)).foldl (fun best d => match best with
    | none => some d
    | some (b : Desc) => if d.seq < b.seq then some d else some b) none

/-- A rill posts a request for the next run of blocks that lies in one line (R249); the place of a request granted in the present cycle is
used from the next one on. -/
def postRill (r : Fin 32) (s : State) : State :=
  match s.rills[r].posting with
  | none => s
  | some d =>
    match s.job d.job with
    | none => s
    | some j =>
      if 16 ≤ s.rills[r].posted.length + inCycle s.grid s.rills[r].grants then s
      else
        let a := d.addr + 64 * d.posted
        let n := min (lineLeft a) (d.blocks - d.posted)
        let q : Request :=
          { job := d.job, slot := d.slot, block := d.posted, blocks := n, addr := a, chan := Fin.ofNat 128 (chanOf a)
            write := d.op == 2, due := d.need j, posted := s.grid }
        modDesc r d.job d.slot (fun d => { d with posted := d.posted + n }) (modRill r (fun x => { x with posted := x.posted ++ [q] }) s)

/-! ### Timeouts and block resets -/

/-- The timeout in cycles (R257). -/
def Rill.timeoutCycles (r : Rill) : Nat := max 1024 r.tmo.toNat

/-- Of the reads of a rill's slot whose completion has not come, in flight or failed and waiting for their retry, the one issued first,
whose timeout expires first (R252). (DEDUCED, log entry 47) -/
def State.unanswered (s : State) (r : Fin 32) (slot : Fin 64) : Option Flight :=
  let mine (f : Flight) : Bool := f.ofRill && !f.write && f.rill == r && f.slot == slot && !f.arrived && s.stands f
  (s.chans.toList.flatMap fun c => (c.slots.toList.filterMap (fun f => f) ++ c.failed).filter mine).foldl (fun best f =>
    match best with
    | none => some f
    | some (b : Flight) => if f.issued < b.issued then some f else some b) none

/-- RILL_TIMEOUT (R252, R408): the descriptor fails, and the island kills its job; a SAFETY job takes the device to
SAFE_STOP. (DEDUCED, log entry 34) (DEDUCED, log entry 47) -/
def rillTimeout (r : Fin 32) (slot : Fin 64) (s : State) : State :=
  match s.unanswered r slot with
  | none => s
  | some f =>
    atCycle (f.issued + s.rills[r].timeoutCycles) s fun s =>
      let s := modDesc r f.job slot (fun d => { d with failed := true }) (rillEvent r 20 (fun x => { x with timeout := true, failed := true }) s)
      let s := raiseFault 8 r.1 slot.1 (some f.job) s
      match s.job f.job with
      | none => s
      | some j => if j.isSafety then safeStop 4 8 true s else killJob f.job 8 true s

/-- RILL_TIMEOUT (R252). -/
def execRillTimeout (r : Fin 32) (slot : Fin 64) (s : State) : Host.Outcome State Fault Refusal := .next (rillTimeout r slot s)

/-- Is a rill idle (R253)? -/
def State.rillIdle (s : State) (r : Fin 32) : Bool :=
  let x := s.rills[r]
  (s.ownerOf (r.1 / 4) s.clk.beat).isNone && !s.proofBeat s.clk.beat && (x.descs.all fun d => d.retired) && x.fetching.isEmpty &&
  x.posted.isEmpty && x.landing.isEmpty &&
  s.chans.toList.all fun c => c.slots.toList.all fun f => match f with
    | none => true
    | some f => !f.ofRill || f.rill != r || tagFree s.clk.raw (some f)

/-- A block reset of a rill (R253, R254, R524): refused unless the rill is idle. -/
def rillBlockReset (r : Fin 32) (s : State) : State :=
  if !s.dom.fabric.getLsbD (r.1 / 4) then s
  else if s.rillIdle r then modRill r (fun x => { x with resetAt := some s.clk.raw }) s
  else rillEvent r 21 (fun x => { x with refused := true }) s

/-- RILL_BLOCK_RESET (R253). -/
def execRillBlockReset (r : Fin 32) (s : State) : Host.Outcome State Fault Refusal := .next (rillBlockReset r s)

/-- RILL_RESET_DONE (R253): 32 cycles later every field but RILL_TMO_CFG is at its reset value; descriptors filled in since the write stay. -/
def execRillResetDone (r : Fin 32) (s : State) : Host.Outcome State Fault Refusal :=
  .next (match s.rills[r].resetAt with
    | none => s
    | some t => atCycle (t + 32) s fun s =>
      modRill r (fun x => { tmo := x.tmo, descs := x.descs.filter fun d => !d.retired }) { s with latch := Cells.put 0 s.latch (0xF032000014 + 0x1000 * r.1) 0 })

/-! ### Outstanding entries and carried slip (R55, R57) -/

/-- Has a core an outstanding entry of the job: one in progress, or one stated in a beat up to b and not issued? -/
def Core.outstanding (k : Fin 12) (j : Job) (b : Nat) (c : Core) : Bool :=
  c.worksFor k || (c.seq.halves.toList.getD j.ctx (Vector.replicate 2 {})).toList.any fun h => decide (h.beat ≤ b) && !h.entries.isEmpty

/-- The descriptor of a job that a rill activates next, and whether it is in the queue (R236, R237). -/
def State.nextOf (s : State) (r : Fin 32) (k : Fin 12) (j : Job) : Option (Desc × Bool) :=
  let ds := s.rills[r].descs.filter fun d => d.job == k
  let seqs := ds.map fun d => if d.active then d.seq + 64 else d.seq
  match seqs.min? with
  | none => none
  | some n =>
    match ds.find? fun d => d.seq == n && d.real j with
    | some d => some (d, true)
    | none => ((descAt k (s.rillList j r) n).filter (Desc.real j)).map fun d => (d, false)

/-- Has a rill a descriptor of the job stated by the end of beat b and not yet active (R236)? -/
def State.rillOutstanding (s : State) (r : Fin 32) (k : Fin 12) (j : Job) (b : Nat) : Bool :=
  match s.nextOf r k j with
  | none => false
  | some (d, _) => decide (d.statedBeat j ≤ b)

/-- The cores, rills and channels on which a job carries entries over a boundary. -/
structure Carriers where
  cores : List (Fin 64) := []
  rills : List (Fin 32) := []
  chans : List (Fin 128) := []
  deriving DecidableEq, Repr

/-- No unit. -/
def Carriers.none (c : Carriers) : Bool := c.cores.isEmpty && c.rills.isEmpty && c.chans.isEmpty

/-- The cores, rills and channels of a job that still have outstanding entries at the end of beat b. -/
def State.carriers (s : State) (k : Fin 12) (j : Job) (b : Nat) : Carriers :=
  { cores := (List.finRange 64).filter fun c => j.usesCore c.1 && (s.cores[(Fin.castLE (by decide) c : UnitIdx)]).outstanding k j b
    rills := (List.finRange 32).filter fun r => j.usesRill r.1 && s.rillOutstanding r k j b
    chans := (List.finRange 128).filter fun c => (j.lots.any fun l => l.chan == c.1) && (match s.chanNext c j with
      | none => false
      | some x => decide (chanStated j x < (b + 1) * beatCycles)) }

/-- Does any unit of the job have outstanding entries at the end of beat b (R55, R269)? -/
def State.outstanding (s : State) (k : Fin 12) (b : Nat) : Bool :=
  match s.job k with
  | none => false
  | some j => !(s.carriers k j b).none

end Sys2Proof.Machine
end

