-- ==== Sys2Proof/Machine/Sensor.lean ====
section
/-! DEFINITION. Sensor ingress (chapter 11): stream contexts, receivers, ports and filters, ring slots and their writes, the
stillwater detector, the frame timeout. -/

namespace Sys2Proof.Machine

/-- A stream context changed by f. -/
def modCtx (n : Fin 24) (f : SnsCtx → SnsCtx) (s : State) : State := { s with sens := { s.sens with ctxs := modV s.sens.ctxs n f } }

/-- Context n changed by f, which sets bits of SNS_CTXn_STATUS and reads none: each is an event (R16, R327). -/
def hitCtx (n : Fin 24) (f : SnsCtx → SnsCtx) (s : State) : State :=
  let c := s.sens.ctxs[n]
  let d := f { c with status := 0 }
  noteBits (0xF041000020 + 0x100 * n.1) d.status.toNat 8 (modCtx n (fun _ => { d with status := c.status ||| d.status }) s)

/-- All contexts. -/
def ctxList : List (Fin 24) := List.finRange 24

/-- LINE_BYTES of a context (R327). -/
def SnsCtx.lineBytes (c : SnsCtx) : Nat := 64 * c.lineUnits.toNat

/-- Slots of a ring (R307). -/
def SnsCtx.slots (c : SnsCtx) : Nat := c.slotsM1.toNat + 1

/-- Bytes of a slot. -/
def SnsCtx.slotBytes (c : SnsCtx) : Nat := c.pages.toNat * pageBytes

/-- First address of slot k (R307). -/
def SnsCtx.slotAt (c : SnsCtx) (k : Nat) : Nat := c.base.toNat + k * c.slotBytes

/-- Bytes in the ingress buffer (R311). -/
def SnsCtx.fill (c : SnsCtx) : Nat := (c.writes.map (·.held)).sum

/-- The configuration of a context keeps the rules of chapter 11 (R303, R307, R327), for context n with the other
enabled contexts and the admitted jobs. -/
def SnsCtx.legal (n : Fin 24) (c : SnsCtx) (s : State) : Bool :=
  let ring := c.slots * c.slotBytes
  decide (2 ≤ c.slotsM1.toNat) && decide (1 ≤ c.lineUnits.toNat) && decide (1 ≤ c.maxLines.toNat) && decide (1 ≤ c.pages.toNat) &&
  decide (1 ≤ c.rate.toNat) && decide (c.rate.toNat ≤ 10000) && decide (1 ≤ c.tmo.toNat) && decide (c.hist.toNat ≤ 8) &&
  decide (1 ≤ c.limit.toNat) &&
  (c.ether || c.dt == 0x2B || c.dt == 0x2C || c.dt == 0x1E) &&
  decide ((c.base.toNat - halfBase c.base.toNat) % pageBytes = 0) && inOneHalf s.part c.base.toNat ring &&
  decide (64 + 8 * c.maxLines.toNat + c.lineBytes * c.maxLines.toNat ≤ c.slotBytes) &&
  ctxList.all (fun m => let d := s.sens.ctxs[m]
    m == n || !d.enable ||
      (!(meets c.base.toNat ring d.base.toNat (d.slots * d.slotBytes)) &&
       (c.ether || d.ether || c.receiver != d.receiver || c.vc != d.vc || c.dt != d.dt))) &&
  !s.meetsExtent c.base.toNat ring

/-- A refused write of ENABLE (R300). -/
def SnsCtx.refuse (c : SnsCtx) : SnsCtx := { c with status := c.status ||| 0x80 }

/-- The configuration fields of SNS_CTXn_CFG other than ENABLE (R327). -/
def SnsCtx.withCfg (w : Word) (c : SnsCtx) : SnsCtx :=
  let v := w.toNat
  { c with
    ether := bitOf v 1, receiver := Fin.ofNat 8 (bits v 4 2), vc := BitVec.ofNat 2 (bits v 6 5)
    dt := BitVec.ofNat 6 (bits v 13 8), slotsM1 := BitVec.ofNat 4 (bits v 19 16) }

/-- A write to SNS_CTXn_CFG that sets ENABLE (R300): with ENABLE set already nothing changes; otherwise the other fields
are stored, and the context starts unless a rule is broken or the device is parked. -/
def ctxEnable (n : Fin 24) (w : Word) (s : State) : State :=
  let c := s.sens.ctxs[n]
  if c.enable then s
  else
    let c := c.withCfg w
    if c.legal n s && !s.mem.parkValid then modCtx n (fun _ => { c with enable := true, timer := s.clk.raw }) s
    else hitCtx n (fun c => (c.withCfg w).refuse) s

/-- What a discard leaves of the writes that it concerns (R310): requests already posted, which change nothing. -/
def voided (of_ : SlotWrite → Bool) (ws : List SlotWrite) : List SlotWrite :=
  ws.filterMap fun w => if !of_ w then some w else if w.posted.isSome then some { w with void := true } else none

/-- A write to SNS_CTXn_CFG with ENABLE 0 (R300, R301): refused while an admitted job names the context; it discards a
frame in progress, and the current frame ceases to exist. -/
def ctxDisable (n : Fin 24) (w : Word) (s : State) : State :=
  let c := s.sens.ctxs[n]
  if !c.enable then modCtx n (SnsCtx.withCfg w) s
  else if s.published.jobs.all.any fun x => x.2.streams.any (·.1 == n) then hitCtx n SnsCtx.refuse s
  else modCtx n (fun c => { c with
    enable := false
    discarded := if c.frame.isSome || !c.ending.isEmpty then satAdd c.discarded (c.ending.length + b2n c.frame.isSome) else c.discarded
    frame := none, ending := [], landed := none, edge := none, current := none, counter := 0, writes := voided (fun _ => true) c.writes, taken := 0
    dropping := false }) s

/-- CONTEXT_ENABLE (R300): a value without ENABLE clears it. -/
def execContextEnable (n : Fin 24) (w : Word) (s : State) : Host.Outcome State Fault Refusal :=
  .next (if !s.hubOn 2 then s else if w.getLsbD 0 then ctxEnable n w s else ctxDisable n w s)

/-- CONTEXT_DISABLE (R300): a value with ENABLE sets it. -/
def execContextDisable (n : Fin 24) (w : Word) (s : State) : Host.Outcome State Fault Refusal :=
  .next (if !s.hubOn 2 then s else if w.getLsbD 0 then ctxEnable n w s else ctxDisable n w s)

/-- A frame in progress is discarded with a cause bit of SNS_CTXn_STATUS (R310). -/
def SnsCtx.discard (bit : Nat) (c : SnsCtx) : SnsCtx :=
  match c.frame with
  | none => c
  | some f => { c with
      status := c.status ||| BitVec.ofNat 8 (2 ^ bit)
      discarded := satInc c.discarded
      frame := none, dropping := true
      writes := voided (fun w => f.begun && w.seq == f.seq && !w.void) c.writes }

/-- Slots bound to periods of admitted jobs for context n (R287, R309). -/
def boundSlots (n : Fin 24) (s : State) : List Nat :=
  s.published.jobs.all.flatMap fun x => x.2.run.flatMap fun p => (p.bound.filter fun b => b.ctx == n && !b.none).map (·.slot)

/-- The slot of a new frame (R309); a slot whose frame is about to be complete or visible is not free either. (DEDUCED, log entry 88) -/
def SnsCtx.freeSlot (c : SnsCtx) (bound : List Nat) : Option Nat :=
  let from_ := match c.lastSlot with | none => 0 | some k => k + 1
  ((List.range c.slots).map fun i => (from_ + i) % c.slots).find? fun k =>
    !(bound.contains k) && !(c.current.any (·.slot == k)) && !(c.landed.any (·.slot == k)) && !(c.edge.any (·.slot == k)) && !(c.ending.any (·.slot == k))

/-- The first unit of a frame (R301, R308, R309): the sequence counter adds one, wrapping from all ones to 1. -/
def SnsCtx.begin_ (now : Quad) (bound : List Nat) (c : SnsCtx) : SnsCtx :=
  match c.frame with
  | none => c
  | some f =>
    if f.begun then c
    else
      let n : Word := if c.counter = 0xFFFFFFFF then 1 else c.counter + 1
      match c.freeSlot bound with
      | none => { c.discard 1 with counter := n }
      | some k => { c with
          counter := n, lastSlot := some k
          frame := some { f with begun := true, slot := k, seq := n, tStart := now } }

/-- Bytes for the slot cut at the ends of 960-byte lines; the last open piece of the same frame is continued. -/
def cutLines (base : Nat) (seq : Word) : Nat → Nat → List Byte → Nat → List SlotWrite
  | 0, _, _, _ => []
  | fuel + 1, a, bs, held =>
    if bs.isEmpty then []
    else
      let k := 960 - (a - base) % 960
      { seq := seq, addr := a, bytes := bs.take k, held := min held k } :: cutLines base seq fuel (a + k) (bs.drop k) (held - k)

/-- Adjacent open pieces of one line joined. -/
def joinWrites (base : Nat) (ws : List SlotWrite) (w : SlotWrite) : List SlotWrite :=
  match ws.reverse with
  | x :: rest =>
    if x.posted.isNone && !x.last && x.seq == w.seq && x.addr + x.bytes.length == w.addr && (w.addr - base) % 960 != 0 then
      rest.reverse ++ [{ x with bytes := x.bytes ++ w.bytes, held := x.held + w.held }]
    else ws ++ [w]
  | [] => [w]

/-- One unit is stamped, hashed and stored (R308, R310 to R312). (DESIGN CHOICE, log entry 79) -/
def SnsCtx.unit (stamp : Quad) (bs : List Byte) (c : SnsCtx) : SnsCtx :=
  match c.frame with
  | none => c
  | some f =>
    if c.maxLines.toNat ≤ f.stamps.length ∨ c.lineBytes < bs.length then c.discard 2
    else if 32768 < c.fill + bs.length then c.discard 0
    else
      let base := c.slotAt f.slot
      let a := base + 64 + 8 * c.maxLines.toNat + c.lineBytes * f.stamps.length
      let field := bs ++ List.replicate (c.lineBytes - bs.length) 0
      { c with
        writes := (cutLines base f.seq (c.lineBytes / 960 + 2) a field bs.length).foldl (joinWrites base) c.writes
        frame := some { f with stamps := f.stamps ++ [stamp], payload := f.payload ++ bs } }

/-- The stamp table of a frame's slot (R308). -/
def Frame1.table (f : Frame1) : List Byte := f.stamps.flatMap fun t => natLE 8 t.toNat

/-- The end of a frame (R310, R311, R318): its stamp table is complete; the timeout restarts; a frame of no unit was never begun.
(DEDUCED, log entry 92) -/
def SnsCtx.end_ (raw : Nat) (now : Quad) (c : SnsCtx) : SnsCtx :=
  let c := { c with timer := raw, dropping := false, taken := 0 }
  match c.frame with
  | none => c
  | some f =>
    if !f.begun then { c with frame := none }
    else { c with
      frame := none, ending := c.ending ++ [{ f with tEnd := now }]
      writes := c.writes ++ cutLines (c.slotAt f.slot) f.seq (f.stamps.length + 1) (c.slotAt f.slot + 64) f.table 0 }

/-- The enabled CSI-2 contexts of a receiver and virtual channel, and of a data type where one is given (R303). -/
def csiMatch (rx : Fin 8) (vc : BitVec 5) (dt : Option (BitVec 6)) (s : State) : List (Fin 24) :=
  ctxList.filter fun n => let c := s.sens.ctxs[n]
    c.enable && !c.ether && c.receiver == rx && c.vc.toNat == vc.toNat && (match dt with | none => true | some d => c.dt == d)

/-- f done to each of some contexts. -/
def modCtxs (ns : List (Fin 24)) (f : SnsCtx → SnsCtx) (s : State) : State := ns.foldl (fun s n => hitCtx n f s) s

/-- A receiver changed by f. -/
def modCsi (rx : Fin 8) (f : Csi → Csi) (s : State) : State := { s with sens := { s.sens with csis := modV s.sens.csis rx f } }

/-- What the ECC of a packet header does (R302): a corrected header is counted; an uncorrectable one is counted and
discards the frames it concerns with CRC; otherwise f follows. A receiver that is off or unpowered (R418) takes nothing, and
a virtual channel above 3 is not supported. -/
def withHeader (rx : Fin 8) (vc : BitVec 5) (dt : Option (BitVec 6)) (ecc : HdrEcc) (f : State → State) (s : State) : State :=
  if !s.hubOn 2 || s.sens.csis[rx].lanes == 3 then s
  else
    match ecc with
    | .bad => modCtxs (csiMatch rx vc dt s) (SnsCtx.discard 3) (modCsi rx (fun c => { c with crcErr := satInc c.crcErr }) s)
    | .corrected => let s := modCsi rx (fun c => { c with eccCorr := satInc c.eccCorr }) s; if 3 < vc.toNat then s else f s
    | .clean => if 3 < vc.toNat then s else f s

/-- A Frame Start: each matching context begins a frame; one still without its end is discarded (R302). (DEDUCED, log entry 88) -/
def frameStart (rx : Fin 8) (vc : BitVec 5) (fn : BitVec 16) (s : State) : State :=
  modCtxs (csiMatch rx vc none s) (fun c =>
    { c.discard 2 with frame := some { fn := fn, tstate := s.time.state }, dropping := false }) s

/-- FRAME_START (R301, R302). -/
def execFrameStart (rx : Fin 8) (vc : BitVec 5) (fn : BitVec 16) (ecc : HdrEcc) (s : State) : Host.Outcome State Fault Refusal :=
  .next (withHeader rx vc none ecc (frameStart rx vc fn) s)

/-- The data types of R302. -/
def supportedDt (dt : BitVec 6) : Bool := dt == 0x2B || dt == 0x2C || dt == 0x1E

/-- A long packet whose header is good (R302, R303): one of another data type is discarded and counted, with FORMAT noted (DESIGN CHOICE,
log entry 92: no register counts it); a payload error discards the frame with CRC. -/
def longPacket (rx : Fin 8) (vc : BitVec 5) (dt : BitVec 6) (crcOk : Bool) (bs : List Byte) (s : State) : State :=
  if !supportedDt dt then
    modCtxs (csiMatch rx vc none s) (fun c => { c with status := c.status ||| 4 }) (modCsi rx (fun c => { c with other := c.other + 1 }) s)
  else
    let ns := csiMatch rx vc (some dt) s
    let s1 := if crcOk then s else modCsi rx (fun c => { c with crcErr := satInc c.crcErr }) s
    ns.foldl (fun s n => hitCtx n (fun c =>
      let c := c.begin_ s.now (boundSlots n s)
      if crcOk then c.unit s.now bs else c.discard 3) s) s1

/-- LONG_PACKET (R302, R303, R308 to R312). -/
def execLongPacket (rx : Fin 8) (vc : BitVec 5) (dt : BitVec 6) (ecc : HdrEcc) (crcOk : Bool) (bs : List Byte) (s : State) :
    Host.Outcome State Fault Refusal :=
  .next (withHeader rx vc (some dt) ecc (longPacket rx vc dt crcOk bs) s)

/-- FRAME_END (R302, R318). -/
def execFrameEnd (rx : Fin 8) (vc : BitVec 5) (ecc : HdrEcc) (s : State) : Host.Outcome State Fault Refusal :=
  .next (withHeader rx vc none ecc (fun s => modCtxs (csiMatch rx vc none s) (SnsCtx.end_ s.clk.raw s.now) s) s)

/-! ### Ethernet -/

/-- A port changed by f. -/
def modPort (p : Fin 4) (f : Port → Port) (s : State) : State := { s with sens := { s.sens with ports := modV s.sens.ports p f } }

/-- Port p is powered (R418, R448). -/
def State.portOn (p : Fin 4) (s : State) : Bool := s.hubOn 3 && s.cfg.ethPorts.getLsbD p.1

/-- Big-endian number of the n bytes at offset a. -/
def be (bs : List Byte) (a n : Nat) : Nat := ((bs.drop a).take n).foldl (fun v b => v * 256 + b.toNat) 0

/-- The 802.1Q VID of a frame, if it is tagged. -/
def vlanOf (bs : List Byte) : Option Nat := if be bs 12 2 = 0x8100 then some (be bs 14 2 % 4096) else none

/-- Offset of the EtherType after any 802.1Q tag. -/
def typeAt (bs : List Byte) : Nat := if (vlanOf bs).isSome then 16 else 12

/-- The destination port of the UDP datagram that a chain of IPv6 headers leads to: header `next` stands at offset a. A fragment header of a
whole datagram is passed as the other extension headers are. (PRESUMED, log entry 92) -/
def udpBehind (bs : List Byte) : Nat → Nat → Nat → Option Nat
  | 0, _, _ => none
  | fuel + 1, next, a =>
    let len := be bs (a + 1) 1
    if bs.length < a + 8 then none
    else if next = 17 then some (be bs (a + 2) 2)
    else if next = 0 ∨ next = 43 ∨ next = 60 ∨ next = 135 ∨ next = 139 ∨ next = 140 then udpBehind bs fuel (be bs a 1) (a + 8 * (len + 1))
    else if next = 51 then udpBehind bs fuel (be bs a 1) (a + 4 * (len + 2))
    else if next = 44 ∧ be bs (a + 2) 2 / 8 = 0 ∧ be bs (a + 2) 2 % 2 = 0 then udpBehind bs fuel (be bs a 1) (a + 8)
    else none

/-- The UDP destination port of an unfragmented IPv4 or IPv6 datagram (R305). -/
def udpPort (bs : List Byte) : Option Nat :=
  let a := typeAt bs
  let ip := a + 2
  if be bs a 2 = 0x0800 then
    let udp := ip + 4 * (be bs ip 1 % 16)
    if be bs ip 1 / 16 = 4 ∧ be bs (ip + 9) 1 = 17 ∧ be bs (ip + 6) 2 % 16384 = 0 ∧ udp + 8 ≤ bs.length then some (be bs (udp + 2) 2) else none
  else if be bs a 2 = 0x86DD then
    if be bs ip 1 / 16 = 6 then udpBehind bs bs.length (be bs (ip + 6) 1) (ip + 40) else none
  else none

/-- A filter matches a frame (R305). -/
def Filter.matches_ (p : Fin 4) (bs : List Byte) (f : Filter) : Bool :=
  f.enable && f.ports.getLsbD p.1 && f.dmac.toNat == be bs 0 6 &&
  (f.etype == 0 || f.etype.toNat == be bs (typeAt bs) 2) &&
  (!f.useVlan || vlanOf bs == some f.vid.toNat) && (!f.useUdp || udpPort bs == some f.udp.toNat)

/-- PKTS of a context: that of the lowest-numbered enabled filter that names it (R306, R329). -/
def pktsOf (n : Fin 24) (s : State) : Nat :=
  match s.sens.filts.toList.find? fun f => f.enable && f.ctx.toNat == n.1 with
  | none => 1
  | some f => max 1 f.pkts.toNat

/-- A packet taken by a context (R306): it begins a stream frame when none runs, and the PKTS-th ends it. A time at which
its last byte passes follows from the line rate of 10GBASE-R. (DESIGN CHOICE, log entry 79) -/
def takePacket (n : Fin 24) (stamp last : Quad) (bs : List Byte) (s : State) : State :=
  let pk := pktsOf n s
  let bound := boundSlots n s
  hitCtx n (fun c =>
    let c := if c.frame.isNone && !c.dropping then { c with frame := some { tstate := s.time.state } } else c
    let c := ({ c.begin_ stamp bound with taken := c.taken + 1 }).unit stamp bs
    if pk ≤ c.taken then c.end_ s.clk.raw last else c) s

/-- A received Ethernet frame without its check sequence (R304 to R306); a port without power receives none. -/
def ethFrame (p : Fin 4) (fcsOk : Bool) (bs : List Byte) (s : State) : State :=
  let len := bs.length + 4
  if !s.portOn p then s
  else if !fcsOk || decide (len < 64) || decide (9022 < len) then modPort p (fun q => { q with bad := satInc q.bad }) s
  else
    let got := modPort p (fun q => { q with accepted := q.accepted + 1 })
    if be bs 0 6 = 0x0180C200000E ∧ be bs 12 2 = 0x88F7 then got s
    else
      match s.sens.filts.toList.find? (Filter.matches_ p bs) with
      | none => modPort p (fun q => { q with unmatched := satInc q.unmatched }) s
      | some f =>
        if h : f.ctx.toNat < 24 then
          let n : Fin 24 := ⟨f.ctx.toNat, h⟩
          if s.sens.ctxs[n].enable && s.sens.ctxs[n].ether then
            let rx := s.sens.ports[p].rxNs.setWidth 64
            takePacket n (s.now - rx) (s.time.at_ (s.clk.raw + (4 * bs.length + 4) / 5) - rx) bs (got s)
          else modPort p (fun q => { q with unmatched := satInc q.unmatched }) s
        else modPort p (fun q => { q with unmatched := satInc q.unmatched }) s

/-- ETHERNET_FRAME (R304 to R306). -/
def execEthernetFrame (p : Fin 4) (fcsOk : Bool) (bs : List Byte) (s : State) : Host.Outcome State Fault Refusal :=
  .next (ethFrame p fcsOk bs s)

/-- BLOCK_LOCK_CHANGE (R329). -/
def execBlockLockChange (p : Fin 4) (locked : Bool) (s : State) : Host.Outcome State Fault Refusal :=
  .next (if s.portOn p then modPort p (fun q => { q with link := locked }) s else s)

/-! ### The end of a frame -/

/-- The stillwater checks of a frame (R317): REPEAT, STALE, and STILL as their OR. -/
def SnsCtx.checks (c : SnsCtx) (f : Frame1) : BitVec 3 :=
  let digest := sha3 f.payload
  let rep := decide (1 ≤ c.hist.toNat) && (c.history.take c.hist.toNat).contains digest
  let stale := c.cntCheck && !c.ether && f.fn != 0 && f.fn == c.lastFn
  BitVec.ofNat 3 (pack [(b2n (rep || stale), 0), (b2n rep, 1), (b2n stale, 2)])

/-- The oldest ended frame that has no flags yet is given them. -/
def markChecked (flags : BitVec 3) : List Frame1 → List Frame1
  | [] => []
  | f :: fs => if f.checked then f :: markChecked flags fs else { f with checked := true, flags := flags } :: fs

/-- The header of a frame's slot (R308). -/
def Frame1.header (f : Frame1) (digest : List Byte) : List Byte :=
  natLE 4 f.seq.toNat ++ natLE 2 f.fn.toNat ++ natLE 2 (f.flags.toNat + 8 * f.tstate.toNat) ++ natLE 4 f.stamps.length ++
  natLE 4 f.payload.length ++ natLE 8 f.tStart.toNat ++ natLE 8 f.tEnd.toNat ++ digest

/-- A frame's digest completes (R316, R317): the detector flags it and counts the run, and its header is complete (R309, R311); the LIMIT-th
STILL frame in a row is the stillwater fault (R408). -/
def digestDone (n : Fin 24) (s : State) : State :=
  let c := s.sens.ctxs[n]
  match c.ending.find? (!·.checked) with
  | none => s
  | some f =>
    let flags := c.checks f
    let still := flags.getLsbD 0
    let run := if still then satInc c.run else 0
    let hit := decide (1 ≤ c.hist.toNat) && still && run == c.limit && c.run != c.limit
    let st := BitVec.ofNat 8 (32 * b2n still + 64 * b2n hit)
    let f := { f with checked := true, flags := flags }
    let head : SlotWrite := { seq := f.seq, addr := c.slotAt f.slot, bytes := f.header (sha3 f.payload), held := 0, last := true }
    let s := hitCtx n (fun c => { c with ending := markChecked flags c.ending, run := run, status := c.status ||| st, writes := c.writes ++ [head] }) s
    if hit then raiseFault 9 n.1 (s.sens.ctxs[n].status).toNat none s else s

/-- FRAME_DIGEST_DONE (R316, R317). -/
def execFrameDigestDone (n : Fin 24) (s : State) : Host.Outcome State Fault Refusal := .next (digestDone n s)

/-- DRAM written from an address. -/
def putDram (a : Nat) (bs : List Byte) (s : State) : State := { s with mem := { s.mem with dram := Cells.puts 0 s.mem.dram a bs } }

/-- A frame's header has landed, its last write (R29, R309): the frame is complete and becomes visible at the next boundary, at the one after
it when it landed in the last cycle of a beat. -/
def frameComplete (n : Fin 24) (s : State) : State :=
  let c := s.sens.ctxs[n]
  match c.ending with
  | [] => s
  | f :: rest =>
    if !f.checked || c.writes.any (fun w => w.seq == f.seq && !w.void) then s
    else
      let digest := sha3 f.payload
      let i : FrameInfo := { slot := f.slot, seq := f.seq, fn := f.fn, digest := digest, flags := f.flags, tstate := f.tstate }
      let edge := s.clk.cyc == beatCycles - 1
      modCtx n (fun c => { c with
        ending := rest
        landed := if edge then c.landed else some i
        edge := if edge then some i else c.edge
        history := (digest :: c.history).take 8
        lastFn := f.fn }) s

/-- FRAME_COMPLETE (R29, R309). -/
def execFrameComplete (n : Fin 24) (s : State) : Host.Outcome State Fault Refusal := .next (frameComplete n s)

/-- The frame timeout of a context expires (R318). -/
def frameTimeout (n : Fin 24) (s : State) : State :=
  if !s.sens.ctxs[n].enable then s
  else
    atCycle (s.sens.ctxs[n].timer + 100000 * s.sens.ctxs[n].tmo.toNat) s fun s =>
      hitCtx n (fun c => { c.discard 4 with status := c.status ||| 16, missed := satInc c.missed, timer := s.clk.raw }) s

/-- FRAME_TIMEOUT (R318). -/
def execFrameTimeout (n : Fin 24) (s : State) : Host.Outcome State Fault Refusal := .next (frameTimeout n s)

/-- At a boundary the newest complete frame becomes the current one, but for one that landed as the boundary passed (R29). -/
def snsBoundary (s : State) : State :=
  { s with sens := { s.sens with ctxs := s.sens.ctxs.map fun c =>
      { c with current := if c.landed.isSome then c.landed else c.current, landed := c.edge, edge := none } } }

/-- The oldest piece of a context that may be posted (R311): one that ends its line, or one of a frame past its end; a header once the rest of
its frame is written (R309). (DEDUCED, log entry 31) -/
def SnsCtx.nextPost (c : SnsCtx) : Option SlotWrite :=
  c.writes.find? fun w => w.posted.isNone &&
    (!w.last || c.writes.all fun x => x.last || x.void || x.seq != w.seq) &&
    ((w.addr + w.bytes.length - c.base.toNat) % 960 == 0 || !(c.frame.any (·.seq == w.seq)))

/-- DUE of a request posted in a grid cycle (R311). (DEDUCED, log entry 31) -/
def SnsCtx.due (c : SnsCtx) (g : Nat) : Nat := g + (32768 - c.fill) * 1000 / c.rate.toNat

/-- A request of a context is granted (R247, R310, R311): the piece is in DRAM, unless its frame is discarded, and out of the buffer. -/
def streamGranted (n : Fin 24) (w : SlotWrite) (s : State) : State :=
  modCtx n (fun c => { c with writes := c.writes.erase w }) (if w.void then s else putDram w.addr w.bytes s)

/-- The request of a context is posted (R311). -/
def postStream (n : Fin 24) (s : State) : State :=
  match s.sens.ctxs[n].nextPost with
  | none => s
  | some w => modCtx n (fun c => { c with writes := c.writes.map fun x => if x == w then { x with posted := some (c.due s.grid, s.grid) } else x }) s

end Sys2Proof.Machine
end

