-- ==== Sys2Proof/Machine/Channel.lean ====
section
/-! DEFINITION. The memory channels (chapter 07): channel entries, ECC, retries, refresh, patrol scrub, and the deadline
arbiter (chapter 08). -/

namespace Sys2Proof.Machine

/-- The memory-PHY group of a channel is on (R193, R418). -/
def State.phyOn (s : State) (ch : Fin 128) : Bool := s.hasChan ch.1 && s.dom.phy.getLsbD (ch.1 / 32)

/-! ### Channel entries (R200, R201) -/

/-- What admission checks of a CH_READ or CH_WRITE (R201, R532). (DESIGN CHOICE, log entry 28) -/
def accessOk (ch : Nat) (e : Entry) : Bool :=
  let w := wordAt e.words
  let f := chanFields e
  headerOk e && bits (w 1) 31 17 == 0 && bits (w 2) 31 16 == 0 && f.addr % 64 == 0 && chanOf f.addr == ch &&
  decide (1 ≤ f.blocks ∧ f.blocks ≤ lineLeft f.addr)

/-- The access of a channel entry. -/
def accessOf (e : Entry) (k : Fin 12) (j : Job) (per : Nat) (write : Bool) : Flight :=
  let f := chanFields e
  { rill := Fin.ofNat 32 (j.mapUnit 4 f.rill), slot := f.slot, block := f.block, blocks := f.blocks, addr := f.addr, job := k
    jid := j.id, period := per, timed := true, write := write, issued := 0, ends := 0 }

/-- The read-out that a CH_WRITE stores, 64 cycles after it began (R242). (DEDUCED, log entry 46) -/
def State.outFor (s : State) (f : Flight) : Option ReadOut :=
  match s.rills[f.rill].desc f.job f.slot with
  | none => none
  | some d =>
    if d.op != 2 || !d.open_ || d.addr + 64 * f.block != f.addr then none
    else d.outs.find? fun o => o.block == f.block && o.bytes.length == 64 * f.blocks && decide (o.began + 64 ≤ s.clk.raw)

/-- The controller uses neither the command bus nor a bank, for a slipped entry (R205). -/
def Chan.clear (now : Nat) (bank : Option (Fin 16)) (c : Chan) : Bool :=
  c.slip == 0 || (decide (c.cmdFree ≤ now) && match bank with
    | none => true
    | some b => !(c.banks[b]).ctl || decide ((c.banks[b]).busyTo ≤ now))

/-- BANKSLOT of a CH_REFRESH (R201). -/
def refreshBank (e : Entry) : Fin 16 := Fin.ofNat 16 (bits (wordAt e.words 0) 3 0)

/-- May an entry of a channel that is due issue: a read or write with bus and tag, a write with its read-out made, a retry slot with the
bus, and a slipped entry where the controller works on nothing that it needs (R202, R205, R210, R242)? -/
def State.chanReady (s : State) (ch : Fin 128) (k : Fin 12) (j : Job) (per op : Nat) (e : Entry) : Bool :=
  let c := s.chans[ch]
  let now := s.clk.raw
  let f := accessOf e k j per (op == 2)
  if op == 1 then s.busReady ch && c.clear now (some (bankOf f.addr))
  else if op == 2 then s.busReady ch && c.clear now (some (bankOf f.addr)) && (s.outFor f).isSome
  else if op == 3 then c.clear now (some (refreshBank e))
  else decide (c.busFree ≤ now) && c.clear now none

/-- The fields of an entry keep the rules that admission checks. -/
def chanFormOk (ch op : Nat) (e : Entry) : Bool :=
  if op ≤ 2 then accessOk ch e else if op == 3 then headerOk e && bits (wordAt e.words 0) 31 4 == 0 else headerOk e

/-- A channel entry issues in its stated cycle plus slip (R52, R56, R205): it is the next one of its job's CHAN_TT, waits for no other
job's, and is ready; held otherwise. An entry found in its stated cycle in a lot that another job claims is a MANIFEST event
(R52). (DEDUCED, log entry 27) -/
def issueChan (ch : Fin 128) (op : Nat) (e : Entry) (run : Fin 12 → Job → Nat → State → State) (s : State) : State :=
  match statedFirst ((s.chanHeads ch).filter fun x => x.2.2.1 == op && x.2.2.2.1 == e) with
  | none => s
  | some (k, j, x) =>
    let g := chanStated j x
    match reachGrid (g + s.chans[ch].slip) s with
    | none => s
    | some t =>
      let t := serveSlot ch t
      if !t.phyOn ch || !chanFormOk ch.1 op e then s
      else if t.chanWaits ch k g then (if g == t.grid && (t.lotNow ch).isSome then manifestEvent k t else s)
      else if !t.chanReady ch k j x.2.2 op e then s
      else run k j x.2.2 (modChan ch (fun c => { c.issues j.id with holding := false, permitted := false }) t)

/-- CH_READ (R200 to R202, R210, R278, R314): the read takes the bus and a tag. -/
def execChRead (ch : Fin 128) (e : Entry) (s : State) : Host.Outcome State Fault Refusal :=
  .next (issueChan ch 1 e (fun k j per s =>
    let f := accessOf e k j per false
    takeBus ch s.clk.raw { f with
      data := s.readData f, zero := (s.place j per f.addr).isNone, slipless := s.chans[ch].slip == 0 } s) s)

/-- A write takes the bus (R199, R210): its bytes are in DRAM, its descriptor has that much less to write. -/
def writeOut (ch : Fin 128) (j : Job) (f : Flight) (o : ReadOut) (s : State) : State :=
  let s := match s.place j f.period f.addr with
    | none => s
    | some a => putDram a o.bytes s
  let s := modDesc f.rill f.job f.slot (fun d => { d with
    outs := d.outs.erase o
    written := d.written + f.blocks
    ends := max d.ends (s.chans[ch].endOf s.clk.raw f) }) s
  takeBus ch s.clk.raw { f with write := true } s

/-- CH_WRITE (R199, R200, R242, R278). -/
def execChWrite (ch : Fin 128) (e : Entry) (s : State) : Host.Outcome State Fault Refusal :=
  .next (issueChan ch 2 e (fun k j per s =>
    let f := accessOf e k j per true
    match s.outFor f with
    | none => s
    | some o => writeOut ch j f o s) s)

/-- One REFpb of a bank (R200, R230): the command bus for a cycle, the bank for 140. -/
def refreshed (ch : Fin 128) (b : Fin 16) (ctl : Bool) (s : State) : State :=
  modChan ch (fun c => { c with
    refCnt := c.refCnt + 1
    cmdFree := max c.cmdFree (s.clk.raw + 1)
    banks := setV c.banks b { busyTo := max s.clk.raw (c.banks[b]).busyTo + 140, ctl := ctl } }) s

/-- CH_REFRESH (R200, R203, R204): one REFpb. -/
def execChRefresh (ch : Fin 128) (e : Entry) (s : State) : Host.Outcome State Fault Refusal :=
  .next (issueChan ch 3 e (fun _ _ _ s => refreshed ch (refreshBank e) false s) s)

/-! ### Retries -/

/-- CH_RETRY (R212 to R214): a slot of 160 bus cycles; the oldest failed read of its job that failed before is issued again
where it fits, otherwise the slot passes unused. -/
def execChRetry (ch : Fin 128) (e : Entry) (s : State) : Host.Outcome State Fault Refusal :=
  .next (issueChan ch 4 e (fun k _ _ s =>
    let now := s.clk.raw
    modChan ch (fun c => { c with busFree := max c.busFree (now + 160) })
      (serveSlot ch (modChan ch (fun c => { c with retrySlot := some (k, now) }) s))) s)

/-- May the controller issue a failed read again now (R213, R248)? A timed one in the reserve once no lot of its job is
left in the beat; an arbitrated one outside claimed lots, or where its bus cycles fit into the last 160 cycles of its own job's. -/
def State.retryNow (s : State) (ch : Fin 128) (f : Flight) : Bool :=
  decide (f.failedAt < s.clk.raw) &&
  if f.timed then
    match s.job f.job with
    | none => false
    | some j =>
      decide (s.reserveAt ≤ s.clk.cyc) && (s.lotNow ch).isNone && !j.lots.any fun l =>
        l.chan == ch.1 && l.beat == j.beatAt s.clk.beat && decide (s.clk.cyc < (l.lot + 1) * 1000 + s.chans[ch].slip)
  else
    let own := if f.ofRill then some f.job else none
    if own.isSome && s.lotNow ch == own then decide (840 ≤ s.clk.cyc % 1000 ∧ s.clk.cyc % 1000 + busCycles f.blocks ≤ 1000)
    else (s.lotNow ch).isNone && (!s.barred own (s.lotNext ch) || decide (400 < 1000 - s.clk.cyc % 1000))

/-- The failed read that the controller issues again first. -/
def State.toRetry (s : State) (ch : Fin 128) : Option Flight := s.chans[ch].failed.find? fun f => s.stands f && s.retryNow ch f

/-- A retry of the controller: in a claimed lot it uses up the lot's one retry slot (R248). -/
def retryIn (ch : Fin 128) (f : Flight) (s : State) : State :=
  let t := reissue ch s.clk.raw f s
  if (s.lotNow ch).isNone then t
  else modChan ch (fun c => { c with busFree := max c.busFree (s.clk.raw + (1000 - s.clk.cyc % 1000)) }) t

/-- CONTROLLER_RETRY (R213). -/
def controllerRetry (ch : Fin 128) (s : State) : State :=
  if !s.phyOn ch || !s.busReady ch then s
  else match s.toRetry ch with
    | none => s
    | some f => retryIn ch f s

/-- CONTROLLER_RETRY (R213). -/
def execControllerRetry (ch : Fin 128) (s : State) : Host.Outcome State Fault Refusal := .next (controllerRetry ch s)

/-! ### ECC (R196 to R198) -/

/-- The address in DRAM of a flight's line: of a rill's access where its job's list or frame puts it (R278, R314). -/
def State.flightAt (s : State) (f : Flight) : Nat :=
  if f.ofRill then ((s.job f.job).bind fun j => s.place j f.period f.addr).getD f.addr else f.addr

/-- ECC_CHECK_DONE (R197, R198, R210, R213, R215): the check of a read ends; of a rill, a fetch or an extent copy. (DESIGN CHOICE, log
entry 33) (DEDUCED, log entry 43) -/
def eccCheckDone (ch : Fin 128) (i : Fin 64) (errs : List SymErr) (s : State) : State :=
  match s.chans[ch].slots[i] with
  | none => s
  | some f =>
    if f.write || f.own || f.checked then s
    else
      atCycle (f.ends + 15) (serveSlot ch s) fun s =>
        let errs := if f.zero then [] else errs
        let a := s.flightAt f
        let rs := (List.range f.blocks).map (eccOf (lineNo a) f.data errs)
        if rs.any (· == .bad) then
          if f.retried then
            let s := modChan ch (fun c => { c with
              slots := setV c.slots i (some { f with checked := true, data := flipped errs f.data })
              failCnt := satInc c.failCnt }) s
            let s := { s with mem := { s.mem with secondFail := satInc s.mem.secondFail, ueAddr := BitVec.ofNat 40 (lineOf a) } }
            let k := s.flightJob f
            unprove k f.period (raiseFault 6 ch.1 (lineOf a) k s)
          else
            freeTag ch i (modChan ch (fun c => { c with failed := c.failed ++ [{ f with failedAt := s.clk.raw }] }) s)
        else
          modChan ch (fun c => { c with
            slots := setV c.slots i (some { f with checked := true, data := delivered rs errs f.data })
            ceCnt := if rs.any BlockEcc.corrects then satInc c.ceCnt else c.ceCnt }) s

/-- ECC_CHECK_DONE (R198). -/
def execEccCheckDone (ch : Fin 128) (i : Fin 64) (errs : List SymErr) (s : State) : Host.Outcome State Fault Refusal :=
  .next (eccCheckDone ch i errs s)

/-! ### The controller's own work -/

/-- The multiplier of a refresh need or of a REFRESH_MULT (R204). -/
def refreshFactor (n : Nat) : Nat := if n = 0 then 1 else if n = 1 then 2 else 4

/-- The multiplier at which the controller itself refreshes in the present lot: the need in an unclaimed lot, the job's REFRESH_MULT in a
BACKGROUND job's; in another lot the timetable refreshes (R204, R248). -/
def State.ownRefresh (s : State) (ch : Fin 128) : Option Nat :=
  match s.lotNow ch with
  | none => some (refreshFactor s.con.need.toNat)
  | some k => if s.background k then (s.job k).map (fun j => refreshFactor j.hdr.refreshMult) else none

/-- Bank slot of command k of the refresh of lot n at multiplier m (R203). -/
def refreshSlot (m n k : Nat) : Nat := (5 * n + k % 5 + 16 / m * (k / 5)) % 16

/-- CONTROLLER_REFRESH (R203 to R205, R248): the next REFpb of the present lot, once its bank and the command bus are free: in order, at
least 4 cycles after the one before, and no later than cycle 859 of the lot; none while the device is parked (R225). (DESIGN CHOICE,
log entry 33) -/
def controllerRefresh (ch : Fin 128) (s : State) : State :=
  let n := s.clk.cyc / 1000
  let lot := s.clk.beat * 250 + n + 1
  let c := s.chans[ch]
  let k := if c.refLot == lot then c.refK else 0
  match s.ownRefresh ch with
  | none => s
  | some m =>
    let b : Fin 16 := Fin.ofNat 16 (refreshSlot m n k)
    let t := max s.clk.raw (max c.cmdFree (max (c.banks[b]).busyTo (if k = 0 then 0 else c.refAt + 4)))
    if !s.phyOn ch || s.parked || !s.clk.running || decide (5 * m ≤ k) then s
    else if 1000 * n + 859 < s.clk.cyc + (t - s.clk.raw) then s
    else atCycle t s fun s =>
      refreshed ch b true (modChan ch (fun c => { c with refLot := lot, refK := k + 1, refAt := t }) s)

/-- CONTROLLER_REFRESH (R204). -/
def execControllerRefresh (ch : Fin 128) (s : State) : Host.Outcome State Fault Refusal := .next (controllerRefresh ch s)

/-! ### The deadline arbiter (R246 to R251) -/

/-- A request of the dated class that waits at a channel. -/
inductive Dated where
  | stream (n : Fin 24) (w : SlotWrite)
  | radio (e : Fin 2) (a : Nat)
  | rill (r : Fin 32) (q : Request)
  deriving DecidableEq, Repr

/-- Blocks of n bytes. -/
def blocksOf (n : Nat) : Nat := (n + 63) / 64

/-- The dated requests that wait at a channel, with DUE, whether or not they are eligible: streams, then radio engines,
then rills, each kind in ascending number, the order of equal DUEs (R247). -/
def State.datedAt (s : State) (ch : Fin 128) : List (Nat × Dated) :=
  ((List.finRange 24).flatMap fun n => s.sens.ctxs[n].writes.filterMap fun w =>
    match w.posted with
    | none => none
    | some d => if chanOf w.addr == ch.1 then some (d.1, .stream n w) else none) ++
  ((List.finRange 2).filterMap fun e =>
    let r := s.radio[e]
    match r.copying, r.next with
    | true, some m => (m.runs[r.copyPos]?).bind fun x => if chanOf x.1 == ch.1 then some (r.copyDue, .radio e x.1) else none
    | _, _ => none) ++
  ((List.finRange 32).flatMap fun r => (s.rills[r].posted.filter fun q => q.chan == ch).map fun q => (q.due, .rill r q))

/-- The access of an arbitrated request. -/
def requestFlight (s : State) (r : Fin 32) (q : Request) : Option Flight :=
  match s.job q.job, s.rills[r].desc q.job q.slot with
  | some j, some d => some
      { rill := r, slot := q.slot, block := q.block, blocks := q.blocks, addr := q.addr, job := q.job, jid := j.id
        period := d.period, timed := false, write := q.write, issued := 0, ends := 0 }
  | _, _ => none

/-- The grid cycle in which a dated request was posted: it may be granted from the next one on (R247). -/
def State.postedAt (s : State) (x : Dated) : Nat :=
  match x with
  | .stream _ w => (w.posted.map (·.2)).getD s.grid
  | .radio e _ => s.radio[e].copyAt
  | .rill _ q => q.posted

/-- May a dated request be granted now (R206, R247 to R249, R290)? -/
def State.mayGrant (s : State) (ch : Fin 128) (x : Dated) : Bool :=
  decide (s.postedAt x < s.grid) &&
  match x with
  | .stream _ w => s.eligible ch none (blocksOf w.bytes.length) && (!s.det.strict || s.windowFree ch)
  | .radio _ _ => s.eligible ch none 15 && (!s.det.strict || s.windowFree ch)
  | .rill r q =>
    s.eligible ch (some q.job) q.blocks && (!s.det.strict || s.lotNow ch == some q.job) &&
    (!q.write || ((requestFlight s r q).bind s.outFor).isSome)

/-- The one of several that comes first: earliest DUE by R322, then the order of the list. -/
def earliest {α : Type} : List (Nat × α) → Option (Nat × α)
  | [] => none
  | x :: xs =>
    match earliest xs with
    | none => some x
    | some y => if earlier y.1 x.1 then some y else some x

/-- An access at an address that is no rill's, fetch's or extent copy's holds the bus and a tag for b blocks. -/
def ownAccess (ch : Fin 128) (a b : Nat) (s : State) : State :=
  takeBus ch s.clk.raw { kind := .own, rill := 0, slot := 0, block := 0, blocks := b, addr := a, job := 0, jid := 0, period := 0
                         timed := false, write := false, issued := 0, ends := 0 } s

/-- A granted rill request issues (R249, R250). -/
def grantRill (ch : Fin 128) (r : Fin 32) (q : Request) (s : State) : State :=
  match requestFlight s r q, s.job q.job with
  | some f, some j =>
    let s := modRill r (fun x => { x with
      posted := x.posted.erase q
      grants := (s.grid, inCycle s.grid x.grants + 1)
      lateCnt := if q.due < s.grid + 401 then satInc x.lateCnt else x.lateCnt }) s
    if q.write then
      match s.outFor f with
      | none => s
      | some o => writeOut ch j f o s
    else takeBus ch s.clk.raw { f with data := s.readData f, zero := (s.place j f.period f.addr).isNone } s
  | _, _ => s

/-- A read of whole blocks for a fetch or an extent copy issues. -/
def readAccess (ch : Fin 128) (kind : FlightKind) (block a b : Nat) (k : Fin 12) (id : BitVec 8) (s : State) : State :=
  takeBus ch s.clk.raw { kind := kind, rill := 0, slot := 0, block := block, blocks := b, addr := a, job := k, jid := id, period := 0
                         timed := false, write := false, issued := 0, ends := 0, data := s.dramBytes a (64 * b) } s

/-- A granted request is carried out. -/
def grant (ch : Fin 128) (x : Dated) (s : State) : State :=
  match x with
  | .stream n w => ownAccess ch w.addr (blocksOf w.bytes.length) (streamGranted n w s)
  | .radio e a => copyGranted e (readAccess ch (.radio e) s.radio[e].copyPos (lineOf a) 15 0 0 s)
  | .rill r q => grantRill ch r q s

/-- The reads of timetable fetches that wait at a channel, with DUE (R232, R238). -/
def State.fetchesAt (s : State) (ch : Fin 128) : List (Nat × Fetch × Nat × Nat) :=
  s.mem.fetches.flatMap fun x => (x.lines.filter fun l => chanOf l.1 == ch.1).map fun l => (x.due, x, l)

/-- A read of a fetch is granted. -/
def grantFetch (ch : Fin 128) (x : Fetch) (l : Nat × Nat) (s : State) : State :=
  readAccess ch (.fetch x.kind) 0 l.1 l.2 x.job x.jid (modFetch x.kind x.jid (fun y => { y with lines := y.lines.erase l }) s)

/-! ### Load writes (R219, R221) -/

/-- A load runs. -/
def MemSys.loading (m : MemSys) : Bool := m.loadState == 1

/-- The queue that serves a record: one for each model-store device, one for the ZERO records (R219). -/
def LoadRec.queue (r : LoadRec) : Nat := if r.image then b2n r.device else 2

/-- Record n is being written: it is not done, and every earlier one of its queue is. -/
def MemSys.writing (m : MemSys) (n : Nat) : Bool :=
  match m.loadList[n]? with
  | none => false
  | some r => m.loading && !m.loadDone.getD n true &&
      (m.loadList.take n).zipIdx.all fun x => x.1.queue != r.queue || m.loadDone.getD x.2 true

/-- The part of line i of a record on a channel, address and bytes; none past the record's last line there. -/
def LoadRec.line (ch i : Nat) (r : LoadRec) : Option (Nat × Nat) :=
  let h := if 64 ≤ ch then highHalf else 0
  let lo := max r.base h
  let hi := if 64 ≤ ch then r.base + r.len else min (r.base + r.len) highHalf
  let first := (lo - h) / 960
  let a := h + 960 * (first + (ch % 64 + 64 - first % 64) % 64 + 64 * i)
  if a < hi && lo < hi then some (max lo a, min hi (a + 960) - max lo a) else none

/-- Lines of a record that a channel has written. -/
def Chan.loadedLines (n : Nat) (c : Chan) : Nat := ((c.loadPos.find? (·.1 == n)).map (·.2)).getD 0

/-- The load write that waits at a channel: record, address, bytes. -/
def State.loadAt (s : State) (ch : Fin 128) : Option (Nat × Nat × Nat) :=
  ((List.range s.mem.loadList.length).filter s.mem.writing).findSome? fun n =>
    (s.mem.loadList[n]?).bind fun r => (r.line ch.1 (s.chans[ch].loadedLines n)).map fun x => (n, x.1, x.2)

/-- DRAM with part of a record written: the bytes of its blocks of the model store, or zeros. -/
def storedPart (r : LoadRec) (a n : Nat) (m : MemSys) : Memory :=
  if r.image then Cells.blit m.dram (m.store[if r.device then (1 : Fin 2) else 0]) a (r.lba * 4096 + (a - r.base)) n
  else Cells.clear m.dram a n

/-- A load write is granted (R221, R229): the line is written and counted. (DEDUCED, log entry 30) -/
def grantLoad (ch : Fin 128) (n a len : Nat) (s : State) : State :=
  match s.mem.loadList[n]? with
  | none => s
  | some r =>
    let s := modChan ch (fun c => { c with loadPos := (n, c.loadedLines n + 1) :: c.loadPos.filter (·.1 != n) }) s
    ownAccess ch a (blocksOf (a % 64 + len)) { s with mem := { s.mem with
      dram := storedPart r a len s.mem
      loadLeft := s.mem.loadLeft.set n (s.mem.loadLeft.getD n 0 - len)
      loadBytes := s.mem.loadBytes + BitVec.ofNat 64 len } }

/-! ### Grants -/

/-- ARBITER_GRANT (R206, R232, R238, R247 to R251, R290): the controller's retries go first, then timetable fetches, then the dated
requests, then, while none of those waits, a load write. (DEDUCED, log entry 31) -/
def arbiterGrant (ch : Fin 128) (s : State) : State :=
  if !s.phyOn ch || !s.busReady ch then s
  else
    match (s.toRetry ch).filter (fun f => !f.timed) with
    | some f => retryIn ch f s
    | none =>
      match earliest ((s.fetchesAt ch).filter fun x => decide (x.2.1.posted < s.grid) && s.eligible ch none x.2.2.2) with
      | some x => grantFetch ch x.2.1 x.2.2 s
      | none =>
        match earliest ((s.datedAt ch).filter fun x => s.mayGrant ch x.2) with
        | some x => grant ch x.2 s
        | none =>
          match s.loadAt ch with
          | none => s
          | some (n, a, len) =>
            if (s.datedAt ch).isEmpty && s.eligible ch none 15 && (!s.det.strict || (s.windowJob s.clk.beat).isNone) then
              grantLoad ch n a len s
            else s

/-- ARBITER_GRANT (R247). -/
def execArbiterGrant (ch : Fin 128) (s : State) : Host.Outcome State Fault Refusal := .next (arbiterGrant ch s)

/-- ARB_REQUEST (R246, R249, R311): the requester posts its next request. A radio engine's extent copy posts its lines by
itself, one after the other, from the start of the copy on (R384). (DESIGN CHOICE, log entry 42) -/
def execArbRequest (q : Requester) (s : State) : Host.Outcome State Fault Refusal :=
  .next (match q with
    | .stream n => postStream n s
    | .radio _ => s
    | .rill r => postRill r s)

/-- The scrub has already read a line of the channel in the present lot (R217). -/
def State.lotScrubbed (s : State) (ch : Fin 128) : Bool := decide (s.clk.raw + 240 ≤ s.chans[ch].scrubEnd + s.clk.cyc % 1000)

/-- Something else waits at a channel (R217, R232): a retry, a fetch, a dated request, a load write. -/
def State.waitsAt (s : State) (ch : Fin 128) : Bool :=
  (s.chans[ch].failed.any fun f => s.stands f && !f.timed) || (s.toRetry ch).isSome || !(s.fetchesAt ch).isEmpty || !(s.datedAt ch).isEmpty ||
  (s.loadAt ch).isSome

/-- PATROL_SCRUB (R217, R290): the next line of the channel is read and rewritten as one access in an unclaimed lot, while nothing else
waits there. -/
def patrolScrub (ch : Fin 128) (errs : List SymErr) (s : State) : State :=
  if !s.phyOn ch || s.parked || !s.busReady ch || (s.lotNow ch).isSome || !s.eligible ch none 15 || s.waitsAt ch ||
      s.lotScrubbed ch || (s.det.strict && (s.windowJob s.clk.beat).isSome) then s
  else
    let n := s.chans[ch].scrub.toNat
    let a := lineAddr ch.1 n
    let data := s.dramBytes a 960
    let rs := (List.range 15).map (eccOf n data errs)
    let s := modChan ch (fun c => { c with
      scrub := c.scrub + 1
      scrubEnd := s.clk.raw + 240
      ceCnt := if rs.any BlockEcc.corrects then satInc c.ceCnt else c.ceCnt }) (ownAccess ch a 31 s)
    if rs.any (· == .bad) then
      raiseFault 7 ch.1 a none { s with mem := { s.mem with scrubUe := satInc s.mem.scrubUe, ueAddr := BitVec.ofNat 40 a } }
    else if errs.isEmpty then s
    else putDram a (delivered rs errs data) s

/-- PATROL_SCRUB (R217). -/
def execPatrolScrub (ch : Fin 128) (errs : List SymErr) (s : State) : Host.Outcome State Fault Refusal :=
  .next (patrolScrub ch errs s)

end Sys2Proof.Machine
end

