-- ==== Sys2Proof/Machine/Load.lean ====
section
/-! DEFINITION. Loads of the model store and the parked standby (R218 to R227). The lines of a load reach DRAM as the arbiter grants
them. -/

namespace Sys2Proof.Machine

/-- A record of a load list (R219), with whether its fields keep the table. -/
def parseLoad (bs : List Byte) : LoadRec × Bool :=
  let w (k : Nat) : Nat := wordOf bs k
  let zero := bitOf (w 0) 0
  let r : LoadRec :=
    { device := bitOf (w 0) 1, image := !zero, lba := w 1 + 2 ^ 32 * w 2, base := w 3 + 2 ^ 32 * bits (w 4) 7 0
      len := w 5 + 2 ^ 32 * w 6 }
  (r, bits (w 0) 31 2 == 0 && !(zero && r.device) && r.base % 4096 == 0 && bits (w 4) 31 8 == 0 && r.len % 4096 == 0 &&
    r.len != 0 && w 7 == 0)

/-- The records of a load list in the data window. -/
def parseLoads (n : Nat) (bs : List Byte) : List (LoadRec × Bool) :=
  (List.range n).map fun i => parseLoad ((bs.drop (32 * i)).take 32)

/-- Does a list of ranges hold two that meet? -/
def overlapping : List (Nat × Nat) → Bool
  | [] => false
  | x :: xs => xs.any (fun y => meets x.1 x.2 y.1 y.2) || overlapping xs

/-- Does a range meet the ring of an enabled stream context (R307)? -/
def State.meetsRing (s : State) (a n : Nat) : Bool :=
  s.sens.ctxs.toList.any fun c => c.enable && meets a n c.base.toNat ((c.slotsM1.toNat + 1) * c.pages.toNat * 983040)

/-- Does a range meet a record of the running load? -/
def State.meetsLoad (s : State) (a n : Nat) : Bool := s.mem.loading && s.mem.loadList.any fun r => meets a n r.base r.len

/-- The cause for which a load is refused as a whole, 0 for none (R220). -/
def loadCause (s : State) (rs : List (LoadRec × Bool)) : Nat :=
  let recs := rs.map (·.1)
  let left := s.mem.extents.filter fun x => !recs.any fun r => meets x.base x.len r.base r.len
  if rs.any (fun r => !r.2) || recs.any (fun r => decide (s.part.dramBytes < r.base + r.len)) ||
      recs.any (fun r => r.image && decide (Config.storeBlocks (b2n r.device) < r.lba + r.len / 4096)) then 1
  else if overlapping (recs.map fun r => (r.base, r.len)) || recs.any (fun r => s.meetsJob r.base r.len || s.meetsRing r.base r.len) then 2
  else if 512 < left.length + (recs.filter (·.image)).length then 6
  else if s.parked then 5
  else 0

/-- The LOAD record (R472). -/
def emitLoad (s : State) : State :=
  emit { kind := 9 } (wordBytes s.memLoadStatus ++ natLE 8 s.mem.loadBytes.toNat) s

/-- The lowest index of a record not yet fully written (R229). -/
def MemSys.nextRecord (m : MemSys) : Nat := (m.loadDone.findIdx? (!·)).getD m.loadDone.length

/-- RECORD follows the records written, in the backup domain too (R223, R229). -/
def MemSys.showRecord (m : MemSys) : MemSys :=
  let n := BitVec.ofNat 10 m.nextRecord
  { m with loadRecord := n, parkRecord := n }

/-- A load starts, or is refused with a LOAD record (R219 to R221, R223). -/
def startLoad (n : Nat) (s : State) : State :=
  let rs := parseLoads n (Cells.gets 0 s.host.window 0 (32 * n))
  let recs := rs.map (·.1)
  let c := loadCause s rs
  if c = 0 then
    { s with
      chans := s.chans.map fun c => { c with loadPos := [] }
      mem := MemSys.showRecord { s.mem with
        loadState := 1, loadCause := 0, loadBytes := 0, loadActive := true
        loadList := recs
        loadDone := List.replicate n false
        loadLeft := recs.map fun r => r.len
        extents := s.mem.extents.filter fun x => !recs.any fun r => meets x.base x.len r.base r.len } }
  else emitLoad { s with mem := { s.mem with loadState := 3, loadCause := BitVec.ofNat 4 c, loadRecord := 0 } }

/-- LOAD_RECORD_DONE (R221): every line of a record has been written; an IMAGE enters the extent table with its digest; the last
record ends the load. (DEDUCED, log entry 30) -/
def loadRecordDone (n : Nat) (s : State) : State :=
  match s.mem.loadList[n]? with
  | none => s
  | some r =>
    if !s.mem.writing n || s.mem.loadLeft.getD n 1 != 0 then s
    else
      let x : ImgExt := { base := r.base, len := r.len, digest := sha3 (Cells.gets 0 s.mem.dram r.base r.len) }
      let m := { s.mem with
        loadDone := s.mem.loadDone.set n true
        extents := if r.image then s.mem.extents ++ [x] else s.mem.extents }
      if m.loadDone.all (fun d => d) then
        emitLoad { s with mem := { m with loadState := 2, loadActive := false, loadRecord := BitVec.ofNat 10 m.loadList.length } }
      else { s with mem := m.showRecord }

/-- LOAD_RECORD_DONE (R221). -/
def execLoadRecordDone (n : Fin 512) (s : State) : Host.Outcome State Fault Refusal := .next (loadRecordDone n.1 s)

/-- UFS_ERROR (R223): the load fails at the record; the lines written so far are left as they fell. (DEDUCED, log entry 30) -/
def ufsError (n : Nat) (s : State) : State :=
  if !s.mem.writing n || !((s.mem.loadList[n]?).any (·.image)) then s
  else
    emitLoad { s with mem := { s.mem with loadState := 3, loadCause := 3, loadRecord := BitVec.ofNat 10 n, loadActive := false } }

/-- UFS_ERROR (R223). -/
def execUfsError (n : Fin 512) (s : State) : Host.Outcome State Fault Refusal := .next (ufsError n.1 s)

/-- May the device be parked now (R224)? -/
def State.canPark (s : State) : Bool :=
  !s.mem.loading && s.sens.ctxs.toList.all (fun c => !c.enable) && s.radio.toList.all (fun r => r.manState % 2 == 0)

/-- A park (R224): one REFab to both ranks of every channel, which is counted; the extent table is retained and PARK_VALID set; the domains go off at the next boundary (R419). -/
def park (s : State) : State :=
  { s with
    chans := s.chans.mapIdx fun i c => if s.hasChan i then { c with refCnt := c.refCnt + 2 } else c
    mem := { s.mem with parkValid := true, retained := s.mem.extents } }

end Sys2Proof.Machine
end

