-- ==== Sys2Proof/Machine/Insn.lean ====
section
/-! DEFINITION. Instruction mode of the vector engine (R137 to R140, R157): the instruction block and its instructions. -/

namespace Sys2Proof.Machine

/-- Word 0 of an instruction (R138). -/
def vopWord (o : VOp) (opc : Nat) : Word :=
  packW [(opc, 0), (o.vd.1, 8), (o.va.1, 13), (o.vb.1, 18), (o.dfmt.toNat, 23), (b2n o.aint, 25), (b2n o.bint, 26), (o.zero.toNat, 27)]

/-- Two-word instructions of a payload. -/
def insnPairs : List Word → List (Word × Word)
  | a :: b :: rest => (a, b) :: insnPairs rest
  | _ => []

/-- First bit of word 1 that must be zero, by OPC (R139). -/
def insnZeroFrom (opc : Nat) : Nat :=
  if opc = 0x09 then 3
  else if opc = 0x0A ∨ opc = 0x11 then 2
  else if opc = 0x0B ∨ opc = 0x0D then 32
  else if opc = 0x0C then 6
  else if opc = 0x0E then 7
  else if opc = 0x0F ∨ opc = 0x10 then 16
  else 0

/-- The reserved bits and the fields of an instruction that R138 and R139 bound (R532). -/
def insnRules (x : Word × Word) : Bool :=
  let a := x.1.toNat
  let b := x.2.toNat
  let opc := bits a 7 0
  let d := bits a 24 23
  !opcListed opc ||
  (bits a 31 27 == 0 && d != 3 && decide (b < 2 ^ insnZeroFrom opc) &&
   (opc != 0x04 || d != 2) && (opc != 0x09 || bits b 2 0 != 7) && (opc != 0x14 || d == 0) &&
   (opc != 0x0A || (match codeFmt (bits b 1 0), laneFmt d with | some q, some f => quantOk q f | _, _ => false)) &&
   ((opc != 0x0D && opc != 0x0E) || (fmtOf (bits b 6 4)).isSome))

/-- What a block appends: the VSTBs of each basin (R175). -/
def insnNeeds (xs : List (Word × Word)) : List (Fin 16 × Nat) :=
  needs (xs.filterMap fun x =>
    if bits x.1.toNat 7 0 = 0x0E then
      some (basinNo (bits x.2.toNat 3 0), 64 * ((fmtOf (bits x.2.toNat 6 4)).getD .f32).size)
    else none)

/-- What the sequencer finds of a VEC_INSN. -/
def insnCheck (u : UnitIdx) (e : Entry) (s : State) : Ready :=
  let c := s.cores[u]
  let xs := insnPairs e.words
  checks [
    waits 1 (c.vecFree s.clk.raw),
    must (headerOk e && !xs.isEmpty && xs.all insnRules && appendRules c (insnNeeds xs)),
    waits 3 (spaceFor s.clk.raw c (insnNeeds xs))]

/-- An instruction block begins (R133, R137, R158). -/
def startInsn (u : UnitIdx) (e : Entry) (up : SramUpset) (w : Work) (s : State) : State :=
  let s := upsetPad u w up s
  let xs := insnPairs e.words
  let v : VecEntry :=
    { op := 9, entry := e, issued := s.clk.raw, len := xs.length, job := w.job, period := w.period, saved := s.cores[u].vec.v
      left := xs, count := xs.length, reserved := insnNeeds xs, slipless := s.onTime e }
  beginVec u v .insn s

/-- VEC_INSN (R133, R134, R137, R138, R406). -/
def execVecInsn (u : UnitIdx) (e : Entry) (up : SramUpset) (s : State) : Host.Outcome State Fault Refusal :=
  .next (issueEntry u 9 e (insnCheck u e) (startInsn u e up) s)

/-! ### Instructions -/

/-- An instruction issues when it is the next one of the block in progress: it pauses, breaks a rule, or has its effect. -/
def issueInsn (opc : Nat) (u : UnitIdx) (o : VOp) (w : Word) (chk : Core → VecEntry → Nat → Ready)
    (run : Core → VecEntry → State → State) (s : State) : State :=
  match s.cores[u].vec.entry with
  | none => s
  | some v =>
    if v.op != 9 || v.left.head? != some (vopWord o opc, w) || s.cores[u].vec.draining.isSome then s
    else
      atCycle v.issueAt s fun s1 =>
        let s2 := settleCore u s1
        let k : Work := { job := v.job, period := v.period }
        match chk s2.cores[u] v s2.clk.raw with
        | .hold _ => s
        | .bad => manifestAt u k (popInsn u s2)
        | .go => popInsn u (run s2.cores[u] v s2)

/-- The lanes of a register, read as INT32 or FP32 (R138). -/
def Core.lanes (c : Core) (r : Fin 32) (int : Bool) : List Num := (c.vec.v[r]).toList.map (laneValue int)

/-- A register from 64 words, the rest zero. -/
def regOf (ws : List Word) : Vector Word 64 := Vector.ofFn fun l => ws.getD l.1 0

/-- A register written. -/
def setReg (u : UnitIdx) (r : Fin 32) (ws : List Word) (s : State) : State :=
  modVec u (fun k => { k with v := setV k.v r (regOf ws) }) s

/-- Flags that the entry will set when it commits. (DEDUCED, log entry 24) -/
def noteFlags (u : UnitIdx) (f : VecFlags) (s : State) : State := modEntry u (fun v => { v with flags := joinFlags v.flags f }) s

/-- Values of a lane format written to VD, with the flags found (R135). -/
def setLanes (u : UnitIdx) (o : VOp) (f : Fmt) (r : Flagged (List Num)) (s : State) : State :=
  noteFlags u r.2 (setReg u o.vd (r.1.map fun x => BitVec.ofNat 32 (f.lane x).code) s)

/-- An instruction that computes VD from its registers by f, given the destination format. -/
def computeInsn (opc : Nat) (u : UnitIdx) (o : VOp) (w : Word) (f : Fmt → List Num → List Num → Flagged (List Num)) :
    State → State :=
  issueInsn opc u o w (fun _ _ _ => must (insnRules (vopWord o opc, w))) fun c _ s =>
    match laneFmt o.dfmt.toNat with
    | none => s
    | some d => setLanes u o d (f d (c.lanes o.va o.aint) (c.lanes o.vb o.bint)) s

/-- A binary operation on every lane. -/
def binInsn (opc : Nat) (b : BinOp) (u : UnitIdx) (o : VOp) (w : Word) : State → State :=
  computeInsn opc u o w fun d xs ys => mapF (fun p => binF b d p.1 p.2) (xs.zip ys)

/-- A reduction of each half of 32 lanes into its lane 0; the other lanes are +0 (R139). -/
def halves (f : List Num → Flagged Num) (xs : List Num) : Flagged (List Num) :=
  andThen (f (xs.take 32)) fun a => andThen (f (xs.drop 32)) fun b =>
    plain ((a :: List.replicate 31 (.zero false)) ++ (b :: List.replicate 31 (.zero false)))

/-- VADD (R139). -/
def execVadd (u : UnitIdx) (o : VOp) (w : Word) (s : State) : Host.Outcome State Fault Refusal := .next (binInsn 0x01 .add u o w s)

/-- VSUB (R139). -/
def execVsub (u : UnitIdx) (o : VOp) (w : Word) (s : State) : Host.Outcome State Fault Refusal := .next (binInsn 0x02 .sub u o w s)

/-- VMUL (R139). -/
def execVmul (u : UnitIdx) (o : VOp) (w : Word) (s : State) : Host.Outcome State Fault Refusal := .next (binInsn 0x03 .mul u o w s)

/-- VDIV (R139): not to INT32. -/
def execVdiv (u : UnitIdx) (o : VOp) (w : Word) (s : State) : Host.Outcome State Fault Refusal := .next (binInsn 0x04 .div u o w s)

/-- VMAX (R139). -/
def execVmax (u : UnitIdx) (o : VOp) (w : Word) (s : State) : Host.Outcome State Fault Refusal := .next (binInsn 0x05 .max u o w s)

/-- VMIN (R139). -/
def execVmin (u : UnitIdx) (o : VOp) (w : Word) (s : State) : Host.Outcome State Fault Refusal := .next (binInsn 0x06 .min u o w s)

/-- VRELU (R139). -/
def execVrelu (u : UnitIdx) (o : VOp) (w : Word) (s : State) : Host.Outcome State Fault Refusal :=
  .next (computeInsn 0x07 u o w (fun d xs _ => mapF (fun x => rnd d x.isFin (reluNum x)) xs) s)

/-- VCVT (R139). -/
def execVcvt (u : UnitIdx) (o : VOp) (w : Word) (s : State) : Host.Outcome State Fault Refusal :=
  .next (computeInsn 0x08 u o w (fun d xs _ => mapF (convert d) xs) s)

/-- VFUNC (R136, R139). -/
def execVfunc (u : UnitIdx) (o : VOp) (w : Word) (s : State) : Host.Outcome State Fault Refusal :=
  .next (computeInsn 0x09 u o w (fun d xs _ =>
    match funcOf (bits w.toNat 2 0) with
    | none => plain xs
    | some g => mapF (funcF g d) xs) s)

/-- VQUANT (R139). -/
def execVquant (u : UnitIdx) (o : VOp) (w : Word) (s : State) : Host.Outcome State Fault Refusal :=
  .next (computeInsn 0x0A u o w (fun d xs _ =>
    match codeFmt (bits w.toNat 1 0) with
    | none => plain xs
    | some q => mapF (quantF q d) xs) s)

/-- VBCAST (R139): IMM is INT32 when DFMT is INT32, otherwise FP32. -/
def execVbcast (u : UnitIdx) (o : VOp) (w : Word) (s : State) : Host.Outcome State Fault Refusal :=
  .next (computeInsn 0x0B u o w (fun d _ _ => mapF (convert d) (List.replicate 64 (laneValue (d == .i32) w))) s)

/-- VLDT (R139, R140): pauses until the tile is FULL or READING; the first one of a FULL tile makes it READING. -/
def execVldt (u : UnitIdx) (o : VOp) (w : Word) (s : State) : Host.Outcome State Fault Refusal :=
  let t : Fin 4 := Fin.ofNat 4 (bits w.toNat 1 0)
  .next (issueInsn 0x0C u o w
    (fun c _ now => checks [must (insnRules (vopWord o 0x0C, w)), waits 2 ((c.eng.tiles[t]).readable now)])
    (fun c _ s =>
      let s := modEng u (fun g => { g with tiles := modV g.tiles t fun x => { x with st := .reading } }) s
      setReg u o.vd (Cells.gets 0 (c.eng.tiles[t]).el (64 * bits w.toNat 5 2) 64) s) s)

/-- The bytes that the entry has itself stored to a basin and not committed (R157). -/
def VecEntry.stored (v : VecEntry) (n : Fin 16) : List Byte := (v.writes.stores.filter fun x => x.1 == n).flatMap (·.2)

/-- The element format of a VLDB or VSTB. -/
def memFmt (w : Word) : Fmt := (fmtOf (bits w.toNat 6 4)).getD .f32

/-- VLDB (R139): 64 elements from HEAD plus OFFSET; beyond the filled part it breaks its rule. -/
def execVldb (u : UnitIdx) (o : VOp) (w : Word) (s : State) : Host.Outcome State Fault Refusal :=
  let n := basinNo (bits w.toNat 3 0)
  let f := memFmt w
  let off := bits w.toNat 31 7 * f.size
  let len := 64 * f.size
  .next (issueInsn 0x0D u o w
    (fun c v now =>
      let b := c.basin n
      checks [must (insnRules (vopWord o 0x0D, w) && b.defined && decide (len ≤ b.size)
                && decide (off + len ≤ b.usable now + (v.stored n).length)),
              must (c.readable now b (b.head + off) (min len (b.fill - off)))])
    (fun c v s =>
      let b := c.basin n
      let bs := c.bytes b (b.head + off) (min len (b.fill - off)) ++ (v.stored n).drop (off - b.fill)
      match laneFmt o.dfmt.toNat with
      | none => s
      | some d => setLanes u o d (mapF (convert d) (elementsOf f 64 bs)) s) s)

/-- VSTB (R139, R175): VA converted and kept for the basin's TAIL until the entry commits. -/
def execVstb (u : UnitIdx) (o : VOp) (w : Word) (s : State) : Host.Outcome State Fault Refusal :=
  .next (issueInsn 0x0E u o w (fun _ _ _ => must (insnRules (vopWord o 0x0E, w)))
    (fun c _ s =>
      let r := elementBytes (memFmt w) (c.lanes o.va o.aint)
      noteFlags u r.2 (modEntry u (fun v =>
        { v with writes := { v.writes with stores := v.writes.stores ++ [(basinNo (bits w.toNat 3 0), r.1)] } }) s)) s)

/-- The rule of a cistern address of an instruction (R139). -/
def cistRule (w : Word) : Bool := decide (bits w.toNat 15 0 + 63 ≤ 65535)

/-- VLDC (R139, R157): 64 cistern words, the entry's own pending writes first. -/
def execVldc (u : UnitIdx) (o : VOp) (w : Word) (s : State) : Host.Outcome State Fault Refusal :=
  .next (issueInsn 0x0F u o w (fun _ _ _ => must (insnRules (vopWord o 0x0F, w) && cistRule w))
    (fun c v s => setReg u o.vd ((List.range 64).map fun l => cistAt c.vec.cistern v.writes.cistern (bits w.toNat 15 0 + l)) s) s)

/-- VSTC (R139, R157): VA kept for 64 cistern words until the entry commits. -/
def execVstc (u : UnitIdx) (o : VOp) (w : Word) (s : State) : Host.Outcome State Fault Refusal :=
  .next (issueInsn 0x10 u o w (fun _ _ _ => must (insnRules (vopWord o 0x10, w) && cistRule w))
    (fun c _ s =>
      let ws := (c.vec.v[o.va]).toList.zipIdx.map fun x => (bits w.toNat 15 0 + x.2, x.1)
      modEntry u (fun v => { v with writes := { v.writes with cistern := ws ++ v.writes.cistern } }) s) s)

/-- VRELT (R139, R157): the tile is released when the entry commits. -/
def execVrelt (u : UnitIdx) (o : VOp) (w : Word) (s : State) : Host.Outcome State Fault Refusal :=
  .next (issueInsn 0x11 u o w (fun _ _ _ => must (insnRules (vopWord o 0x11, w)))
    (fun _ _ s => modEntry u (fun v =>
      { v with writes := { v.writes with tiles := v.writes.tiles ++ [Fin.ofNat 4 (bits w.toNat 1 0)] } }) s) s)

/-- VREDMAX (R139). -/
def execVredmax (u : UnitIdx) (o : VOp) (w : Word) (s : State) : Host.Outcome State Fault Refusal :=
  .next (computeInsn 0x12 u o w (fun d xs _ => halves (fun l => rnd d (l.all Num.isFin) (maxAll l)) xs) s)

/-- VREDSUM (R137, R139). -/
def execVredsum (u : UnitIdx) (o : VOp) (w : Word) (s : State) : Host.Outcome State Fault Refusal :=
  .next (computeInsn 0x13 u o w (fun d xs _ => halves (treeSum d) xs) s)

/-- VHAD (R131, R139). -/
def execVhad (u : UnitIdx) (o : VOp) (w : Word) (s : State) : Host.Outcome State Fault Refusal :=
  .next (computeInsn 0x14 u o w (fun _ xs _ =>
    andThen (hadamard (xs.take 32)) fun a => andThen (hadamard (xs.drop 32)) fun b => plain (a ++ b)) s)

end Sys2Proof.Machine
end

