-- ==== Sys2Proof/Machine/Proof.lean ====
section
/-! DEFINITION. Functional safety (chapter 14): the proof slot, golden tiles and reruns (R396 to R402), weir verdicts (R393),
hop parity (R405), fences (R403, R404), proof ages (R398). -/

namespace Sys2Proof.Machine

/-- A core as a unit. -/
def coreUnit (c : Fin 64) : UnitIdx := Fin.castLE (by decide) c

/-- The bits i below 64 with p. -/
def map64 (p : Nat → Bool) : BitVec 64 := (List.range 64).foldl (fun a i => if p i then a ||| BitVec.ofNat 64 (2 ^ i) else a) 0

/-- Is core c fenced? -/
def State.fenced (s : State) (c : Nat) : Bool := s.safe.fence.getLsbD c

/-- The suspect map follows ages, events and fences (R388, R411). -/
def showSuspect (s : State) : State :=
  let k (c : Nat) : CoreSafe := s.safe.cores.toList.getD c {}
  let age (c : Nat) : BitVec 4 := s.safe.ages.toList.getD c 15
  { s with safe := { s.safe with suspect := map64 fun c => ((k c).event.isSome || decide (2 < (age c).toNat)) && !s.fenced c } }

/-- An engine event (R401, R412): it opens, or joins the one that awaits its rerun. -/
def engineEvent (c : Fin 64) (kind : BitVec 3) (s : State) : State :=
  let k := s.safe.cores[c]
  if s.fenced c.1 || k.persistent.isSome then s
  else
    let f := match k.event with | none => s.frame | some e => e.1
    let s := modSafe c (fun k => { k with event := some (k.event.getD (f, kind)) }) s
    showSuspect { s with safe := { s.safe with
      evCore := BitVec.ofNat 7 c.1, evKind := kind, evOutcome := 0, evFrame := BitVec.ofNat 16 f } }

/-- OUTCOME of the last event follows, where it is the core's (R412). -/
def showOutcome (c : Fin 64) (o : BitVec 2) (s : State) : State :=
  if s.safe.evCore.toNat = c.1 then { s with safe := { s.safe with evOutcome := o } } else s

/-- A core becomes persistent (R402, R405): it is fenced at the next boundary. -/
def becomePersistent (c : Fin 64) (code : Nat) (s : State) : State :=
  let s := modSafe c (fun k => { k with event := none, rerun := none, persistent := some code }) s
  showSuspect (showOutcome c 2 { s with safe := { s.safe with persistent := satInc s.safe.persistent } })

/-- A core is proven (R398). -/
def proven (c : Fin 64) (s : State) : State :=
  showSuspect (modSafe c (fun k => { k with proofDirty := false })
    { s with safe := { s.safe with ages := setV s.safe.ages c 0 } })

/-! ### The proof slot -/

/-- The proof slot runs: from READY on, while the compute dies are on (R225, R397). (DEDUCED, log entry 40) -/
def State.proving (s : State) : Bool :=
  s.clk.running && s.proofBeat s.clk.beat && s.dev != .booting && s.dev != .moored && s.dom.uncore != 0

/-- Does a core hold an outstanding entry of a job (R533)? -/
def Core.owes (beat : Nat) (c : Core) : Bool :=
  !c.eng.passes.isEmpty || c.vec.entry.isSome || !c.eng.rerun.isEmpty || c.vec.rerun.isSome || c.seq.put.isSome ||
  c.seq.halves.toList.any fun hs => hs.toList.any fun h => decide (h.beat < beat) && !h.entries.isEmpty

/-- Reruns whose 24 slots no longer fit from slot n on wait for the next proof beat (R533). -/
def postpone (n : Nat) (k : CoreSafe) : CoreSafe := if k.rerun == some 0 && decide (5 < n) then { k with rerun := none } else k

/-- Golden tile t begins on a core in raw cycle r, unless one is in flight there. (DESIGN CHOICE, log entry 25) -/
def begin_ (t : Nat) (r : Nat) (k : CoreSafe) : CoreSafe :=
  if k.golden.isSome then k else { k with golden := some (Fin.ofNat 24 t, r) }

/-- The tile that a slot begins on core c: that of its rerun, or the cursor's tile for a core of the cursor's die that is
not fenced (R397, R400). -/
def slotCore (s : State) (die : Bool) (c : Fin 64) (k : CoreSafe) : CoreSafe :=
  match k.rerun with
  | some t => if t < 24 then begin_ t s.clk.raw k else k
  | none => if die && decide (c.1 / 32 = b2n s.safe.die) && !s.fenced c.1 then begin_ s.safe.tile.1 s.clk.raw k else k

/-- The die queue's slot that has ended is counted, and the cursor advances (R397). -/
def settleProof (s : State) : State :=
  match s.safe.slotAt with
  | none => s
  | some r =>
    if s.clk.raw < r + 8192 then s
    else { s with safe := { s.safe with
      slotAt := none
      slots := s.safe.slots + 1
      tile := s.safe.tile + 1
      die := if s.safe.tile = 23 then !s.safe.die else s.safe.die } }

/-- A tile slot begins (R397, R400, R533). (DEDUCED, log entry 40) -/
def proofTileSlot (n : Fin 29) (s : State) : State :=
  if !s.proving || s.safe.cutBeat == some s.clk.beat || decide (128 + 8192 * n.1 < s.clk.cyc) then s
  else
    let s := settleProof (toCycle (128 + 8192 * n.1) s)
    if (s.cores.toList.take 64).any (Core.owes s.clk.beat) then
      { s with safe := { s.safe with cores := s.safe.cores.map (postpone (n.1 + 1)) } }
    else
      let die := decide (s.safe.slots.toNat < 48)
      let s := { s with safe := { s.safe with cores := s.safe.cores.map (postpone n.1) } }
      let s := { s with safe := { s.safe with cores := Vector.ofFn fun c => slotCore s die c s.safe.cores[c] } }
      if die then { s with safe := { s.safe with slotAt := some s.clk.raw } } else s

/-- PROOF_TILE_SLOT (R397). -/
def execProofTileSlot (n : Fin 29) (s : State) : Host.Outcome State Fault Refusal := .next (proofTileSlot n s)

/-! ### Golden tiles -/

/-- A weir's self-test in the tile that began in raw cycle r (R399, R407, R413). The failure of two in a row fences the cores
of its cluster. -/
def selfTest (k : Fin 8) (r : Nat) (missed : Bool) (s : State) : State :=
  let w := s.safe.weirs[k]
  let w := if w.testAt = r then w else { w with testAt := r, before := w.failed, failed := false }
  let first := missed && !w.failed
  let w := { w with failed := w.failed || missed, unchecked := w.failed || missed,
                    failCnt := if first then satInc w.failCnt else w.failCnt }
  let s := { s with safe := { s.safe with weirs := setV s.safe.weirs k w } }
  if !first then s
  else
    let s := raiseFault 4 k.1 0 none s
    let hit (c : Fin 64) (x : CoreSafe) : CoreSafe :=
      if decide (c.1 / 8 = k.1) && !s.fenced c.1 && x.persistent.isNone then { x with persistent := some 4 } else x
    let cores := Vector.ofFn fun c => hit c s.safe.cores[c]
    if w.before then showSuspect { s with safe := { s.safe with cores := cores } } else s

/-- A golden tile ends on core c (R396, R398, R399, R401). It counts as a pass and a cascade, and in no other counter of the core
(DESIGN CHOICE, log entry 91). (DESIGN CHOICE, log entry 25) -/
def goldenTileDone (c : Fin 64) (digestOk weirOk missed : Bool) (s : State) : State :=
  match s.safe.cores[c].golden with
  | none => s
  | some (t, r) =>
    atCycle (r + 8192) s fun s =>
      let last := t == 23
      let k : Fin 8 := Fin.ofNat 8 (c.1 / 8)
      let s := modCore (coreUnit c) (fun x => { x with
        eng := { x.eng with passCnt := x.eng.passCnt + 1 }
        vec := { x.vec with cascCnt := x.vec.cascCnt + 1 } }) s
      let again := s.safe.cores[c].rerun.isSome
      let s := modSafe c (fun x => { x with golden := none, rerun := x.rerun.map fun _ => t.1 + 1 }) s
      let s := if last then selfTest k r missed s else s
      let agrees := weirOk || (last && missed)
      let s := if agrees then s else
        { s with safe := { s.safe with weirs := modV s.safe.weirs k (fun w => { w with disagree := satInc w.disagree }) } }
      if digestOk && agrees then
        if last && !again && !s.safe.cores[c].proofDirty then proven c s else s
      else
        let s := modSafe c (fun x => if again then { x with rerunDirty := true } else { x with proofDirty := true }) s
        engineEvent c 2 (raiseFault 2 c.1 t.1 none s)

/-- GOLDEN_TILE_DONE (R396, R398, R399). -/
def execGoldenTileDone (c : Fin 64) (digestOk weirOk missed : Bool) (s : State) : Host.Outcome State Fault Refusal :=
  .next (goldenTileDone c digestOk weirOk missed s)

/-- RERUN_OUTCOME (R402): transient or persistent, after tile 23 of the rerun. -/
def rerunOutcome (c : Fin 64) (s : State) : State :=
  let k := s.safe.cores[c]
  match k.event with
  | none => s
  | some (f, kind) =>
    if k.rerun != some 24 then s
    else
      let recent := (k.log.filter fun x => decide (f ≤ x + 999)).length + 1
      if k.rerunDirty || decide (3 ≤ recent) then becomePersistent c kind.toNat s
      else
        let s := modSafe c (fun k => { k with event := none, rerun := none, log := (k.log ++ [f]).drop (k.log.length + 1 - 2) }) s
        proven c (showOutcome c 1 { s with safe := { s.safe with transient := satInc s.safe.transient } })

/-- RERUN_OUTCOME (R402). -/
def execRerunOutcome (c : Fin 64) (s : State) : Host.Outcome State Fault Refusal := .next (rerunOutcome c s)

/-! ### Weir verdicts and hop parity -/

/-- A period waits for one verdict less, and may have its own (R389). -/
def verdictIn (w : WeirWait) (s : State) : State :=
  match w.job with
  | none => s
  | some k => tryVerdict k w.period (modPeriod k w.period (fun p => { p with weirPend := p.weirPend - 1 }) s)

/-- A period is DISPUTED (R388). -/
def dispute (k : Option (Fin 12)) (idx : Nat) (s : State) : State :=
  match k with
  | none => s
  | some k => modPeriod k idx (fun p => { p with disputed := true }) s

/-- A tile that failed its comparison (R392, R393, R401, R408). -/
def disagreed (c : Fin 64) (w : WeirWait) (s : State) : State :=
  let s := { s with safe := { s.safe with
    weirs := modV s.safe.weirs (Fin.ofNat 8 (c.1 / 8)) (fun w => { w with disagree := satInc w.disagree }) } }
  if w.job.isNone then s else engineEvent c 1 (raiseFault 1 c.1 0 w.job (dispute w.job w.period s))

/-- WEIR_VERDICT (R388, R389, R393): in cycle t + P + 30. (DEDUCED, log entry 39) -/
def weirVerdict (c : Fin 64) (s : State) : State :=
  match s.cores[coreUnit c].eng.weir with
  | [] => s
  | w :: rest =>
    atCycle w.due s fun s =>
      let s := modEng (coreUnit c) (fun g => { g with weir := rest }) s
      let s := if w.unchecked then unprove w.job w.period s else if w.agree then s else disagreed c w s
      verdictIn w s

/-- WEIR_VERDICT (R389 to R393). -/
def execWeirVerdict (c : Fin 64) (s : State) : Host.Outcome State Fault Refusal := .next (weirVerdict c s)

/-- HOP_PARITY (R405): a stop request with cause 1 and an engine event. A SAFETY job continues, unless the rerun of the same
pass has met an error again, which is persistent at once; another job ends. (DEDUCED, log entry 39) -/
def hopParity (c : Fin 64) (s : State) : State :=
  let u := coreUnit c
  let p := s.cores[u].eng.passes.getLast?
  let k := match p with
    | some p => p.job
    | none => s.ownerOf (c.1 / 8) s.clk.beat
  let s := modCore u (Core.stopAt s.clk.raw 1) (raiseFault 3 c.1 0 k s)
  match k with
  | none => engineEvent c 3 s
  | some x =>
    match s.job x with
    | none => engineEvent c 3 s
    | some j =>
      if !j.isSafety then finishJob x 5 3 true (stopEngines x 1 (engineEvent c 3 s))
      else
        match p with
        | none => engineEvent c 3 s
        | some p =>
          if s.safe.cores[c].hopRerun == some p.entry then becomePersistent c 3 (engineEvent c 3 s)
          else modSafe c (fun k => { k with hopRerun := some p.entry }) (engineEvent c 3 s)

/-- HOP_PARITY (R99, R405). -/
def execHopParity (c : Fin 64) (s : State) : Host.Outcome State Fault Refusal := .next (hopParity c s)

/-! ### What a beat boundary does -/

/-- The cores that run their rerun in the proof beat that begins (R400, R404): the eight lowest with an event that fell
before. -/
def assignReruns (s : State) : State :=
  let due := (List.finRange 64).filter fun c => s.safe.cores[c].event.isSome
  let now := due.take 8
  let one (c : Fin 64) (k : CoreSafe) : CoreSafe :=
    if now.contains c then { k with rerun := some 0, rerunDirty := false } else { k with rerun := none }
  let cores := Vector.ofFn fun c => one c s.safe.cores[c]
  { s with safe := { s.safe with cores := cores } }

/-- A proof slot that ended is cut: no tile is in flight in the new beat; reruns begin in a new proof beat (R397, R400). -/
def proofBoundary (s : State) : State :=
  let cut (k : CoreSafe) : CoreSafe := { k with golden := none, rerun := none }
  let s := settleProof s
  let s : State := { s with safe := { s.safe with cores := s.safe.cores.map cut, slotAt := none } }
  if s.proving then assignReruns s else s

/-- At the start of a frame every age rises, but not of frame 0, and the die queue has its slots again (R397, R398). -/
def frameProof (s : State) : State :=
  showSuspect { s with safe := { s.safe with
    slots := 0
    ages := if s.frame = 0 then s.safe.ages else s.safe.ages.map satInc } }

/-- The cores that the boundary fences, with the code of the fault. -/
def State.toFence (s : State) : List (Fin 64 × Nat) :=
  (List.finRange 64).filterMap fun c => (s.safe.cores[c].persistent).map fun x => (c, x)

/-- A core whose domain is off (R418): the contents are lost, the registers stand. -/
def darkCore (c : Core) : Core :=
  { eng := { fenced := c.eng.fenced, stopCause := c.eng.stopCause, sat := c.eng.sat, nonfin := c.eng.nonfin, seed := c.eng.seed,
             passCnt := c.eng.passCnt, stopCnt := c.eng.stopCnt, satTo := c.eng.satTo, active := c.eng.active, dummy := c.eng.dummy }
    vec := { c.vec with v := Vector.replicate 32 (Vector.replicate 64 0), stage := [], cistern := [], entry := none,
                        draining := none, mode := .idle, rerun := none, keep := false }
    seq := { c.seq with put := none }
    basins := Vector.replicate 16 {}, banks := Vector.replicate 32 {}, pad := [], useTo := c.useTo }

/-- A fenced core's engine shows it, and its domain is off (R403, R420). -/
def fenceCore (c : Core) : Core :=
  let d := darkCore c
  { d with eng := { d.eng with fenced := true } }

/-- A fence takes effect (R403, R404, R420, R476): the map, the domains, one stop of each job that needs a fenced core, and
DEGRADED from READY or RUNNING. -/
def fences (s : State) : State :=
  match s.toFence with
  | [] => s
  | (c0, code) :: rest =>
    let cs := ((c0, code) :: rest).map (·.1)
    let fence := map64 fun i => s.fenced i || cs.any fun c => c.1 == i
    let s := { s with
      safe := { s.safe with fence := fence, cores := s.safe.cores.map (fun k => { k with persistent := none }) }
      cores := s.cores.mapIdx fun i x => if cs.any fun c => c.1 == i then fenceCore x else x
      dom := { s.dom with
        core := map64 fun i => s.coreOn i && !fence.getLsbD i
        fabric := BitVec.ofNat 8 (pack ((List.range 8).map fun k =>
          (b2n (s.dom.fabric.getLsbD k && (List.range 8).any fun i => !fence.getLsbD (8 * k + i)), k))) } }
    let s := if s.dev == .ready || s.dev == .running then setDev .degraded s else s
    let hit := s.jobs.all.filter fun x => x.2.isSafety || cs.any fun c => x.2.usesCore c.1
    showSuspect (hit.foldl (fun s x => finishJob x.1 5 code true s) s)

end Sys2Proof.Machine
end

