-- ==== Sys2Proof/Machine/Power.lean ====
section
/-! DEFINITION. Power and temperature (chapter 15): energies and budgets, the energy ladder, junction thresholds, throttles, the
limits of the input voltage; the meanings of the rows that carry them. -/

namespace Sys2Proof.Machine

/-! ### Profiles and budgets (R421 to R423) -/

/-- Base profile of beat position b, given the SAFETY jobs whose windows count (R421). -/
def State.baseBeat (s : State) (js : List Job) (b : Nat) : Nat :=
  if decide (b < s.cfg.proofBeats) && !js.any (fun j => j.inWindow b) then 60000 else 20000

/-- The largest energy word of a job at beat position b over the frames of its period (R422). -/
def Job.energyAt (j : Job) (b : Nat) : Nat :=
  ((List.range j.hdr.periodFrames).map fun f => j.energy.getD (f * j.hdr.frameBeats + b) 0).foldl max 0

/-- ENERGY_SLOT of the active radio manifests, in slot order. (DEDUCED, log entry 64) -/
def State.radioEnergy (s : State) : List Nat := s.radio.toList.map fun r => (r.active.map (·.energy)).getD 0

/-- The profile of a frame for a set of jobs and radio energies (R422). -/
def State.profile (s : State) (js : List Job) (radio : List Nat) : List Nat :=
  (List.range s.cfg.frameBeats).map fun b => s.baseBeat js b + (js.map fun j => j.energyAt b).sum + radio.sum

/-- The largest sum of r cyclically consecutive elements. -/
def windowMax (l : List Nat) (r : Nat) : Nat :=
  ((List.range l.length).map fun i => (((l ++ l).drop i).take r).sum).foldl max 0

/-- Does a profile keep the limits of R416 (R422)? -/
def profileFits (l : List Nat) : Bool :=
  let n := l.length
  l.all (fun e => decide (e ≤ 107500)) && decide (l.headD 0 ≤ 87500) && decide (l.sum ≤ 87500 * n) &&
  decide (4000 / n * l.sum + windowMax l (4000 % n) ≤ 350000000)

/-- The admitted jobs. -/
def State.jobList (s : State) : List Job := s.jobs.all.map (·.2)

/-- PWR_ALLOW (R422). -/
def State.allowance (s : State) : Nat :=
  if s.pwr.thermal then 0 else 87500 * s.cfg.frameBeats - (s.profile s.jobList s.radioEnergy).sum

/-- The budget of the running frame, as it stands in cycle 0 of beat 1 (R423). -/
def State.budgetNow (s : State) : Nat :=
  let js := s.jobList.filter fun j => j.started s.clk.beat
  ((List.range s.cfg.frameBeats).map (s.baseBeat js)).sum + (js.map fun j => j.hdr.energyFrame).sum +
  s.cfg.frameBeats * s.radioEnergy.sum

/-! ### Energies -/

/-- The power block changed by f. -/
def modPwr (f : Power → Power) (s : State) : State := { s with pwr := f s.pwr }

/-- The energy of the beat before the present one is measured; that of the last beat of a frame ends the frame's sum, which is
written with the frame's budget (R415, R423). (DESIGN CHOICE, log entry 80) -/
def beatEnergy (uj : Nat) (s : State) : State :=
  if !s.clk.running || decide (s.clk.beat ≤ s.pwr.measured) then s
  else
    let s := toCycle 10000 s
    modPwr (fun p =>
      let p := { p with beatUj := BitVec.ofNat 32 uj, measured := s.clk.beat, acc := p.acc + uj }
      if s.beatInFrame = 0 then { p with frameUj := satAdd 0 p.acc, budgetUj := satAdd 0 p.budget, acc := 0 } else p) s

/-- BEAT_ENERGY (R415). -/
def execBeatEnergy (uj : Word) (s : State) : Host.Outcome State Fault Refusal := .next (beatEnergy uj.toNat s)

/-- THERMAL_LIMIT is set (R424, R425): it stays until a reset that reaches the hub. -/
def thermalLimit (energy : Bool) (s : State) : State :=
  modPwr (fun p => if p.thermal then p else { p with thermal := true, byEnergy := energy }) s

/-- One job is stopped by a step, at the next boundary (R424, R425, R427). (DEDUCED, log entry 37) -/
def shedOne (cause code : Nat) (k : Fin 12) (s : State) : State :=
  modPwr (fun p => { p with sheds := satInc p.sheds })
    (scheduleStop k { cause := cause, code := code, at_ := .boundary } s)

/-- A step of the energy ladder (R424, R427): a job that is already ending is passed over; THERMAL_LIMIT once no SERVICE or
BACKGROUND job is admitted. (DEDUCED, log entry 37) -/
def ladderStep (s : State) : State :=
  match shedNext s with
  | some k => shedOne 2 4 k s
  | none => if s.jobList.all Job.isSafety then thermalLimit true s else s

/-- The comparison of the frame's energy with its budget (R423, R424). -/
def energyStep (s : State) : State :=
  if s.pwr.frameUj.toNat ≤ s.pwr.budgetUj.toNat then modPwr (fun p => { p with overRun := 0, ladder := false }) s
  else
    let s := modPwr (fun p => { p with overRun := satInc p.overRun }) s
    if s.pwr.ladder then ladderStep s
    else if s.pwr.overRun = 3 then ladderStep (modPwr (fun p => { p with ladder := true }) (contractEvent 4 none s))
    else s

/-- The test of the frame's hottest reading against TJ_SHED (R425). -/
def shedStep (s : State) : State :=
  if s.pwr.tjMax.toInt < 16 * s.pwr.tjShed.toNat then s
  else
    let s := note 0xF070000004 3 (modPwr (fun p => { p with event := p.event ||| 8 }) s)
    match shedNext s with
    | none => s
    | some k => shedOne 4 0 k s

/-- ENERGY_DECISION (R415, R424, R425, R427): once in beat 0 of every frame but frame 0, when the frame's energy has been
measured; the energy step first. -/
def energyDecision (s : State) : State :=
  if !s.clk.running || s.beatInFrame != 0 || s.frame == 0 || s.pwr.measured != s.clk.beat || decide (s.frame ≤ s.pwr.decided) then s
  else shedStep (energyStep (modPwr (fun p => { p with decided := s.frame }) (toCycle 10000 s)))

/-- ENERGY_DECISION (R415). -/
def execEnergyDecision (s : State) : Host.Outcome State Fault Refusal := .next (energyDecision s)

/-! ### Junction temperature -/

/-- The hottest of readings, with its sensor; the lowest number of equals. -/
def hottest : Nat → List (BitVec 12) → Option (BitVec 12 × Nat)
  | _, [] => none
  | i, x :: xs =>
    match hottest (i + 1) xs with
    | none => some (x, i)
    | some y => if x.toInt < y.1.toInt then some y else some (x, i)

/-- A throttle stops every core's engines; golden tiles in flight are discarded without counting as not clean, and the proof
of the beat is cut with its cursor in place (R99, R426). Radio engines run on. (DEDUCED, log entry 38) -/
def throttleAll (s : State) : State :=
  let s := settleProof s
  let drop (k : CoreSafe) : CoreSafe := if k.golden.isSome then { k with golden := none, rerun := none } else k
  let cut := s.safe.cores.toList.any fun k => k.golden.isSome
  let s := { s with cores := s.cores.mapIdx fun i c => if i < 64 then c.stopAt s.clk.raw 2 else c }
  if cut then { s with safe := { s.safe with
    cores := s.safe.cores.map drop, slotAt := none, cutBeat := some s.clk.beat } } else s

/-- TJ_TRIP (R425): a throttle of every engine, and SAFE_STOP at once. -/
def tjTrip (s : State) : State := safeStop 10 0 false (throttleAll (note 0xF070000004 5 (modPwr (fun p => { p with event := p.event ||| 32 }) s)))

/-- TJ_LIMIT (R425): THERMAL_LIMIT, and every SERVICE and BACKGROUND job stops at the next boundary with CAUSE 4. -/
def tjLimit (s : State) : State :=
  let s := thermalLimit false (note 0xF070000004 4 (modPwr (fun p => { p with event := p.event ||| 16 }) s))
  (s.jobs.all.filter fun x => !x.2.isSafety).foldl (fun s x => scheduleStop x.1 { cause := 4, at_ := .boundary } s) s

/-- TJ_SAMPLE (R425, R427, R429): of two thresholds crossed in one sample TJ_TRIP governs. (DESIGN CHOICE, log entry 80) -/
def tjSample (rs : List (BitVec 12)) (s : State) : State :=
  if s.rst.episode.isSome then s
  else
    match hottest 0 (rs.take 36) with
    | none => s
    | some (t, i) =>
      let s := modPwr (fun p => { p with
        tjNow := t
        sensor := BitVec.ofNat 6 i
        hot := if p.hot.toInt < t.toInt then t else p.hot }) s
      if 1840 ≤ t.toInt then tjTrip s else if 1680 ≤ t.toInt then tjLimit s else s

/-- TJ_SAMPLE (R425). -/
def execTjSample (rs : List (BitVec 12)) (s : State) : Host.Outcome State Fault Refusal := .next (tjSample rs s)

/-! ### Throttles (R426) -/

/-- A throttle in a shared beat: every SERVICE and BACKGROUND job with an entry outstanding in the beat ends with CAUSE 4. (DEDUCED, log entry 38) -/
def throttleShared (s : State) : State :=
  (s.jobs.all.filter fun x => !x.2.isSafety && s.outstanding x.1 s.clk.beat).foldl
    (fun s x => finishJob x.1 4 0 false (stopEngines x.1 2 s)) s

/-- A throttle in a window beat: the first of the window in the frame leaves the job to go on after its quiet time, the second
is an island kill and SAFE_STOP. -/
def throttleWindow (k : Fin 12) (s : State) : State :=
  if s.pwr.windowHit = some (k, s.frame) then safeStop 8 0 false s
  else modPwr (fun p => { p with windowHit := some (k, s.frame), quietTo := some (s.clk.raw + 2241) }) (throttleAll s)

/-- FAST_CURRENT_LIMIT (R416, R426): OVERCURRENT and the count, then what the present beat decides. -/
def fastCurrentLimit (s : State) : State :=
  if s.rst.episode.isSome then s
  else
    let s := note 0xF070000004 2 (modPwr (fun p => { p with event := p.event ||| 4, throttles := satInc p.throttles }) s)
    if !s.clk.running then s
    else match s.windowJob s.clk.beat with
      | some k => throttleWindow k s
      | none => if s.proofBeat s.clk.beat then throttleAll s else throttleShared s

/-- FAST_CURRENT_LIMIT (R426). -/
def execFastCurrentLimit (s : State) : Host.Outcome State Fault Refusal := .next (fastCurrentLimit s)

/-- THROTTLE_QUIET_END (R101, R426): 2,048 cycles after the RAMP_DOWN the engines may ramp up; no ramp begins earlier. -/
def throttleQuietEnd (s : State) : State :=
  match s.pwr.quietTo with
  | none => s
  | some t =>
    atCycle t s fun s =>
      let ramp (c : Core) : Core := { c with eng := { c.eng with rampFrom := s.clk.raw } }
      { s with pwr := { s.pwr with quietTo := none }, cores := s.cores.mapIdx fun i c => if i < 64 then ramp c else c }

/-- THROTTLE_QUIET_END (R426). -/
def execThrottleQuietEnd (s : State) : Host.Outcome State Fault Refusal := .next (throttleQuietEnd s)

/-! ### The input voltage (R417) -/

/-- SUPPLY_OUT_OF_RANGE: outside 36 V to 58 V for 1 ms. -/
def supplyOutOfRange (mv : Nat) (s : State) : State :=
  if s.rst.episode.isSome || decide (36000 ≤ mv ∧ mv ≤ 58000) then s
  else
    let low := decide (mv < 36000)
    safeStop 5 0 false (note 0xF070000004 (if low then 0 else 1) (modPwr (fun p => { p with
      voltMv := BitVec.ofNat 16 mv
      input := if low then 1 else 2
      event := p.event ||| (if low then 1 else 2) }) s))

/-- SUPPLY_OUT_OF_RANGE (R417). -/
def execSupplyOutOfRange (mv : BitVec 16) (s : State) : Host.Outcome State Fault Refusal := .next (supplyOutOfRange mv.toNat s)

/-- The input is switched off: the ISLAND supply is lost, and the next start is a power-on start (R417, R520). (DESIGN CHOICE, log entry 36) -/
def inputOff (s : State) : State :=
  acceptSource .por { s with pins := { s.pins with inputOn := false }, rst := { s.rst with supplyLow := true } }

/-- HOT_SWAP_TRIP (R417). -/
def execHotSwapTrip (s : State) : Host.Outcome State Fault Refusal := .next (inputOff s)

/-- COLD_PLATE_CUT (R520): the switch opens and stays open until the cold plate has cooled. -/
def execColdPlateCut (s : State) : Host.Outcome State Fault Refusal :=
  .next (inputOff { s with pins := { s.pins with plateHot := true } })

/-- COLD_PLATE_RESTORE (R520): the switch that the cold plate opened closes; POWER_GOOD ends the power-on source. (DESIGN CHOICE, log entry 36) -/
def execColdPlateRestore (s : State) : Host.Outcome State Fault Refusal :=
  .next (if s.pins.plateHot then { s with pins := { s.pins with plateHot := false, inputOn := true } } else s)

end Sys2Proof.Machine
end

