-- ==== Sys2Proof/Machine/Hold.lean ====
section
/-! DEFINITION. Holds (R54, R140, R184, R185, R188, R236, R251, R289): a cycle in which an entry that is due does not issue. -/

namespace Sys2Proof.Machine

/-- What the sequencer finds of an entry of class op. The classes that wait for nothing never hold. -/
def opCheck (u : UnitIdx) (op : Nat) (e : Entry) (s : State) : Ready :=
  let c := s.cores[u]
  if op == 1 then passCheck u e s
  else if op == 2 then loadCheck u e s
  else if op == 8 then cascCheck u e s
  else if op == 9 then insnCheck u e s
  else if op == 10 then moveCheck u e s
  else if op == 0x15 then putCheck u e s
  else if op == 0x17 then waits 1 (c.eng.passes.isEmpty && c.vec.entry.isNone && c.seq.put.isNone)
  else .go

/-! ### Root causes (R54) -/

/-- Is a read of a descriptor retried, waiting for its retry, or later than LAT_MAX; does one of its landings wait for a bank? -/
def State.troubledAt (s : State) (r : Fin 32) (k : Fin 12) (slot : Fin 64) : Bool :=
  (s.chans.toList.any fun c => (c.troubles s.clk.raw).any fun f =>
    f.ofRill && !f.write && f.rill == r && f.slot == slot && f.job == k && s.stands f) ||
  s.rills[r].landing.any fun l => l.late && l.job == k && l.slot == slot

/-- Is one of any descriptor of a rill? -/
def State.troubled (s : State) (r : Fin 32) : Bool := s.rills[r].descs.any fun d => s.troubledAt r d.job d.slot

/-- Does a channel on which the job claims lots in a beat carry slip? -/
def State.chanSlipIn (s : State) (beat : Nat) (j : Job) : Bool :=
  (List.finRange 128).any fun c => decide (0 < s.chans[c].slip) && j.lots.any fun l => l.chan == c.1 && l.beat == j.beatAt beat

/-- The same of the present beat. -/
def State.chanSlip (s : State) (j : Job) : Bool := s.chanSlipIn s.clk.beat j

/-- The basins whose bytes an entry awaits (R172). -/
def entryIn (op : Nat) (e : Entry) : List (Fin 16) :=
  if op == 1 then
    let f := passFields e
    match passDepth f.act f.wgt with | none => [] | some (d, _) => (f.reads d).map (·.1)
  else if op == 2 then [basinNo (bits (wordAt e.words 0) 7 4)]
  else if op == 8 then (if (cascHead e).src = 0 then [] else [(cascHead e).basin])
  else if op == 10 then (if bitOf (wordAt e.words 0) 0 then [] else [basinNo (bits (wordAt e.words 0) 7 4)])
  else []

/-- The basins whose space an entry awaits (R175). -/
def entryOut (op : Nat) (e : Entry) : List (Fin 16) :=
  if op == 8 then (cascNeeds e).map (·.1)
  else if op == 9 then (insnNeeds (insnPairs e.words)).map (·.1)
  else if op == 10 then (if bitOf (wordAt e.words 0) 0 then [basinNo (bits (wordAt e.words 0) 7 4)] else [])
  else if op == 0x15 then [basinNo (bits (wordAt e.words 0) 3 0)]
  else []

/-- The descriptors that fill (OP 1) or drain (OP 2) a basin of a core, with their rills. -/
def State.feeders (s : State) (u : UnitIdx) (op : Nat) (n : Fin 16) : List (Fin 32 × Desc) :=
  (clusterRills u).flatMap fun r => (s.rills[r].descs.filter fun d =>
    d.op == op && !d.retired && d.basin == n && d.core r == u).map fun d => (r, d)

/-- The descriptors that an entry which holds for a cause awaits: those that fill its basins for input, those that drain them for space. -/
def State.awaited (s : State) (u : UnitIdx) (op cause : Nat) (e : Entry) : List (Fin 32 × Desc) :=
  if cause == 2 then (entryIn op e).flatMap (s.feeders u 1)
  else if cause == 3 then (entryOut op e).flatMap (s.feeders u 2)
  else []

/-- Are arbitrated data of a descriptor past their DUE (R246, R267)? -/
def State.pastDue (s : State) (d : Desc) : Bool :=
  d.arb && d.op == 1 && match s.job d.job with
    | none => false
    | some j => decide (d.need j < s.grid) && !(d.active && d.done.all fun x => x)

/-- Is a timetable fetch delayed by a retry, a read later than LAT_MAX or the slip of a channel that it waits at (R54, R184, R238)? -/
def State.fetchLate (s : State) (k : FetchKind) (j : Job) : Bool :=
  (s.chans.toList.any fun c => (c.troubles s.clk.raw).any fun f => f.kind == .fetch k && f.jid == j.id) ||
  s.mem.fetches.any fun x => x.kind == k && x.jid == j.id && x.lines.any fun l => decide (0 < (s.chans[Fin.ofNat 128 (chanOf l.1)]).slip)

/-- The fetch that brings the entries of a core to a job's context. -/
def coreFetch (u : UnitIdx) (j : Job) : FetchKind := .context (Fin.ofNat 64 u.1) (Fin.ofNat 5 j.ctx)

/-- Is the work of a core later than stated: slip, a stop or what it interrupted, a write that waits for a bank (R54)? -/
def Core.lateWork (c : Core) : Bool :=
  decide (0 < c.seq.slip) || c.stopping || !c.eng.rerun.isEmpty || c.vec.rerun.isSome ||
  (match c.vec.entry with | none => false | some v => v.late) || (match c.seq.put with | none => false | some p => p.late)

/-- Does a first hold of a core's entry for a cause trace to a root cause (R54, R89, R97, R156, R184, R188, R251)? The state of what the
entry awaits decides: the slip of its own unit, a stop and what follows it, a write that waits for a bank, the rills and
channels that move its data, the fetch of its timetable. An entry of a BACKGROUND job that holds for arbitrated data looks at the data
alone. (DEDUCED, log entry 41) -/
def State.corePermitted (s : State) (u : UnitIdx) (op cause : Nat) (e : Entry) (w : Work) : Bool :=
  let c := s.cores[u]
  let j := w.job.bind s.job
  let bg := match j with | none => false | some j => j.hdr.cls == 2
  let chan := match j with | none => false | some j => !bg && s.chanSlip j
  let fed := s.awaited u op cause e
  let moved := fed.any fun x => s.troubledAt x.1 x.2.job x.2.slot || decide (0 < s.rills[x.1].slip) || chan
  let stopped := c.stopping || s.quiet || !c.eng.rerun.isEmpty || c.vec.rerun.isSome || c.eng.draining.isSome || c.behind op e
  let held := (match c.vec.entry with | none => false | some v => v.late) || (match c.seq.put with | none => false | some p => p.late)
  if op == 2 && cause == 1 then false
  else if cause == 4 then stopped || (match j with | none => false | some j => s.fetchLate (coreFetch u j) j)
  else if cause == 5 then true
  else if bg && cause == 2 && fed.any (fun x => x.2.arb) then moved || stopped || held
  else decide (0 < c.seq.slip) || stopped || held || moved

/-! ### Cores -/

/-- Why the entry that is due on a core does not issue, as CORE_SEQ_STATUS codes it (R190). (DEDUCED, log entry 16) -/
def State.holdCause (s : State) (u : UnitIdx) (op : Nat) (e : Entry) (complete : Bool) : Option Nat :=
  let c := s.cores[u]
  let late := (match c.vec.entry with | none => false | some v => v.late) || (match c.seq.put with | none => false | some p => p.late)
  if !s.unitOn u then none
  else if !complete then some 4
  else if c.stopping || (s.quiet && decide (u.1 < 64)) || c.behind op e then some 1
  else match opCheck u op e (takeOver u op e s) with
    | .hold n => some (if n = 1 ∧ late then 5 else n)
    | _ => none

/-- Hold cycles whose cause lies in memory are counted for the period (R267). -/
def addStall (k : Option (Fin 12)) (idx : Nat) (memory : Bool) (s : State) : State :=
  match k with
  | none => s
  | some k => if memory then modPeriod k idx (fun p => { p with stall := p.stall + 1 }) s else s

/-- One cycle of a hold on a core (R185, R190). -/
def Core.held (cause : Nat) (c : Core) : Core :=
  { c with seq := { c.seq with
    slip := c.seq.slip + 1
    held := if cause = 6 then c.seq.held else c.seq.held + 1
    holding := true, holdCause := BitVec.ofNat 3 cause, permitted := true } }

/-- Does the hold of an entry have its cause in memory (R267): a read that is retried or later than LAT_MAX, arbitrated data past their DUE,
a fetch delayed by one of these? -/
def State.memoryHold (s : State) (u : UnitIdx) (op cause : Nat) (e : Entry) (w : Work) : Bool :=
  if cause == 4 then (match w.job.bind s.job with | none => false | some j => s.fetchLate (coreFetch u j) j)
  else cause == 2 && (s.awaited u op 2 e).any fun x => s.troubledAt x.1 x.2.job x.2.slot || s.pastDue x.2

/-- The next entry of a core or radio engine holds for the cycle (R54, R185, R267). -/
def coreHold (u : UnitIdx) (cause : Nat) (s : State) : State :=
  match s.nextEntry u with
  | none => s
  | some (op, e, complete) =>
    match toEntry u op e s with
    | none => s
    | some t =>
      if t.holdCause u op e complete != some cause then s
      else
        let w := t.workOf u op e
        if !t.cores[u].seq.permitted && !t.corePermitted u op cause e w then manifestAt u w t
        else addStall w.job w.period (t.memoryHold u op cause e w) (modCore u (Core.held cause) (markRamp u t))

/-- The vector entry that pauses at a VLDT of a tile that is not FULL (R140). -/
def State.pausing (s : State) (u : UnitIdx) : Option VecEntry :=
  match s.cores[u].vec.entry with
  | none => none
  | some v =>
    match v.left with
    | [] => none
    | x :: _ =>
      let t : Fin 4 := Fin.ofNat 4 (bits x.2.toNat 1 0)
      if v.op == 9 && bits x.1.toNat 7 0 == 0x0C && s.cores[u].vec.draining.isNone && !(s.cores[u].eng.tiles[t]).readable v.issueAt
      then some v else none

/-- One cycle of a pause (R140): the entry is a cycle longer, and the core's slip grows. The cycle is a hold and no engine time of the
vector engine (R264). -/
def pauseHold (u : UnitIdx) (v : VecEntry) (s : State) : State :=
  atCycle v.issueAt s fun t =>
    let t := settleCore u t
    let w : Work := { job := v.job, period := v.period }
    if !v.paused && !t.corePermitted u 9 2 v.entry w then manifestAt u w t
    else
      modCore u (fun c => { c with
        seq := { c.seq with slip := c.seq.slip + 1 }
        vec := { c.vec with entry := some { v with len := v.len + 1, paused := true } } })
        (markRamp u (settleUse u (t.clk.raw + 1) false t))

/-! ### Rills and channels -/

/-- The descriptor that holds on a rill in its due cycle: it is not in the queue, or it waits for an earlier window (R236,
R289). -/
def State.heldDesc (s : State) (r : Fin 32) : Option (Desc × Job × State) :=
  slotsList.findSome? fun k =>
    match s.job k with
    | none => none
    | some j =>
      match s.nextOf r k j with
      | none => none
      | some (d, here) =>
        match reachGrid (d.dueAt j s.rills[r].slip) s with
        | none => none
        | some t => if !here || (d.op == 1 && t.ordered d && t.earlierWindow r d j) then some (d, j, t) else none

/-- Is a descriptor later than stated for a reason that R54 permits: its reads, its core, the channels of its job? -/
def State.delayed (s : State) (r : Fin 32) (d : Desc) (j : Job) : Bool :=
  s.troubledAt r d.job d.slot || (s.cores[d.core r]).lateWork || (j.hdr.cls != 2 && s.chanSlip j)

/-- The burst that a descriptor not yet in the queue waits for, and whether that burst is late for a permitted reason: its fetch, or a
descriptor of its group that has not retired (R237, R238). -/
def State.burstLate (s : State) (r : Fin 32) (d : Desc) (j : Job) : Bool :=
  let g : Fin 4 := Fin.ofNat 4 (d.slot.1 / 16)
  s.fetchLate (.group r g) j || s.rills[r].descs.any fun x => x.job == d.job && inGroup g x.slot && !x.retired && s.delayed r x j

/-- Does a first hold of a rill's descriptor trace to a root cause (R54, R238, R251, R289)? The slip of its own rill, the burst that it
waits for, or the rills whose earlier windows it waits for. (DEDUCED, log entry 41) -/
def State.rillPermitted (s : State) (r : Fin 32) (d : Desc) (j : Job) (here : Bool) : Bool :=
  decide (0 < s.rills[r].slip) ||
  if here then (s.earlierRills r d j).any fun q => decide (0 < s.rills[q].slip) || s.troubled q else s.burstLate r d j

/-- Does that hold have its cause in memory (R267)? -/
def State.rillMemory (s : State) (r : Fin 32) (d : Desc) (j : Job) (here : Bool) : Bool :=
  if here then (s.earlierRills r d j).any s.troubled
  else s.fetchLate (.group r (Fin.ofNat 4 (d.slot.1 / 16))) j ||
    s.rills[r].descs.any fun x => x.job == d.job && inGroup (Fin.ofNat 4 (d.slot.1 / 16)) x.slot && s.troubledAt r x.job x.slot

/-- A landing of a rill that is held for space or for a bank (R175, R179, R241), with its descriptor. -/
def State.heldLanding (s : State) (r : Fin 32) : Option (Desc × Landing) :=
  s.rills[r].landing.findSome? fun l => match s.rills[r].desc l.job l.slot with
    | none => none
    | some d => if d.open_ && (l.late || !(s.cores[d.core r]).roomFor s.clk.raw d l) then some (d, l) else none

/-- Does a first hold of a landing trace to a root cause (R54): a forced wake, or the lateness of what drains its basin? -/
def State.landPermitted (s : State) (r : Fin 32) (d : Desc) (l : Landing) : Bool :=
  l.late || decide (0 < s.rills[r].slip) || (s.cores[d.core r]).lateWork ||
  (s.feeders (d.core r) 2 d.basin).any fun x => decide (0 < s.rills[x.1].slip) ||
    match s.job x.2.job with | none => false | some j => s.delayed x.1 x.2 j

/-- One cycle of a hold on a rill. -/
def Rill.held (r : Rill) : Rill := { r with slip := r.slip + 1, holding := true }

/-- The next descriptor of a rill, or a landing of it, holds for the cycle (R236, R241). -/
def rillHold (r : Fin 32) (s : State) : State :=
  match s.heldDesc r with
  | some (d, j, t) =>
    let here := t.rills[r].descs.any (· == d)
    if !t.rills[r].permitted && !t.rillPermitted r d j here then manifestEvent d.job t
    else addStall (some d.job) d.period (t.rillMemory r d j here) (modRill r (fun x => { x.held with permitted := true }) t)
  | none =>
    match s.heldLanding r with
    | none => s
    | some (d, l) =>
      if !l.permitted && !s.landPermitted r d l then manifestEvent d.job s
      else modRill r Rill.held (modLanding r l (fun x => { x with permitted := true }) s)

/-- The entry of a channel that is due and does not issue, the first stated of several, with the state in its due cycle. -/
def State.heldChan (s : State) (c : Fin 128) : Option (Fin 12 × Job × (Nat × Entry × Nat) × State) :=
  let due (x : Fin 12 × Job × Nat × Entry × Nat) : Option State := reachGrid (chanStated x.2.1 x.2.2 + s.chans[c].slip) s
  let held (x : Fin 12 × Job × Nat × Entry × Nat) : Bool := match due x with
    | none => false
    | some t => t.phyOn c && (t.chanWaits c x.1 (chanStated x.2.1 x.2.2) || !t.chanReady c x.1 x.2.1 x.2.2.2.2 x.2.2.1 x.2.2.2.1)
  (statedFirst ((s.chanHeads c).filter held)).bind fun x => (due x).map fun t => (x.1, x.2.1, x.2.2, t)

/-- Does a first hold of a channel's entry trace to a root cause (R54, R205, R210, R242)? The channel's slip, its late reads and the tags
they hold, and for a write the rill and core from which its bytes come. -/
def State.chanPermitted (s : State) (c : Fin 128) (k : Fin 12) (j : Job) (x : Nat × Entry × Nat) : Bool :=
  let ch := s.chans[c]
  let f := accessOf x.2.1 k j x.2.2 (x.1 == 2)
  decide (0 < ch.slip) || !(ch.troubles s.clk.raw).isEmpty ||
  (x.1 == 2 && (decide (0 < s.rills[f.rill].slip) ||
    match s.rills[f.rill].desc k f.slot with
    | none => false
    | some d => s.delayed f.rill d j || (s.feeders (d.core f.rill) 1 d.basin).any fun y => decide (0 < s.rills[y.1].slip)))

/-- The next entry of a channel holds for the cycle (R54, R205, R210, R242). -/
def chanHold (c : Fin 128) (s : State) : State :=
  match s.heldChan c with
  | none => s
  | some (k, j, x, t) =>
    if !t.chans[c].permitted && !t.chanPermitted c k j x then manifestEvent k t
    else modChan c (fun x => { x with slip := x.slip + 1, holding := true, permitted := true }) t

/-- A hold of a unit for the cycle. -/
def entryHold (h : HoldUnit) (cause : Nat) (s : State) : State :=
  match h with
  | .core u =>
    match s.pausing u with
    | some v => if cause = 2 then pauseHold u v s else s
    | none => coreHold u cause s
  | .rill r => rillHold r s
  | .chan c => chanHold c s

/-- ENTRY_HOLD (R54, R57, R185). -/
def execEntryHold (h : HoldUnit) (cause : BitVec 3) (s : State) : Host.Outcome State Fault Refusal := .next (entryHold h cause.toNat s)

end Sys2Proof.Machine
end

