-- ==== Sys2Proof/Machine/DspOps.lean ====
section
/-! DEFINITION. Shared operations of the baseband DSP (chapter 12): the exposed pipeline (R337), post-modification
(R336), accumulators and their saturation (R333), rounding stores (R334), special registers (R332), issue with delay
slots and loops (R338, R339), traps (R342). -/

namespace Sys2Proof.Machine

/-- The DSP changed by f. -/
def modDsp (f : Dsp → Dsp) (s : State) : State := { s with dsp := f s.dsp }

/-- One issue passes: results due now become readable (R337). -/
def Dsp.advance (d : Dsp) : Dsp :=
  let ready := d.accPend.filter fun x => x.1 ≤ 1
  let dready := d.dPend.filter fun x => x.1 ≤ 1
  { d with
    accVis := ready.foldl (fun v x => setV v x.2.1 x.2.2) d.accVis
    accPend := (d.accPend.filter fun x => 1 < x.1).map fun x => (x.1 - 1, x.2)
    d := dready.foldl (fun v x => setV v x.2.1 x.2.2) d.d
    dPend := (d.dPend.filter fun x => 1 < x.1).map fun x => (x.1 - 1, x.2) }

/-- Every result on its way becomes readable: the pipeline has drained (R340). -/
def Dsp.drain (d : Dsp) : Dsp :=
  { d with
    accVis := d.accPend.foldl (fun v x => setV v x.2.1 x.2.2) d.accVis, accPend := []
    d := d.dPend.foldl (fun v x => setV v x.2.1 x.2.2) d.d, dPend := []
    shadow := [] }

/-- Saturation to 40 bits (R333). -/
def sat40 (v : Int) : BitVec 40 × Bool :=
  if v > 2 ^ 39 - 1 then (0x7FFFFFFFFF, true) else if v < -(2 ^ 39) then (0x8000000000, true) else (BitVec.ofInt 40 v, false)

/-- A MAC-format result: newest at once, readable by others at issue + 3 (R337); saturation sets ACC_SAT. -/
def Dsp.macWrite (r : Fin 8) (v : Int) (d : Dsp) : Dsp :=
  let x := sat40 v
  { d with acc := setV d.acc r x.1, accPend := d.accPend ++ [(3, r, x.1)], accSat := d.accSat || x.2 }

/-- A register-format result in an accumulator, readable at issue + 1; it supersedes older results on their way. -/
def Dsp.regWrite (r : Fin 8) (v : BitVec 40) (sat : Bool) (d : Dsp) : Dsp :=
  { d with acc := setV d.acc r v, accVis := setV d.accVis r v, accPend := d.accPend.filter (·.2.1 != r),
           accSat := d.accSat || sat }

/-- A data register written, readable at issue + 1. -/
def Dsp.dWrite (r : Fin 8) (w : Word) (d : Dsp) : Dsp :=
  { d with d := setV d.d r w, dPend := d.dPend.filter (·.2.1 != r) }

/-- The word that memory m holds at address a, as the port and the write bus see it. -/
def Dsp.mem (m : Fin 3) (a : Nat) (d : Dsp) : Word :=
  Cells.get 0 (if m = 0 then d.x else if m = 1 then d.y else d.c) a

/-- A bus read: the word before the store of the previous instruction, if that stored there (R337). -/
def Dsp.bus (m : Fin 3) (a : Nat) (d : Dsp) : Word :=
  match d.shadow.find? fun x => x.1 == m && x.2.1 == a with
  | some x => x.2.2
  | none => d.mem m a

/-- A store to a DSP memory. -/
def Dsp.store (m : Fin 3) (a : Nat) (w : Word) (d : Dsp) : Dsp :=
  let d := { d with shadow := [(m, a, d.mem m a)] }
  if m = 0 then { d with x := Cells.put 0 d.x a w }
  else if m = 1 then { d with y := Cells.put 0 d.y a w }
  else { d with c := Cells.put 0 d.c a w }

/-- I or real part of a word, signed (R331). -/
def partI (w : Word) : Int := sext 16 (bits w.toNat 15 0)

/-- Q part of a word, signed. -/
def partQ (w : Word) : Int := sext 16 (bits w.toNat 31 16)

/-- 14-bit reversal. -/
def rev14 (v : BitVec 14) : BitVec 14 := v.reverse

/-- Post-modification (R336). -/
def AddrGen.next (g : AddrGen) : AddrGen :=
  if g.brev then { g with ag := rev14 (rev14 g.ag + rev14 g.m) }
  else if g.l = 0 then { g with ag := g.ag + g.m }
  else { g with ag := g.b + BitVec.ofInt 14 (((g.ag.toNat : Int) - g.b.toNat + g.m.toInt) % (g.l.toNat : Int)) }

/-- An address generator post-modified. -/
def Dsp.step (r : Fin 8) (d : Dsp) : Dsp := { d with ags := modV d.ags r AddrGen.next }

/-- A trap (R342): the DSP stops with its cause, DSP_TRAP is reported, transmissions are cancelled (R408). -/
def dspTrap (cause : BitVec 3) (s : State) : State :=
  let s := modDsp (fun d => { d with run := .trapped, trap := cause }) s
  raiseFault 0x0B 0 cause.toNat none (cutTransmissions s)

/-- Is the instruction at the program counter in the body of a running loop (R339)? -/
def Dsp.inBody (d : Dsp) : Bool := d.lc != 0 && decide (d.ls ≤ d.pc) && decide (d.pc ≤ d.le)

/-- The program counter after an instruction: a branch whose delay slots are over, the loop's next iteration, or the
next address (R338, R339). -/
def Dsp.after (d : Dsp) : Dsp :=
  let due := (d.branches.find? fun b => b.1 == 1).map (·.2)
  let left := (d.branches.filter fun b => b.1 != 1).map fun b => (b.1 - 1, b.2)
  let atEnd := d.lc != 0 && d.pc == d.le
  let lc := if atEnd then d.lc - 1 else d.lc
  let next := match due with
    | some t => t
    | none => if atEnd && lc != 0 then d.ls else d.pc + 1
  { d with branches := left, lc := lc, last := d.pc, pc := next }

/-- The loop cache takes the word of a body instruction of an iteration fetched from program memory (R339, R341). -/
def Dsp.capture (d : Dsp) : Dsp :=
  if d.inBody && d.cache.length == (d.pc - d.ls).toNat then
    { d with cache := d.cache ++ [Cells.get 0 d.prog d.pc.toNat] }
  else d

/-- Does the program run past its memory: the last address issues and nothing redirects it? -/
def Dsp.runsOff (d : Dsp) : Bool :=
  d.pc == 0x3FFF && !(d.branches.any fun b => b.1 == 1) && !(d.lc != 0 && d.pc == d.le && d.lc != 1)

/-- The word at the program counter: from the loop cache in the later iterations of a body, from program memory otherwise (R339). -/
def Dsp.fetched (d : Dsp) : Word :=
  if d.inBody && decide ((d.pc - d.ls).toNat < d.cache.length) then d.cache.getD (d.pc - d.ls).toNat 0 else Cells.get 0 d.prog d.pc.toNat

/-- f, whose saturations are events of BB_DSP_STATUS (R16, R333, R334). -/
def dspEvents (f : State → State) (s : State) : State :=
  let t := f (modDsp (fun d => { d with accSat := false, storeSat := false }) s)
  let t := noteIf t.dsp.accSat 0xF050000004 16 (noteIf t.dsp.storeSat 0xF050000004 17 t)
  modDsp (fun d => { d with accSat := s.dsp.accSat || d.accSat, storeSat := s.dsp.storeSat || d.storeSat }) t

/-- An instruction issues while the DSP runs and its word is at the program counter: older results land, f has its effect, the
program counter moves. A control-format instruction other than SETAG, SETM and SETL in a loop body traps (R339). (DEDUCED, log entry 87) -/
def issue (w : Word) (control store : Bool) (f : State → State) (s : State) : State :=
  if s.dsp.run ≠ .running ∨ s.dsp.fetched ≠ w then s
  else if control && s.dsp.inBody then dspTrap 2 (modDsp (fun d => { d with last := d.pc }) s)
  else
    let s := modDsp (fun d => (d.advance).capture) s
    let off := s.dsp.runsOff
    let s := dspEvents f (modDsp Dsp.after s)
    if s.dsp.run = .trapped then s
    else
      let s := if store then s else modDsp (fun d => { d with shadow := [] }) s
      if off then dspTrap 3 s else s

/-- The word of a MAC-format instruction (R335). -/
def macWord (op : Nat) (o : MacOp) : Word :=
  packW [(op, 25), (o.pair.1, 23), (o.agx.1, 20), (o.agy.1, 17), (o.agc.1, 14), (o.bsel.toNat, 12), (b2n o.noadv, 11)]

/-- The word of a register-format instruction (R335). -/
def regOpWord (op : Nat) (o : RegOp) : Word :=
  packW [(1, 30), (op, 25), (o.dst.1, 22), (o.sra.1, 19), (o.srb.1, 16), (o.sh.toNat, 10)]

/-- The word of a memory-format instruction (R335). -/
def memOpWord (op : Nat) (o : MemOp) : Word :=
  packW [(2, 30), (op, 25), (o.reg.1, 22), (o.ag.1, 19), (o.mem.toNat, 17), (o.sh.toNat, 11)]

/-- The word of a control-format instruction (R335). -/
def ctlWord (op : Nat) (reg : Fin 8) (operand : Nat) : Word := packW [(3, 30), (op, 25), (reg.1, 22), (operand, 0)]

/-- A DSP memory selector (R335): 3 is illegal. -/
def memSel (m : BitVec 2) : Option (Fin 3) := if h : m.toNat < 3 then some ⟨m.toNat, h⟩ else none

/-- An address beyond a memory (R331, R342): only C is smaller than an address can be. -/
def beyond (m : Fin 3) (a : BitVec 14) : Bool := m == 2 && decide (4096 ≤ a.toNat)

/-- Where the x operand and, when read, the b operand of a MAC-format instruction lie (R335): memory and generator. -/
def macOperands (o : MacOp) : Option ((Fin 3 × Fin 8) × (Fin 3 × Fin 8)) :=
  match o.bsel.toNat with
  | 0 => some ((0, o.agx), (2, o.agc))
  | 1 => some ((0, o.agx), (1, o.agy))
  | 2 => some ((1, o.agy), (2, o.agc))
  | _ => none

/-- A MAC-format instruction (R335, R336): operands are read on the buses, each named generator is post-modified once,
and f gives the new values of the pair from its newest values, x and b. -/
def mac (op : Nat) (o : MacOp) (readB : Bool) (f : Int → Int → Word → Word → Int × Option Int) : State → State :=
  issue (macWord op o) false false fun s =>
    match macOperands o with
    | none => dspTrap 1 s
    | some ((mx, gx), (mb, gb)) =>
      let d := s.dsp
      let ax := d.ags[gx].ag
      let ab := d.ags[gb].ag
      if beyond mx ax || (readB && beyond mb ab) then dspTrap 3 s
      else
        let p0 : Fin 8 := ⟨2 * o.pair.1, by omega⟩
        let p1 : Fin 8 := ⟨2 * o.pair.1 + 1, by omega⟩
        let r := f d.acc[p0].toInt d.acc[p1].toInt (d.bus mx ax.toNat) (d.bus mb ab.toNat)
        let d := d.macWrite p0 r.1
        let d := match r.2 with | none => d | some v => d.macWrite p1 v
        let d := if o.noadv then d else
          let d := d.step gx
          if readB && gb != gx then d.step gb else d
        { s with dsp := d }

/-- STR's rounding: half up, then clamped to 16 bits, with whether it clamped (R334). The rule gives no value for a shift beyond 39:
it is free. (DESIGN CHOICE, log entry 86) -/
def strRound (a : BitVec 40) (sh : Nat) (free : Word) : Int × Bool :=
  let v := if sh = 0 then a.toInt else if sh ≤ 39 then (a.toInt + 2 ^ (sh - 1)) / 2 ^ sh else free.toInt
  if v > 32767 then (32767, true) else if v < -32768 then (-32768, true) else (v, false)

/-- The word and clamp flag STR stores for a pair (R334). (DESIGN CHOICE, log entry 86) -/
def strWord (a0 a1 : BitVec 40) (sh : Nat) (free : Nat) : Word × Bool :=
  let x := strRound a0 sh (Config.freeWord free)
  let y := strRound a1 sh (Config.freeWord (free + 1))
  (packW [((BitVec.ofInt 16 x.1).toNat, 0), ((BitVec.ofInt 16 y.1).toNat, 16)], x.2 || y.2)

/-- A doorbell word's pair (R363): the last word of a handoff area in Y. -/
def doorbellOf (m : Fin 3) (a : Nat) : Option (Fin 2) :=
  if m = 1 ∧ a = 8192 + 0xFFF then some 0 else if m = 1 ∧ a = 12288 + 0xFFF then some 1 else none

/-- A store by the DSP, which is a doorbell where it writes a doorbell word (R364). -/
def dspStore (m : Fin 3) (a : Nat) (w : Word) (s : State) : State :=
  let s := modDsp (Dsp.store m a w) s
  match doorbellOf m a with
  | none => s
  | some e => doorbell e w s

/-- Special register n (R332). SR's bits have no meaning in this spec: it keeps what was written. -/
def special (n : Nat) (s : State) : Option Word :=
  let w14 (v : BitVec 14) : Option Word := some (v.setWidth 32)
  match n with
  | 0 => some (s.dsp.lc.setWidth 32)
  | 1 => w14 s.dsp.ls
  | 2 => w14 s.dsp.le
  | 3 => w14 s.dsp.ilr
  | 4 => some s.dsp.sr
  | 5 => some (BitVec.ofNat 32 s.clk.raw)
  | 6 => some (BitVec.ofNat 32 s.clk.cyc)
  | 7 => w14 s.iq.pairs[0].rxwp
  | 8 => w14 s.iq.pairs[1].rxwp
  | 9 => w14 s.iq.pairs[0].rxrd
  | 10 => w14 s.iq.pairs[1].rxrd
  | 11 => w14 s.iq.pairs[0].txrd
  | 12 => w14 s.iq.pairs[1].txrd
  | 13 => w14 s.iq.pairs[0].txwp
  | 14 => w14 s.iq.pairs[1].txwp
  | _ => none

/-- A pair of the IQ port changed by f. -/
def modPair (e : Fin 2) (f : IqPair → IqPair) (s : State) : State := { s with iq := { s.iq with pairs := modV s.iq.pairs e f } }

/-- A write of special register n by MOVSD (R336): TLO and BPOS ignore it; a new LS leaves no body in
the loop cache. -/
def setSpecial (n : Nat) (w : Word) (s : State) : State :=
  let v : BitVec 14 := w.setWidth 14
  match n with
  | 0 => modDsp (fun d => { d with lc := w.setWidth 16 }) s
  | 1 => modDsp (fun d => { d with ls := v, cache := [] }) s
  | 2 => modDsp (fun d => { d with le := v }) s
  | 3 => modDsp (fun d => { d with ilr := v }) s
  | 4 => modDsp (fun d => { d with sr := w }) s
  | 7 => modPair 0 (fun p => { p with rxwp := v }) s
  | 8 => modPair 1 (fun p => { p with rxwp := v }) s
  | 9 => modPair 0 (fun p => { p with rxrd := v }) s
  | 10 => modPair 1 (fun p => { p with rxrd := v }) s
  | 11 => modPair 0 (fun p => { p with txrd := v }) s
  | 12 => modPair 1 (fun p => { p with txrd := v }) s
  | 13 => modPair 0 (fun p => { p with txwp := v }) s
  | 14 => modPair 1 (fun p => { p with txwp := v }) s
  | _ => s

/-- A branch is taken after two delay slots (R338). -/
def Dsp.branch (t : BitVec 14) (d : Dsp) : Dsp := { d with branches := d.branches ++ [(2, t)] }

end Sys2Proof.Machine
end

