-- ==== Sys2Proof/Machine/IqPort.lean ====
section
/-! DEFINITION. The IQ port and the PA control (R344 to R350, R362): configuration, rings, armed transmissions, ramps; the
run control of the DSP. -/

namespace Sys2Proof.Machine

/-- May a pair have a mode at a rate (R344)? -/
def modeAllowed (rate mode : Nat) : Bool :=
  match rate, mode with
  | _, 0 => true
  | _, 3 => true
  | 0, 2 => true
  | 1, 1 => true
  | 2, _ => true
  | _, _ => false

/-- A pair's transmission is armed or running (R344, R349). -/
def IqPair.busy (p : IqPair) : Bool := p.arm.isSome || p.fired.isSome || p.tx.isSome

/-- Some transmission is armed or running. -/
def IqPort.busy (q : IqPort) : Bool := q.pairs[0].busy || q.pairs[1].busy

/-- The address of BB_IQ_STATUS (R362). -/
def iqStatusAt : Nat := 0xF050000014

/-- A write to BB_IQ_CFG (R344). -/
def iqCfg (w : Word) (s : State) : State :=
  let v := w.toNat
  let r := bits v 1 0
  if !(modeAllowed r (bits v 5 4) && modeAllowed r (bits v 7 6)) then note iqStatusAt 14 { s with iq := { s.iq with refused := true } }
  else if s.iq.busy then s
  else { s with iq := { s.iq with pendCfg := some (BitVec.ofNat 32 (v &&& 0xF3)) } }

/-- IQ_CFG_WRITE (R344); without effect while the domain is off (R524), as the other writes below. -/
def execIqCfgWrite (w : Word) (s : State) : Host.Outcome State Fault Refusal := .next (if s.hubOn 4 then iqCfg w s else s)

/-- A write to BB_IQ_RINGe (R362). -/
def iqRing (e : Fin 2) (w : Word) (s : State) : State :=
  if s.iq.busy then s else modPair e (fun p => { p with pendRx := some w }) s

/-- A write to BB_IQ_TRINGe (R362). -/
def iqTring (e : Fin 2) (w : Word) (s : State) : State :=
  if s.iq.busy then s else modPair e (fun p => { p with pendTx := some (w &&& 0x0FFFFFFF) }) s

/-- Pending ring settings take effect (R362). -/
def IqPair.commit (p : IqPair) : IqPair :=
  let p := match p.pendRx with
    | none => p
    | some w => { p with
        pendRx := none
        rxBase := BitVec.ofNat 14 (bits w.toNat 13 0)
        rxLen := BitVec.ofNat 14 (bits w.toNat 27 14)
        blockLog := BitVec.ofNat 4 (bits w.toNat 31 28) }
  match p.pendTx with
  | none => p
  | some w => { p with
      pendTx := none
      txBase := BitVec.ofNat 14 (bits w.toNat 13 0)
      txLen := BitVec.ofNat 14 (bits w.toNat 27 14) }

/-- The decision of cycle 249,999 (R349): an armed transmission of the next beat will start in its cycle. -/
def IqPair.decide_ (raw beat cyc : Nat) (p : IqPair) : IqPair :=
  match p.arm with
  | none => p
  | some (b, c) =>
    if b = beat + 1 then { p with arm := none, fired := some (raw + (beatCycles - cyc) + c) } else p

/-- Both pairs decide in the last cycle of a beat (R349). (DEDUCED, log entry 84) -/
def decideArms (s : State) : State :=
  { s with iq := { s.iq with pairs := s.iq.pairs.map (IqPair.decide_ s.clk.raw s.clk.beat s.clk.cyc) } }

/-- What a beat boundary does to the port (R344, R362): pending settings take effect; the IQ PLL starts unlocked when
RATE 3 takes effect and stops with it (R25). -/
def iqBoundary (s : State) : State :=
  let q := s.iq
  let q := match q.pendCfg with
    | none => q
    | some w =>
      let rate := BitVec.ofNat 2 (bits w.toNat 1 0)
      let ps := modV (modV q.pairs 0 fun p => { p with mode := BitVec.ofNat 2 (bits w.toNat 5 4) }) 1
        fun p => { p with mode := BitVec.ofNat 2 (bits w.toNat 7 6) }
      { q with pendCfg := none, rate := rate, pll := q.pll && rate == 3 && q.rate == 3, pairs := ps }
  { s with iq := { q with pairs := q.pairs.map IqPair.commit } }

/-- A write of BB_TXe_ARM with DELTA not 0 (R349): late for the next beat in cycle 249,999. No transmission is armed in
SAFE_STOP (R409, R478): there it has no effect (DEDUCED, log 84). (DEDUCED, log entry 84) -/
def txArm (e : Fin 2) (delta start : Nat) (s : State) : State :=
  if s.dev = .safeStop then s
  else if delta = 1 ∧ s.clk.cyc = beatCycles - 1 then note iqStatusAt (12 + e.1) (modPair e (fun p => { p with armLate := true }) (decideArms s))
  else
    let s := if s.clk.cyc = beatCycles - 1 then decideArms s else s
    modPair e (fun p => { p with arm := some (s.clk.beat + delta, start) }) s

/-- A write of BB_TXe_ARM with DELTA 0 (R349). -/
def txCancel (e : Fin 2) (s : State) : State :=
  let s := if s.clk.cyc = beatCycles - 1 then decideArms s else s
  modPair e (fun p => { p with arm := none }) s

/-- TX_ARM (R349); DELTA 0 is a cancel. -/
def execTxArm (e : Fin 2) (delta : BitVec 8) (start : BitVec 18) (s : State) : Host.Outcome State Fault Refusal :=
  .next (if !s.hubOn 4 then s else if delta = 0 then txCancel e s else txArm e delta.toNat start.toNat s)

/-- TX_CANCEL (R349). -/
def execTxCancel (e : Fin 2) (s : State) : Host.Outcome State Fault Refusal := .next (if s.hubOn 4 then txCancel e s else s)

/-- D[3:0] at edge m of a sample (R345): pair k carries bit 15 − k of the I part at edge 0, four bits less at each edge up to edge 3, then
the Q part alike. I stands in bits 15:0 of the word (R331). -/
def iqEdge (w : Word) (m : Nat) : BitVec 4 :=
  let part : BitVec 16 := if m < 4 then w.setWidth 16 else (w >>> 16).setWidth 16
  (BitVec.ofBoolListLE ((List.range 4).map fun k => part.getLsbD (15 - k - 4 * (m % 4)))).setWidth 4

/-- FRM at edge m of a sample: high for the I half (R345). -/
def iqFrm (m : Nat) : Bool := decide (m < 4)

/-- The sample that 8 edges of D[3:0] carry (R345). -/
def edgesSample (d : Vector (BitVec 4) 8) : Word :=
  (BitVec.ofBoolListLE ((List.range 32).map fun i =>
    (d[Fin.ofNat 8 (4 * (i / 16) + (15 - i % 16) / 4)]).getLsbD ((15 - i % 16) % 4))).setWidth 32

/-- The TX pins of pair e during the sample last read: D[3:0] and FRM at each of its 8 edges (R345); none, a differential zero, while the
pair is OFF (R343) and at RATE 3 until the IQ PLL locks (R344). -/
def IqPort.pins (q : IqPort) (e : Fin 2) : Option (List (BitVec 4 × Bool)) :=
  let p := q.pairs[e]
  if p.mode = 0 ∨ (q.rate = 3 ∧ !q.pll) then none else some ((List.range 8).map fun m => (iqEdge p.sent m, iqFrm m))

/-- The next word of a ring after address a (R347). -/
def ringNext (base len a : BitVec 14) : BitVec 14 :=
  if len = 0 then a else base + BitVec.ofInt 14 (((a.toNat : Int) - base.toNat + 1) % (len.toNat : Int))

/-- A received sample is written (R346 to R348): zero while the receive side is not aligned or the pair transmits; the
first sample of a block leaves its stamp, 40 or 41 cycles back as the clock crossing fell, the last raises the block's
interrupt. -/
def rxSample (e : Fin 2) (w : Word) (s : State) : State :=
  let p := s.iq.pairs[e]
  if p.mode = 0 ∨ p.rxLen = 0 then s
  else
    let w := if s.iq.rclk && p.tx.isNone then w else 0
    let nxt := ringNext p.rxBase p.rxLen p.rxwp
    let first := p.count == 0
    let last := decide (2 ^ p.blockLog.toNat ≤ p.count + 1)
    let back := 40 + b2n (Config.freeBool s.free)
    let s1 := noteIf (nxt == p.rxrd) iqStatusAt (10 + e.1) (writeX p.rxwp.toNat [w] s)
    let s2 := modPair e (fun p => { p with
      rxwp := nxt
      overrun := p.overrun || nxt == p.rxrd
      stamp := if first then BitVec.ofNat 64 (s.clk.raw - back) else p.stamp
      count := if last then 0 else p.count + 1 }) s1
    let s3 := if first then s2.takeFree else s2
    if last then raiseIrq e.1 s3 else s3

/-- IQ_RX_SAMPLE (R345 to R348): the sample that D[3:0] of the pair has carried on its 8 edges. -/
def execIqRxSample (e : Fin 2) (d : Vector (BitVec 4) 8) (s : State) : Host.Outcome State Fault Refusal := .next (rxSample e (edgesSample d) s)

/-- Do samples of the ring leave the pins 40 cycles on (R350, R352)? -/
def Sending.active (raw : Nat) (x : Sending) : Bool :=
  decide (x.u + 4000 ≤ raw + 40) && (match x.e with | none => true | some e => decide (raw + 40 < e))

/-- The port reads a transmit sample (R347, R348): from the ring, or zero with TX_UNDERRUN; zero outside the ring's part
of a transmission; nothing leaves at RATE 3 before the IQ PLL locks (R344). -/
def txSample (e : Fin 2) (s : State) : State :=
  let p := s.iq.pairs[e]
  match p.tx with
  | none => s
  | some x =>
    if !(x.active s.clk.raw) || (s.iq.rate == 3 && !s.iq.pll) then modPair e (fun p => { p with sent := 0 }) s
    else
      let dry := p.txLen == 0 || p.txrd == p.txwp
      let last := decide (2 ^ p.blockLog.toNat ≤ p.txCount + 1)
      let s := noteIf dry iqStatusAt (8 + e.1) <| modPair e (fun p => { p with
        sent := if dry then 0 else Cells.get 0 s.dsp.y p.txrd.toNat
        underrun := p.underrun || dry
        txrd := if dry then p.txrd else ringNext p.txBase p.txLen p.txrd
        txCount := if last then 0 else p.txCount + 1 }) s
      if last then raiseIrq (2 + e.1) s else s

/-- IQ_TX_SAMPLE (R345, R347, R348): `IqPort.pins` gives the edges on which the sample read leaves. -/
def execIqTxSample (e : Fin 2) (s : State) : Host.Outcome State Fault Refusal := .next (txSample e s)

/-- TX_ARM_DECISION (R349). -/
def execTxArmDecision (e : Fin 2) (s : State) : Host.Outcome State Fault Refusal :=
  let s := if s.clk.running then toCycle (beatCycles - 1) s else s
  .next (modPair e (IqPair.decide_ s.clk.raw s.clk.beat s.clk.cyc) s)

/-- A decided transmission whose start comes while the pair still transmits is late (R349). -/
def IqPair.lateFired (raw : Nat) (p : IqPair) : IqPair :=
  match p.fired with
  | none => p
  | some u => if p.tx.isSome && decide (u ≤ raw) then { p with fired := none, armLate := true } else p

/-- The ramp-up begins (R350); a HAWSER pair's last sample ends 244,000 cycles on (R352). An OFF pair carries nothing. -/
def IqPair.begin_ (p : IqPair) : IqPair :=
  match p.fired with
  | none => p
  | some u =>
    if p.tx.isSome then p
    else if p.mode = 0 then { p with fired := none }
    else { p with
      fired := none, paEn := true
      tx := some { u := u, e := if p.mode = 1 then some (u + 244000) else none, step := 0 } }

/-- The raw cycle in which the next PA frame of a transmission ends; a ramp-down not yet due to a known end starts now,
the last sample having ended (R350). -/
def Sending.due (raw : Nat) (x : Sending) : Nat :=
  if x.step < 16 then x.u + 250 * x.step + 160 else x.e.getD raw + 250 * (x.step - 16) + 160

/-- Level k of the ramp. -/
def IqPort.level (q : IqPort) (k : Nat) : BitVec 12 := q.ramp.toList.getD k 0

/-- The PA frame ends: its level is in force; after LEVEL 0, PAe_EN is released (R350). -/
def rampStep (e : Fin 2) (x : Sending) (down : Nat) (s : State) : State :=
  modPair e (fun p => { p with
    level := if x.step < 16 then s.iq.level x.step else if x.step < 32 then s.iq.level (31 - x.step) else 0
    paEn := decide (x.step < 32)
    tx := if x.step < 32 then some { x with step := x.step + 1, e := if x.step < 16 then x.e else some down } else none }) s

/-- PA_RAMP_STEP (R350): the next frame of the pair's transmission, begun with it when its start was decided. -/
def paRamp (e : Fin 2) (s : State) : State :=
  let late := s.iq.pairs[e].fired.isSome && (s.iq.pairs[e].lateFired s.clk.raw).fired.isNone
  let s := noteIf late iqStatusAt (12 + e.1) (modPair e (fun p => (p.lateFired s.clk.raw).begin_) s)
  match s.iq.pairs[e].tx with
  | none => s
  | some x => atCycle (x.due s.clk.raw) s (rampStep e x (x.e.getD s.clk.raw))

/-- PA_RAMP_STEP (R350). -/
def execPaRampStep (e : Fin 2) (s : State) : Host.Outcome State Fault Refusal := .next (paRamp e s)

/-- IQ_PLL_LOCK (R25, R344): the IQ PLL runs only while RATE is 3. -/
def execIqPllLock (s : State) : Host.Outcome State Fault Refusal :=
  .next { s with iq := { s.iq with pll := s.iq.rate == 3 } }

/-- RCLK_LOCK_CHANGE (R346). -/
def execRclkLockChange (locked : Bool) (s : State) : Host.Outcome State Fault Refusal :=
  .next { s with iq := { s.iq with rclk := locked } }

/-- A write of 1 to BB_DSP_CTRL RUN (R362): a stopped DSP starts from address 0; a trapped one needs a write of 0
first (R408). (DESIGN CHOICE, log entry 78) -/
def dspStart (s : State) : State :=
  let d := { s.dsp with ctrlRun := true }
  if d.run = .stopped then
    { s with dsp := { d with run := .running, trap := 0, pc := 0, branches := [], cache := [], shadow := [] } }
  else { s with dsp := d }

/-- A write of 0 to BB_DSP_CTRL RUN (R362): the DSP stops at once. -/
def dspHalt (s : State) : State := { s with dsp := { s.dsp.drain with ctrlRun := false, run := .stopped, branches := [] } }

/-- DSP_RUN (R362). -/
def execDspRun (s : State) : Host.Outcome State Fault Refusal := .next (if s.hubOn 4 then dspStart s else s)

/-- DSP_STOP (R362). -/
def execDspStop (s : State) : Host.Outcome State Fault Refusal := .next (if s.hubOn 4 then dspHalt s else s)

end Sys2Proof.Machine
end

