-- ==== Sys2Proof/Machine/Beat.lean ====
section
/-! DEFINITION. The beat grid (chapter 02): the boundary between two beats with all that takes effect there, the MR4 read and the
ZQ calibration in the reserve, the wake before an owner change, and the tick of the clock. -/

namespace Sys2Proof.Machine

/-! ### Owners (R40, R161, R181, R190, R259) -/

/-- CONTEXT and JOB_ID of the owner of core c in a beat: a job's, 5 for the proof slot, 7 for nobody and a fenced core. -/
def State.coreOwner (s : State) (c beat : Nat) : Fin 8 × Option (BitVec 8) :=
  if s.fenced c then (7, none)
  else if s.proofBeat beat then (5, none)
  else match (s.ownerOf (c / 8) beat).bind s.job with
    | none => (7, none)
    | some j => (Fin.ofNat 8 j.ctx, some j.id)

/-- Does another own core c in the next beat? -/
def State.ownerChanges (s : State) (c : Nat) : Bool := s.coreOwner c s.clk.beat != s.coreOwner c (s.clk.beat + 1)

/-- The banks of a core that are not ON begin to wake. -/
def Core.wakeSleeping (now : Nat) (c : Core) : Core := c.wakeAll now now (List.finRange 32)

/-- OWNER_CHANGE_WAKE (R181): in cycle 249,800, on every core that another owns in the next beat. -/
def ownerChangeWake (s : State) : State :=
  if !s.clk.running then s
  else
    let s := toCycle 249800 s
    { s with cores := s.cores.mapIdx fun i c => if i < 64 && s.ownerChanges i then c.wakeSleeping s.clk.raw else c }

/-- OWNER_CHANGE_WAKE (R181). -/
def execOwnerChangeWake (s : State) : Host.Outcome State Fault Refusal := .next (ownerChangeWake s)

/-! ### Temperature of the memory (R207 to R209) -/

/-- The need that an MR4 rate maps to (R207). -/
def needOf (rate : BitVec 3) : BitVec 2 :=
  if rate.toNat ≤ 3 then 0 else if rate = 4 then 1 else if rate = 5 then 2 else 3

/-- The higher of two codes. -/
def maxBits {w : Nat} (a b : BitVec w) : BitVec w := if a < b then b else a

/-- A channel after its two ranks were read. (DEDUCED, log entry 50) -/
def Chan.readMr4 (x : BitVec 3 × BitVec 3) (c : Chan) : Chan :=
  let r := maxBits x.1 x.2
  { c with rate := r, needNow := needOf r }

/-- The largest need of the part's channels. -/
def State.needAll (s : State) : BitVec 2 :=
  ((s.chans.toList.take s.part.channels).map fun c => c.needNow).foldl maxBits 0

/-- A job's REFRESH_MULT is below the need. -/
def State.tooLow (s : State) (need : BitVec 2) : List (Fin 12 × Job) := s.jobs.all.filter fun x => decide (x.2.hdr.refreshMult < need.toNat)

/-- The REFRESH event of a job, which stops at the next boundary (R57, R58). -/
def refreshEvent (k : Fin 12) (s : State) : State := scheduleStop k { cause := 2, code := 3, at_ := .boundary } (contractEvent 3 (some k) s)

/-- A rise of the need (R57, R208): catch-up REFab on the channels of the jobs it exceeds, their events, and SAFE_STOP at the
boundary when a SAFETY job is among them or the need exceeds 4x. -/
def refreshRise (need : BitVec 2) (s : State) : State :=
  let low := s.tooLow need
  let claims (c : Nat) : Bool := low.any fun x => x.2.started s.clk.beat && x.2.lots.any fun l => l.chan == c && l.beat == x.2.beatAt s.clk.beat
  let s := { s with
    con := { s.con with
             need := need, refreshStop := s.con.refreshStop || need == 3 || low.any (fun x => x.2.isSafety) }
    mem := { s.mem with lowRun := 0, needRun := 0 }
    chans := s.chans.mapIdx fun i c => if claims i then { c with refCnt := c.refCnt + 2 } else c }
  low.foldl (fun s x => refreshEvent x.1 s) s

/-- What a read of all channels does to REFRESH_NEED: a rise at once, a fall after 64 lower reads in a row (R208). -/
def refreshNeed (need : BitVec 2) (s : State) : State :=
  if s.con.need < need then refreshRise need s
  else if need < s.con.need then
    let run := max s.mem.needRun need.toNat
    if 64 ≤ s.mem.lowRun + 1 then
      { s with con := { s.con with need := BitVec.ofNat 2 run }, mem := { s.mem with lowRun := 0, needRun := 0 } }
    else { s with mem := { s.mem with lowRun := s.mem.lowRun + 1, needRun := run } }
  else { s with mem := { s.mem with lowRun := 0, needRun := 0 } }

/-- MR4_READ (R205, R207): once in every beat, in cycle 245,000, unless the device is parked; it takes the command bus of each channel for
the cycle. (DESIGN CHOICE, log entry 33) (DEDUCED, log entry 50) -/
def mr4Read (ops : List (BitVec 3 × BitVec 3)) (s : State) : State :=
  if !s.clk.running || s.parked || s.mem.mr4Beat == some s.clk.beat then s
  else
    let s := toCycle 245000 s
    let read (i : Nat) (c : Chan) : Chan := if s.hasChan i then (match ops[i]? with | none => c | some x => c.readMr4 x) else c
    let s := { s with chans := s.chans.mapIdx fun i c => read i { c with cmdFree := if s.hasChan i then s.clk.raw + 1 else c.cmdFree }, mem := { s.mem with mr4Beat := some s.clk.beat } }
    refreshNeed s.needAll s

/-- MR4_READ (R207, R208). -/
def execMr4Read (ops : List (BitVec 3 × BitVec 3)) (s : State) : Host.Outcome State Fault Refusal := .next (mr4Read ops s)

/-- ZQ_CALIBRATION (R209): the channels are busy from cycle 246,000 to cycle 247,100 of a beat whose number is a multiple of
1,024. -/
def zqCalibration (s : State) : State :=
  if !s.clk.running || s.parked || s.clk.beat % 1024 != 0 then s
  else
    let s := toCycle 246000 s
    let t := s.clk.raw + 247100 - s.clk.cyc
    { s with chans := s.chans.mapIdx fun i c => if s.hasChan i then { c with busFree := max c.busFree t } else c }

/-- ZQ_CALIBRATION (R209). -/
def execZqCalibration (s : State) : Host.Outcome State Fault Refusal := .next (zqCalibration s)

/-! ### Carried slip (R55, R57, R244, R533) -/

/-- The unfinished descriptors of a job on a rill whose cluster another owns in the beat that begins (R244). -/
def State.unfinished (s : State) (r : Fin 32) (k : Fin 12) : List Desc :=
  if s.ownerOf (r.1 / 4) (s.clk.beat - 1) == some k && s.ownerOf (r.1 / 4) s.clk.beat != some k then
    s.rills[r].descs.filter fun d => d.job == k && d.open_
  else []

/-- Does an unfinished descriptor's delay trace to slip (R244): of its rill, its core, a channel of its job in the beat that ends, or a rill
that feeds or drains its basin? (DEDUCED, log entry 49) -/
def State.excused (s : State) (r : Fin 32) (j : Job) (d : Desc) : Bool :=
  decide (0 < s.rills[r].slip) || s.troubledAt r d.job d.slot || (s.cores[d.core r]).lateWork ||
  s.chanSlipIn (s.clk.beat - 1) j ||
  (s.feeders (d.core r) 1 d.basin ++ s.feeders (d.core r) 2 d.basin).any fun x => decide (0 < s.rills[x.1].slip)

/-- What a job carries into the beat that begins, and whether one of its descriptors broke R244. (DEDUCED, log entry 49) -/
def State.carried (s : State) (k : Fin 12) (j : Job) : Carriers × Bool :=
  let c := s.carriers k j (s.clk.beat - 1)
  let undone := (List.finRange 32).map fun r => (r, s.unfinished r k)
  let more := (undone.filter fun x => x.2.any (s.excused x.1 j)).map (·.1)
  ({ c with rills := c.rills ++ more.filter fun r => !c.rills.contains r }, undone.any fun x => x.2.any fun d => !s.excused x.1 j d)

/-- All jobs that carry, with what they carry. -/
abbrev Carrying := List (Fin 12 × Job × Carriers)

/-- The largest slip of any unit (R65). -/
def State.maxSlip (s : State) : Nat :=
  ((s.cores.toList.map fun c => c.seq.slip) ++ (s.rills.toList.map fun r => r.slip) ++ s.chans.toList.map fun c => c.slip).foldl max 0

/-- ISL_SLIP at the end of a beat (R65). -/
def showSlip (s : State) : State :=
  let last : BitVec 16 := satAdd 0 s.maxSlip
  { s with con := { s.con with slipLast := last, slipPeak := maxBits s.con.slipPeak last } }

/-- Would carried entries of a SAFETY job meet the units or lots of job p in the beat that begins (R57)? -/
def State.meetsCarried (s : State) (c : Carriers) (k : Fin 12) (p : Job) : Bool :=
  (c.cores.any fun x => s.ownerOf (x.1 / 8) s.clk.beat == some k) || (c.rills.any fun r => s.ownerOf (r.1 / 4) s.clk.beat == some k) ||
  (p.started s.clk.beat && c.chans.any fun x => p.lots.any fun l => l.chan == x.1 && l.beat == p.beatAt s.clk.beat)

/-- The jobs that the rows of R57 on carried slip stop at this boundary. -/
def State.slipStops (s : State) (cs : Carrying) : List (Fin 12) :=
  let window := s.windowJob s.clk.beat
  let own (k : Fin 12) : Bool := window == some k
  let others := s.jobs.all.filter fun x => !x.2.isSafety
  let third := others.filter fun x => cs.any fun y => y.2.1.isSafety && !own y.1 && s.meetsCarried y.2.2 x.1 x.2
  let fourth := cs.filter fun y => !y.2.1.isSafety && (window.isSome || s.proofBeat s.clk.beat)
  let fifth := if cs.any fun y => s.con.carried.contains y.2.1.id then others.map (·.1) else []
  slotsList.filter fun k => (third.any fun x => x.1 == k) || (fourth.any fun x => x.1 == k) || fifth.contains k

/-- The RESERVE events of a boundary and the stops that they bring (R57, R58). -/
def reserveRows (cs : Carrying) (s : State) : State :=
  let stops := s.slipStops cs
  let s := cs.foldl (fun s x => contractEvent 1 (some x.1) s) s
  let s := { s with con := { s.con with carried := cs.map fun x => x.2.1.id } }
  forJobs (fun k s => finishJob k 2 1 false s) stops s

/-- A MANIFEST event of every job whose descriptors broke R244. -/
def brokenRuns (ks : List (Fin 12)) (s : State) : State := forJobs manifestEvent ks s

/-! ### Stops at the boundary (R68, R269, R424, R425) -/

/-- Is a scheduled stop due at the boundary into the present beat? -/
def State.stopDue (s : State) (j : Job) (r : StopReq) (carries : Bool) : Bool :=
  match r.at_ with
  | .boundary => true
  | .idleBoundary => !carries
  | .windowEnd => (s.clk.beat - 1) % s.cfg.frameBeats == j.hdr.completeBeat

/-- The scheduled stops that are due take effect. -/
def scheduledStops (cs : Carrying) (s : State) : State :=
  s.jobs.all.foldl (fun s x =>
    match x.2.stop with
    | none => s
    | some r =>
      if s.stopDue x.2 r (cs.any fun y => y.1 == x.1) then finishJob x.1 r.cause r.code r.fault s else s) s

/-- SAFE_STOP that follows at a boundary: for the refresh need (R57), or at the end of a frame for THERMAL_LIMIT (R424,
R425). (DEDUCED, log entry 85) -/
def boundarySafeStop (s : State) : State :=
  let s := if s.con.refreshStop && s.dev != .safeStop then safeStop 2 3 false s else s
  let s := { s with con := { s.con with refreshStop := false } }
  if s.beatInFrame == 0 && s.pwr.thermal && s.dev != .safeStop then safeStop 0 (if s.pwr.byEnergy then 4 else 0) false s else s

/-! ### Units -/

/-- A core at a boundary (R55, R95, R174): its slip is zero when nothing is outstanding; the LFSR has its seed, and
no unit has used a basin yet. (DEDUCED, log entry 52) -/
def Core.atBoundary (i beat : Nat) (c : Core) : Core :=
  let idle := decide (i < 64) && !c.owes beat
  { c with
    seq := if idle then { c.seq with slip := 0, permitted := false, held := 0 } else c.seq
    eng := { c.eng with
             lfsr := if c.eng.seed = 0 then 1 else c.eng.seed
             rampAt := if idle then none else c.eng.rampAt }
    basins := c.basins.map fun b => { b with consumer := none, port := none } }

/-- Units without outstanding entries set their slip to zero (R55). -/
def freshSlips (cs : Carrying) (s : State) : State :=
  let busyC (i : Nat) : Bool := cs.any fun x => x.2.2.chans.any fun c => c.1 == i
  let busyR (i : Nat) : Bool := cs.any fun x => x.2.2.rills.any fun r => r.1 == i
  { s with
    cores := s.cores.mapIdx fun i c => c.atBoundary i s.clk.beat
    rills := s.rills.mapIdx fun i r => if busyR i then r else { r with slip := 0, permitted := false, holding := false }
    chans := s.chans.mapIdx fun i c => if busyC i then c else { c with slip := 0, permitted := false, holding := false } }

/-- The cores on which carried entries of a SAFETY job finish first, in the contents they were stated for (R57, R533). -/
def State.keptCores (s : State) (cs : Carrying) : List Nat :=
  cs.flatMap fun x =>
    if x.2.1.isSafety && (s.job x.1).isSome then
      (x.2.2.cores.map fun c => c.1) ++ x.2.2.rills.flatMap fun r => (s.rills[r].descs.filter fun d => d.job == x.1 && d.open_).map fun d => (d.core r).1
    else []

/-- The owner of a core in the beat that begins (R161, R177, R190): the contents of another owner are gone, at once or once
the carried entries have issued. -/
def Core.owned (o : Fin 8 × Option (BitVec 8)) (keep : Bool) (c : Core) : Core :=
  let c := if c.seq.carried then c.clearOwner else c
  if c.seq.context = o.1 ∧ c.seq.owner = o.2 then c
  else
    let c := { c with seq := { c.seq with context := o.1, owner := o.2 } }
    if keep then { c with seq := { c.seq with carried := true } } else c.clearOwner

/-- Owners of all cores in the present beat. (DEDUCED, log entry 48) -/
def giveOwners (cs : Carrying) (s : State) : State :=
  let keep := s.keptCores cs
  { s with cores := s.cores.mapIdx fun i c => if i < 64 then c.owned (s.coreOwner i s.clk.beat) (keep.contains i) else c }

/-! ### Hub and power -/

/-- The coolant sensors are read (R429): what they find is not for the model to say. (DESIGN CHOICE, log entry 80) -/
def readCoolant (s : State) : State :=
  { s with
    free := s.free + 2
    pwr := { s.pwr with
             inlet := (Config.freeWord s.free).setWidth 12, outlet := (Config.freeWord (s.free + 1)).setWidth 12 } }

/-- The slots whose phases a radio engine loses when its domain goes off take the classical path. (DEDUCED, log entry 51) -/
def losePhases (e : Fin 2) (s : State) : State :=
  let r := s.radio[e]
  let es := (match r.phase with | none => [] | some p => [p.e]) ++ r.queue.map (·.e)
  es.foldl (fun s v => endLearned e v 1 s) s

/-- RADIOe is on while its pair is in HAWSER mode (R418, R419): switched off it loses scratchpad, manifest and phases. (DEDUCED, log entry 51) -/
def radioDomain (e : Fin 2) (s : State) : State :=
  let bit := 5 + e.1
  let on := s.dom.hub.getLsbD bit
  if s.iq.pairs[e].mode = 1 then
    if on then s else { s with dom := { s.dom with hub := s.dom.hub ||| BitVec.ofNat 7 (2 ^ bit) } }
  else if on then
    let s := losePhases e s
    let s := modRadio e (fun r => { r with
      active := none, next := none, copying := false, copyPos := 0, copyLanded := 0, phase := none, queue := [] }) s
    modCore (radioUnit e) darkCore { s with dom := { s.dom with hub := s.dom.hub &&& ~~~ (BitVec.ofNat 7 (2 ^ bit)) } }
  else s

/-- The hub at a boundary (R29, R287, R344, R362, R368). -/
def hubBoundary (s : State) : State :=
  radioBoundary 1 (radioBoundary 0 (radioDomain 1 (radioDomain 0 (raiseIrq 4 (iqBoundary s)))))

/-- The power block at a boundary (R423, R425): the hottest reading of the frame that ended, if it has one; the budget of the
frame in cycle 0 of its beat 1. -/
def powerBoundary (s : State) : State :=
  let s := if s.beatInFrame = 0 then
      modPwr (fun p => if p.hot = 0x800 then p else { p with tjMax := p.hot, hot := 0x800 }) s
    else s
  let s := if s.beatInFrame = 1 then modPwr (fun p => { p with budget := s.budgetNow }) s else s
  readCoolant s

/-! ### The boundary -/

/-- What begins with a beat: current frames, periods and work lists, the proof, owners, the hub (R29, R280, R287, R397). -/
def beginBeat (cs : Carrying) (s : State) : State :=
  let s := snsBoundary s
  let s := forJobs beginPeriod (s.jobs.all.map (·.1)) { s with jobs := { s.jobs with listing := s.jobs.all.any fun x => x.2.serving } }
  let s := settleProof s
  let s := if s.beatInFrame = 0 then frameProof s else s
  let s := proofBoundary (powerBoundary s)
  hubBoundary (giveOwners cs s)

/-- The PHY groups and compute dies of a parked device are switched off, and lose what they hold (R224, R418, R419). -/
def parkOff (s : State) : State :=
  if !s.parked || s.dom.uncore == 0 then s
  else { s with
    dom := { s.dom with core := 0, fabric := 0, uncore := 0, phy := 0 }
    cores := s.cores.mapIdx fun i c => if i < 64 then darkCore c else c
    rills := Vector.replicate 32 {} }

/-- Everything that is due on the cores up to the last cycle of the beat takes effect. -/
def settleAll (s : State) : State := (List.finRange 66).foldl (fun s u => settleCore u s) s

/-- The period of a job that has no RILL_OUT to wait for and whose work ends with the present beat: its completion beat, or
the first beat after it that leaves none of the job's entries outstanding. (DEDUCED, log entry 45) -/
def State.silentPeriod (s : State) (k : Fin 12) (j : Job) : Option Nat :=
  if s.outstanding k s.clk.beat then none
  else (j.run.find? fun p => !p.workDone && p.outsLeft == 0 && decide (j.dueBeat p.index ≤ s.clk.beat)).map (·.index)

/-- The work of periods without a RILL_OUT ends in the last cycle of the beat (R72, R245). (DEDUCED, log entry 45) -/
def silentEnds (s : State) : State :=
  s.jobs.all.foldl (fun s x => match s.silentPeriod x.1 x.2 with
    | none => s
    | some idx => workEnd x.1 idx s) s

/-- The boundary itself: the clock is in cycle 0 of the next beat. (DESIGN CHOICE, log entry 3) -/
def crossBoundary (s : State) : State :=
  let s := silentEnds (decideArms (settleAll s))
  let s := if s.jobs.listing then buildLists s else s
  let s := nextCycle { s with clk := { s.clk with raw := s.clk.raw + 1, beat := s.clk.beat + 1, cyc := 0 } }
  let all := s.jobs.all.map fun x => (x, s.carried x.1 x.2)
  let cs : Carrying := (all.filter fun x => !x.2.1.none).map fun x => (x.1.1, x.1.2, x.2.1)
  let broken := (all.filter fun x => x.2.2).map fun x => x.1.1
  let s := showSlip s
  let s := if s.beatInFrame = 0 then frameShares s else s
  let s := scheduledStops cs (brokenRuns broken (reserveRows cs s))
  let s := parkOff (fences (boundarySafeStop s))
  let left := cs.filter fun x => (s.job x.1).any fun j => j.id == x.2.1.id
  if s.clk.running then beginBeat left (freshSlips left s) else s

/-- BEAT_BOUNDARY (R36, R38, R55): the present beat runs to its last cycle and ends. Before the beat clock runs there is
none. -/
def beatBoundary (s : State) : State := if s.clk.running then crossBoundary (toCycle (beatCycles - 1) s) else s

/-- BEAT_BOUNDARY (R55). -/
def execBeatBoundary (s : State) : Host.Outcome State Fault Refusal := .next (beatBoundary s)

/-- One cycle of ACLK while no command waits (R36, R319): the raw time counter counts out of reset, and the last cycle of a
beat ends it. (DESIGN CHOICE, log entry 3) -/
def tick (s : State) : State :=
  if s.rst.episode.isSome then s
  else if !s.clk.running || decide (s.clk.cyc + 1 < beatCycles) then advance 1 s
  else crossBoundary s

end Sys2Proof.Machine
end

