-- ==== Sys2Proof/Machine/Journal.lean ====
section
/-! DEFINITION. The journal (chapter 16): its records and ring, the scan of a start, page programs and erases; what a reader
of the journal finds. -/

namespace Sys2Proof.Machine

/-- NOR offset of the journal region (R446). -/
def journalBase : Nat := 0x01020000

/-- Positions of the ring: 1,024 in each of 766 blocks (R446, R451). -/
def ringSize : Nat := 766 * 1024

/-- Bytes 0x00 to 0x37 of a record (R450). -/
def JRec.body (seq : Word) (r : JRec) : List Byte :=
  natLE 4 seq.toNat ++ natLE 2 r.code ++ natLE 2 r.payload.length ++ natLE 8 r.time.toNat ++ natLE 2 r.episode.toNat ++
  natLE 1 r.state.toNat ++ natLE 1 0 ++ (r.payload ++ List.replicate (36 - r.payload.length) 0)

/-- A whole committed record (R450). (DESIGN CHOICE, log entry 11) -/
def JRec.bytes (seq : Word) (r : JRec) : List Byte :=
  let b := r.body seq
  b ++ wordBytes (crc32c b) ++ natLE 4 0

/-- The bytes at a position of the ring. -/
def posBytes (flash : Memory) (p : Nat) : List Byte := Cells.gets 0xFF flash (journalBase + 64 * p) 64

/-- The positions of the ring that are not erased, ascending. -/
def usedPositions (flash : Memory) : List Nat :=
  let ps := (flash.filter fun c => decide (journalBase ≤ c.1 ∧ c.1 < journalBase + 64 * ringSize)).map fun c => (c.1 - journalBase) / 64
  ps.foldr (fun p l => if l.head? = some p then l else p :: l) []

/-- COMMIT reads zero. -/
def closed (bs : List Byte) : Bool := wordOf bs 15 == 0

/-- CRC matches. -/
def intact (bs : List Byte) : Bool := wordOf bs 14 == (crc32c (bs.take 56)).toNat

/-- The committed records with their positions (R452). -/
def committed (flash : Memory) : List (Nat × List Byte) :=
  ((usedPositions flash).map fun p => (p, posBytes flash p)).filter fun x => closed x.2 && intact x.2

/-- SEQ of a record. -/
def seqOf (bs : List Byte) : Word := BitVec.ofNat 32 (wordOf bs 0)

/-- The committed record with the largest SEQ, by signed difference (R452). -/
def newestRecord (flash : Memory) : Option (Nat × List Byte) :=
  (committed flash).foldl (fun best x => match best with
    | none => some x
    | some (y : Nat × List Byte) => if 0 < (seqOf x.2 - seqOf y.2).toInt then some x else some y) none

/-- The next position from p on that is erased, within its block; the first of the next block when there is none. -/
def nextErased (used : List Nat) : Nat → Nat → Nat
  | 0, p => p
  | n + 1, p => if !used.contains p || p % 1024 == 0 then p else nextErased used n ((p + 1) % ringSize)

/-- The scan of step 2 (R441, R452): SEQ and position to go on with, torn positions; a block that is not wholly erased is
erased before its use. (DEDUCED, log entry 53) -/
def journalScan (s : State) : State :=
  let f := s.boot.flash
  let used := usedPositions f
  let torn := ((used.map (posBytes f)).filter fun b => closed b && !intact b).length
  let (seq, p) := match newestRecord f with
    | none => ((0 : Word), nextErased used 1024 0)
    | some x => (seqOf x.2, nextErased used 1024 ((x.1 + 1) % ringSize))
  let dirty := p % 1024 == 0 && used.any fun q => q / 1024 == p / 1024
  { s with jrnl := { s.jrnl with
    seq := seq, pos := p, torn := satAdd 0 torn, phase := none, erasing := if dirty then some (p / 1024) else none } }

/-- The record number after another (R450): from 1, and 0xFFFF_FFFF is never used. (DEDUCED, log entry 53) -/
def nextSeq (q : Word) : Word := if q = 0xFFFFFFFE then 1 else q + 1

/-- The head of the queue is committed (R451): it leaves the queue, and the first record of a block starts the erase of the
next block. -/
def recordCommitted (s : State) : State :=
  let p := s.jrnl.pos
  { s with jrnl := { s.jrnl with
    queue := s.jrnl.queue.drop 1
    seq := nextSeq s.jrnl.seq
    phase := none
    pos := (p + 1) % ringSize
    erasing := if p % 1024 = 0 then some ((p / 1024 + 1) % 766) else s.jrnl.erasing } }

/-- A page-program operation of the head of the queue completes (R451): the record, its CRC, its COMMIT. (DEDUCED, log entry 53) -/
def programDone (s : State) : State :=
  match s.jrnl.queue with
  | [] => s
  | r :: _ =>
    if !s.journaling || s.jrnl.erasing == some (s.jrnl.pos / 1024) then s
    else
      let a := journalBase + 64 * s.jrnl.pos
      let bs := r.bytes (nextSeq s.jrnl.seq)
      let put (o n : Nat) (s : State) : State :=
        { s with boot := { s.boot with flash := Cells.puts 0xFF s.boot.flash (a + o) ((bs.drop o).take n) } }
      match s.jrnl.phase with
      | none => { put 0 56 s with jrnl := { s.jrnl with phase := some 1 } }
      | some 0 => { put 0 56 s with jrnl := { s.jrnl with phase := some 1 } }
      | some 1 => { put 56 4 s with jrnl := { s.jrnl with phase := some 2 } }
      | some 2 => recordCommitted (put 60 4 s)

/-- JOURNAL_PROGRAM_DONE (R451). -/
def execJournalProgramDone (s : State) : Host.Outcome State Fault Refusal := .next (programDone s)

/-- JOURNAL_ERASE_DONE (R451): a removal suspends every erase (R478). -/
def execJournalEraseDone (s : State) : Host.Outcome State Fault Refusal :=
  .next (match s.jrnl.erasing with
    | none => s
    | some b =>
      if !s.atStep 3 || s.jrnl.removal.isSome then s
      else { s with
        boot := { s.boot with flash := Cells.clear s.boot.flash (journalBase + 65536 * b) 65536 }
        jrnl := { s.jrnl with erasing := none } })

/-- A record put among others in order of SEQ. -/
def insertRec (first : Word) (x : List Byte) : List (List Byte) → List (List Byte)
  | [] => [x]
  | y :: ys => if (seqOf y - first).toNat ≤ (seqOf x - first).toNat then y :: insertRec first x ys else x :: y :: ys

/-- The committed records with SEQ at or after a number, ascending, at most n (R468, R498). -/
def readJournal (flash : Memory) (first : Word) (n : Nat) : List (List Byte) :=
  let rs := ((committed flash).map (·.2)).filter fun x => decide (0 ≤ (seqOf x - first).toInt)
  (rs.foldl (fun l x => insertRec first x l) []).take n

end Sys2Proof.Machine
end

