-- ==== Sys2Proof/Machine/Boot.lean ====
section
/-! DEFINITION. Starting (chapter 16): the boot image and its checks (R447, R485), the configuration block (R448, R449), the release
of reset and the steps of BOOTING (R441 to R445), the boot-flash operations (R463, R500). -/

namespace Sys2Proof.Machine

/-! ### The boot image (R446, R447, R485, R534) -/

/-- A byte of the boot-image region: as written since manufacture, otherwise that of the production image. (DEDUCED, log entry 56) -/
def State.imageByte (s : State) (a : Nat) : Byte :=
  if s.boot.reflashed.contains (a / 65536) then Cells.get 0xFF s.boot.flash a else Config.production.getD a 0xFF

/-- n bytes of the region. -/
def State.imageBytes (s : State) (a n : Nat) : List Byte := (List.range n).map fun i => s.imageByte (a + i)

/-- A section of the boot image. -/
structure ImgSection where
  kind : Nat
  off  : Nat
  len  : Nat
  deriving DecidableEq, Repr

/-- A boot image read: key slot, security version, length, sections. -/
structure Image where
  slot    : Fin 4
  version : Nat
  len     : Nat
  secs    : List ImgSection
  deriving DecidableEq, Repr

/-- The sections of one type. -/
def Image.ofKind (g : Image) (t : Nat) : List ImgSection := g.secs.filter fun x => x.kind == t

/-- Counts, lengths and places of the sections (R447). -/
def Image.legal (g : Image) : Bool :=
  (g.ofKind 1).length == 1 && (g.ofKind 2).length == 1 && (g.ofKind 6).length == 1 &&
  (g.ofKind 3).length ≤ 1 && (g.ofKind 4).length ≤ 1 && (g.ofKind 5).length ≤ 1 &&
  (g.secs.all fun x =>
    (if x.kind = 1 then decide (x.len ≤ 4194304)
     else if x.kind = 2 then x.len == 65536
     else if x.kind = 3 ∨ x.kind = 4 then decide (x.len ≤ 65536)
     else if x.kind = 5 then decide (x.len ≤ 16384)
     else x.kind == 6 && x.len == 1312) &&
    x.off % 4 == 0 && decide (0x40 + 16 * g.secs.length ≤ x.off ∧ x.off + x.len ≤ g.len)) &&
  ((g.secs.map fun x => x.off + x.len).foldl max 0) == g.len && decide (g.len + 2420 ≤ 16777216)

/-- The header and section table of an image, by its bytes; none when they breach R447. -/
def readImage (rd : Nat → Nat → List Byte) : Option Image :=
  let h := rd 0 64
  let w (k : Nat) : Nat := wordOf h k
  let n := bits (w 1) 31 16
  let t := rd 64 (16 * min n 16)
  let e (i k : Nat) : Nat := wordOf t (4 * i + k)
  let g : Image :=
    { slot := Fin.ofNat 4 (bits (w 2) 9 8), version := w 3, len := w 4
      secs := (List.range (min n 16)).map fun i => { kind := bits (e i 0) 7 0, off := e i 1, len := e i 2 } }
  let zero := (h.drop 0x14).all (· == 0) && (List.range (min n 16)).all fun i => bits (e i 0) 31 8 == 0 && e i 3 == 0
  if w 0 == 0x4B424F54 && bits (w 1) 15 0 == 1 && decide (1 ≤ n ∧ n ≤ 16) && bits (w 2) 7 0 == idStep && bits (w 2) 31 10 == 0 &&
      zero && g.legal then some g else none

/-- The boot-image region stands as manufacture left it (R534). (DEDUCED, log entry 58) -/
def State.asMade (s : State) : Bool := s.boot.reflashed.all fun b => decide (256 ≤ b)

/-- The image in the flash; that of manufacture is signed with the key of slot 0, whatever its bytes are (R534). (DEDUCED, log entry 56) -/
def State.flashImage (s : State) : Option Image :=
  if s.asMade then
    let bs := Config.production
    let rd (a n : Nat) : List Byte := (bs.drop a).take n
    some { slot := 0, version := wordOf (rd 0 16) 3, len := bs.length - 2420
           secs := match readImage rd with | none => [] | some g => g.secs }
  else readImage s.imageBytes

/-- Context string of a boot image's signature (R481). -/
def bootContext : List Byte := [0x4B, 0x36, 0x34, 0x42, 0x4F, 0x4F, 0x54, 0x31]

/-- The checks of R485 on an image: the code of the first that fails, 0 when all pass. (DEDUCED, log entry 58) -/
def imageCode (s : State) (g : Image) : Nat :=
  let k := s.sec.slots[g.slot]
  if !k.valid then 2
  else if s.sec.revoked.getLsbD g.slot.1 then 3
  else if s.asMade then (if g.version < s.sec.secverMin then 5 else 0)
  else
    match (g.ofKind 6).head? with
    | none => 1
    | some x =>
      let key := s.imageBytes x.off x.len
      if sha3 key != k.hash then 4
      else if g.version < s.sec.secverMin then 5
      else if Config.mldsaVerify bootContext key (s.imageBytes 0 g.len) (s.imageBytes g.len 2420) then 0 else 6

/-- FLASH_VERIFY and step 4 of BOOTING (R485). -/
def imageCheck (s : State) : Nat :=
  match s.flashImage with
  | none => 1
  | some g => imageCode s g

/-! ### The configuration block (R448, R449) -/

/-- The fields of a configuration block. -/
def cfgOf (bs : List Byte) : BootCfg :=
  let w (k : Nat) : Nat := wordOf bs k
  { frameBeats := bits (w 2) 8 0, proofBeats := bits (w 2) 14 12, reserveKcyc := bits (w 2) 23 16, strict := bitOf (w 3) 0
    timeSource := bitOf (w 3) 4, timePorts := BitVec.ofNat 4 (bits (w 3) 11 8), ethPorts := BitVec.ofNat 4 (bits (w 3) 15 12)
    uartBaud := BitVec.ofNat 4 (bits (w 3) 19 16), loadBpsk := BitVec.ofNat 16 (bits (w 4) 15 0)
    loadQpsk := BitVec.ofNat 16 (bits (w 4) 31 16) }

/-- Every field in its range. -/
def BootCfg.inRange (c : BootCfg) : Bool :=
  decide (8 ≤ c.frameBeats ∧ c.frameBeats ≤ 400 ∧ 1 ≤ c.proofBeats ∧ c.proofBeats ≤ 4 ∧ 5 ≤ c.reserveKcyc ∧ c.reserveKcyc ≤ 50) &&
  c.timePorts &&& ~~~c.ethPorts == 0 && decide (c.uartBaud.toNat ≤ 5) && decide (c.loadBpsk < c.loadQpsk)

/-- The cause for which a block is rejected, 0 for none (R449, R455). -/
def cfgCause (bs : List Byte) : Nat :=
  let w (k : Nat) : Nat := wordOf bs k
  if w 0 != 0x4B434647 || bits (w 1) 15 0 != 1 then 1
  else if wordOf bs 63 != (crc32c (bs.take 252)).toNat then 2
  else if !(cfgOf bs).inRange then 3
  else if bits (w 1) 31 16 != 0 || bits (w 2) 11 9 != 0 || bits (w 2) 15 15 != 0 || bits (w 2) 31 24 != 0 || bits (w 3) 3 1 != 0 ||
      bits (w 3) 7 5 != 0 || bits (w 3) 31 20 != 0 || !((bs.drop 0x14).take 232).all (· == 0) then 4
  else 0

/-! ### Pins (R439, R441, R478) -/

/-- The pins that the device drives in its state: all high-impedance in reset, and those of the card, Ethernet and IQ while the
gangway is released. -/
def drivePins (s : State) : State :=
  let out := s.rst.episode.isNone
  let here := out && !s.rst.removal && !s.rst.absent
  let late := s.dev != .moored && s.dev != .booting
  let stopped := s.rst.lockstep || s.rst.clockFault
  let step3 := s.atStep 3
  { s with pins := { s.pins with
    uart := out && step3 && !stopped, sdio := here && step3 && !stopped, ether := here && late && !stopped
    iq := here && late && !stopped, csi := out && late && !stopped } }

/-! ### The release of reset (R437, R441 to R445) -/

/-- The backup domain after its supply was lost (R445). -/
def backupCheck (s : State) : State :=
  if s.boot.bkpValid then s
  else { s with
    boot := { s.boot with
              tally := 0, rstReach := 0, seenPor := true, seenMrst := false, seenWdt := false, wdtCause := 0, episodes := 0
              glitches := 0, bkpValid := true, bkpLost := true }
    mem := { s.mem with parkValid := false, supplyLost := false, loadActive := false, parkRecord := 0, retained := [] } }

/-- The episode that ends is recorded and counted (R436, R455); the time counter starts from 0 (R319). (DESIGN CHOICE, log entry 55) -/
def endEpisode (e : Episode) (s : State) : State :=
  { s with
    clk := {}
    dev := .booting
    rst := { s.rst with episode := none }
    boot := { s.boot with
              startReach := BitVec.ofNat 2 e.reach.1, rstReach := BitVec.ofNat 2 e.reach.1, seenPor := e.seenPor
              seenMrst := e.seenMrst, seenWdt := e.seenWdt, wdtCause := if e.seenWdt then e.wdtCause else 0
              episodes := s.boot.episodes + 1 } }

/-- The record of the reset episode (R441, R450). -/
def episodeRecord (s : State) : State :=
  journal 1 [s.boot.rstReach.toNat, b2n s.boot.seenPor, b2n s.boot.seenMrst, b2n s.boot.seenWdt, s.boot.wdtCause.toNat] s

/-- Step 3: the configuration is read, measured and applied (R441, R448, R449, R486). -/
def configure (s : State) : State :=
  let bs := Cells.gets 0xFF s.boot.flash 0x01000000 256
  let c := cfgCause bs
  let cfg := if c = 0 then cfgOf bs else {}
  let s := { s with
    cfg := cfg
    boot := { s.boot with cfgDefaulted := c != 0, cfgCause := BitVec.ofNat 3 c, step := 3 }
    sec := { s.sec with mCfg := sha3 bs }
    time := { s.time with state := if cfg.timeSource then 4 else 0 } }
  drivePins (if c = 0 then s else journal 6 [c] s)

/-- The words of a section of the image, from word 0 of a memory on (R447). -/
def sectionCells (s : State) (g : Image) (t : Nat) : Cells 32 :=
  match (g.ofKind t).head? with
  | none => []
  | some x => Cells.puts 0 [] 0 (bytesWords (s.imageBytes x.off x.len))

/-- Steps 4 and 5: the image that passes its checks runs; its measurement, key slot and version; the DSP memories (R441,
R486). -/
def loadImage (g : Image) (s : State) : State :=
  { s with
    boot := { s.boot with step := 6, interval := 0 }
    sec := { s.sec with runSlot := BitVec.ofNat 2 g.slot.1, secVersion := BitVec.ofNat 32 g.version, mFw := sha3 (s.imageBytes 0 g.len) }
    dsp := { s.dsp with prog := sectionCells s g 2, x := sectionCells s g 3, y := sectionCells s g 4, c := sectionCells s g 5 } }

/-- Steps 1 to 5 of BOOTING, which the release of reset begins (R441). (DEDUCED, log entry 54) -/
def startSteps (norOk : Bool) (s : State) : State :=
  if s.boot.tally = 4 then drivePins (setDev .moored s)
  else
    let s := { s with boot := { s.boot with tally := s.boot.tally + 1, step := 2 } }
    if !norOk then failStart 2 1 s
    else
      let s := configure (episodeRecord (journalScan s))
      let s := { s with boot := { s.boot with step := 4 } }
      match s.flashImage with
      | none => failStart 4 1 s
      | some g => if imageCode s g = 0 then loadImage g s else failStart 4 (imageCode s g) s

/-- Reset is released once no source is asserted (R434, R437); what it holds has its reset value until then (R432). (DEDUCED, log entry 54) -/
def resetRelease (norOk : Bool) (s : State) : State :=
  match s.rst.episode with
  | none => s
  | some e =>
    if s.rst.supplyLow || s.rst.absent || s.rst.mrst || s.rst.wdt || !s.rst.refclk then s
    else startSteps norOk (endEpisode e (backupCheck (clearFor e.reach.1 s)))

/-- RESET_RELEASE (R437, R441). (DESIGN CHOICE, log entry 6) -/
def execResetRelease (norOk : Bool) (s : State) : Host.Outcome State Fault Refusal := .next (resetRelease norOk s)

/-! ### Steps 6 to 10 -/

/-- Step n of BOOTING runs. -/
def State.booting (s : State) (n : Nat) : Bool := s.rst.episode.isNone && s.dev == .booting && s.boot.step == n

/-- The domains that an interval of step 6 switches on (R441). -/
def intervalDomains (n : Nat) (s : State) : Domains :=
  let d := s.dom
  if n = 0 then { d with uncore := 3, phy := if s.part = .l512 then 15 else 3, hub := d.hub ||| 0x14 }
  else if n = 1 then { d with fabric := 0xFF }
  else if n ≤ 9 then { d with core := d.core ||| BitVec.ofNat 64 (255 * 2 ^ (8 * (n - 2))) }
  else if s.cfg.ethPorts = 0 then d
  else { d with hub := d.hub ||| 8 }

/-- The next interval of step 6 begins (R419, R441); after interval 10 the memory is trained. -/
def bootInterval (s : State) : State :=
  if !s.booting 6 then s
  else
    let n := s.boot.interval
    let at_ := if n = 0 then (s.clk.raw + 249999) / 250000 * 250000 else (s.clk.raw / 250000 + 1) * 250000
    { s with
      clk := { s.clk with raw := at_ }
      dom := intervalDomains n s
      boot := { s.boot with interval := n + 1, step := if n = 10 then 7 else 6 } }

/-- BOOT_INTERVAL (R441). -/
def execBootInterval (s : State) : Host.Outcome State Fault Refusal := .next (bootInterval s)

/-- The elements of a list whose index is not named. -/
def without {α : Type} (bad : List (Fin 512)) (l : List α) : List α :=
  (l.zipIdx.filter fun x => !bad.any fun b => b.1 == x.2).map (·.1)

/-- DRAM after a start without self-refresh (R227): a byte that was written is nothing that can be said. (DESIGN CHOICE, log entry 5) -/
def lostDram (free : Nat) (m : Memory) : Memory := (m.map fun c => (c.1, Config.freeByte (free + c.1))).filter fun c => c.2 != 0

/-- Step 7 (R226, R227, R441): training; a warm start keeps DRAM and restores the extent table without the extents in which a
line was uncorrectable, another start begins with none, and DRAM is then undefined. -/
def trainingDone (ok : Bool) (bad : List (Fin 512)) (s : State) : State :=
  if !s.booting 7 then s
  else if !ok then failStart 7 1 s
  else if s.mem.parkValid then
    { s with
      boot := { s.boot with step := 8, warm := true }
      mem := { s.mem with warm := true, extents := without bad s.mem.retained } }
  else { s with
    free := s.free + 2 ^ 40
    boot := { s.boot with step := 8 }
    mem := { s.mem with dram := lostDram s.free s.mem.dram, extents := [] } }

/-- DRAM_TRAINING_DONE (R226, R441). -/
def execDramTrainingDone (ok : Bool) (bad : List (Fin 512)) (s : State) : Host.Outcome State Fault Refusal :=
  .next (trainingDone ok bad s)

/-- Step 8 (R398, R400, R402): 24 golden tiles on every core; a clean core is proven, another has its engine event. -/
def selfTestDone (dirty : List (Fin 64)) (s : State) : State :=
  if !s.booting 8 then s
  else
    let count (c : Core) : Core := { c with
      eng := { c.eng with passCnt := c.eng.passCnt + 24 }
      vec := { c.vec with cascCnt := c.vec.cascCnt + 24 } }
    let s := { s with boot := { s.boot with step := 9 }, cores := s.cores.mapIdx fun i c => if i < 64 then count c else c }
    (List.finRange 64).foldl (fun s c =>
      if dirty.contains c then engineEvent c 2 (raiseFault 2 c.1 0 none s) else proven c s) s

/-- SELF_TEST_DONE (R398, R441). -/
def execSelfTestDone (dirty : List (Fin 64)) (s : State) : Host.Outcome State Fault Refusal := .next (selfTestDone dirty s)

/-- The owners of beat 0: nothing comes before them. (DEDUCED, log entry 57) -/
def firstOwners (s : State) : State :=
  { s with cores := s.cores.mapIdx fun i c =>
      if i < 64 then (let o := s.coreOwner i 0; { c with seq := { c.seq with context := o.1, owner := o.2 } }) else c }

/-- A load that a reset had cut is reported (R223). -/
def reportCutLoad (s : State) : State :=
  if !s.mem.loadActive then s
  else emitLoad { s with mem := { s.mem with loadState := 3, loadCause := 4, loadRecord := s.mem.parkRecord, loadActive := false } }

/-- Step 10 (R36, R223, R226, R292, R441, R443): READY; the beat clock starts, cycle 0 of beat 0. (DEDUCED, log entry 57) -/
def enterReady (s : State) : State :=
  if !s.booting 9 then s
  else
    let s := { s with
      boot := { s.boot with tally := 0, step := 0 }
      clk := { raw := s.clk.raw, running := true, beat := 0, cyc := 0 }
      det := { s.det with strict := s.cfg.strict }
      mem := { s.mem with parkValid := false } }
    let s := reportCutLoad (drivePins (setDev .ready (journal 2 [0, 0] (dspStart s))))
    firstOwners (proofBoundary (readCoolant (freshSlips [] s)))

/-- ENTER_READY (R36, R441). (DESIGN CHOICE, log entry 6) -/
def execEnterReady (s : State) : Host.Outcome State Fault Refusal := .next (enterReady s)

/-! ### Boot-flash operations (R444, R463, R468, R500) -/

/-- A block is erased and programmed with bytes. -/
def flashBlock (off : Nat) (bs : List Byte) (s : State) : State :=
  { s with boot := { s.boot with
    flash := Cells.puts 0xFF (Cells.clear s.boot.flash off 65536) off bs
    reflashed := off / 65536 :: s.boot.reflashed.filter (· != off / 65536) } }

/-- A check of the flash: its code; a pass in MOORED sets BOOT_TALLY to 0; a record of CODE 0x08 (R444, R468). -/
def verifyFlash (s : State) : Nat × State :=
  let c := imageCheck s
  let s := if c = 0 ∧ s.dev = .moored then { s with boot := { s.boot with tally := 0 } } else s
  (c, journal 8 [c] s)

end Sys2Proof.Machine
end

