-- ==== Sys2Proof/Machine/Reset.lean ====
section
/-! DEFINITION. The sources of reset and the supplies (chapters 16, 17, 20): the meanings of the rows that assert, widen and
release them, the removal of the module, the faults that end in a reset. -/

namespace Sys2Proof.Machine

/-! ### Supplies (R430, R477, R510, R521) -/

/-- The part of the reset controller that is changed by f. -/
def modRst (f : ResetCtl → ResetCtl) (s : State) : State := { s with rst := f s.rst }

/-- POWER_ON (R430): the ISLAND supply is below its threshold, the main input being gone. (DESIGN CHOICE, log entry 36) -/
def execPowerOn (s : State) : Host.Outcome State Fault Refusal :=
  .next (acceptSource .por { s with pins := { s.pins with mainIn := false }, rst := { s.rst with supplyLow := true } })

/-- POWER_GOOD (R477, R511): the input has reached 36 V behind the switch, and every rail is in regulation; a switch that the cold
plate holds open lets no power through (R520). -/
def execPowerGood (s : State) : Host.Outcome State Fault Refusal :=
  .next (if s.pins.plateHot then s
    else { s with pins := { s.pins with mainIn := true, inputOn := true }, rst := { s.rst with supplyLow := false } })

/-- BACKUP_SUPPLY_LOSS (R226, R445, R510): with the main input absent nothing holds the backup domain; its validity word is lost, and
a parked device clears PARK_VALID and sets SUPPLY_LOST. (DESIGN CHOICE, log entry 36) -/
def execBackupSupplyLoss (s : State) : Host.Outcome State Fault Refusal :=
  .next (if s.pins.mainIn then s
    else noteIf s.mem.parkValid 0xF030000020 1 { s with
      boot := { s.boot with bkpValid := false }
      mem := { s.mem with parkValid := false, supplyLost := s.mem.supplyLost || s.mem.parkValid } })

/-- MAIN_INPUT_RETURN (R521): the BKP domain changes over to the main input and keeps what it holds. -/
def execMainInputReturn (s : State) : Host.Outcome State Fault Refusal :=
  .next { s with pins := { s.pins with mainIn := true } }

/-! ### Pins (R434, R435) -/

/-- MRST_N_ASSERT (R430, R435, R436); without REFCLK nothing is sampled (R434). -/
def execMrstAssert (s : State) : Host.Outcome State Fault Refusal :=
  .next (if s.rst.refclk then acceptSource .mrst (modRst (fun r => { r with mrst := true }) s) else s)

/-- MRST_N_RELEASE (R435). -/
def execMrstRelease (s : State) : Host.Outcome State Fault Refusal :=
  .next (if s.rst.refclk then modRst (fun r => { r with mrst := false }) s else s)

/-- RESET_GLITCH (R435): counted in GLITCHES, and nothing else. -/
def execResetGlitch (s : State) : Host.Outcome State Fault Refusal :=
  .next (if s.rst.refclk then { s with boot := { s.boot with glitches := satInc s.boot.glitches } } else s)

/-- PRSNT_N_ASSERT (R435, R478): the presence part of power-on ends, and so does a removal still within its 1 ms: the pins
return to what the state gives them. -/
def execPrsntAssert (s : State) : Host.Outcome State Fault Refusal :=
  .next (if !s.rst.refclk then s
    else drivePins { s with
      rst := { s.rst with absent := false, removal := false }
      jrnl := { s.jrnl with removal := none } })

/-! ### Removal (R478, R521) -/

/-- The record of a removal stands behind the record that is being written, before every other; in a full queue it is dropped
(R454, R478). `before` is the queue as the removal found it. -/
def removalRecord (before : List JRec) (left jobs : Nat) (s : State) : State :=
  let r := s.jrec 7 [left, jobs]
  let q := s.jrnl.queue
  if 64 ≤ q.length then
    { s with jrnl := { s.jrnl with dropped := satInc s.jrnl.dropped, removal := some (before.headD r) } }
  else
    let n := min 1 before.length
    { s with jrnl := { s.jrnl with queue := q.take n ++ r :: q.drop n, removal := some r } }

/-- The removal actions that the island takes outside MOORED and BOOTING (R478): SAFE_STOP with cause REMOVAL, the command in
progress abandoned (R479), the record. -/
def removalActions (s : State) : State :=
  let left := s.dev.code
  let n := s.jobCount
  let before := s.jrnl.queue
  let s := cutStore s.free (safeStop 9 0 false s)
  removalRecord before left n { s with
    free := s.free + 65536
    host := { s.host with busy := false, reply := none, header := [] } }

/-- PRSNT_N_RELEASE (R478, R521): in a reset episode every pin is high-impedance already, and the actions of the island are not
taken. -/
def prsntRelease (s : State) : State :=
  if !s.rst.refclk || s.rst.removal || s.rst.absent then s
  else
    let s := if s.rst.episode.isNone && s.dev != .moored && s.dev != .booting then removalActions s else s
    drivePins (modRst (fun r => { r with removal := true }) s)

/-- PRSNT_N_RELEASE (R478). -/
def execPrsntRelease (s : State) : Host.Outcome State Fault Refusal := .next (prsntRelease s)

/-- REMOVAL_POWER_ON (R478): 1 ms after the removal, PRSNT_N still released. -/
def execRemovalPowerOn (s : State) : Host.Outcome State Fault Refusal :=
  .next (if s.rst.removal then acceptSource .por (modRst (fun r => { r with removal := false, absent := true }) s) else s)

/-! ### The watchdog (R431) -/

/-- A watchdog cause arises while the device is out of reset and REFCLK is present. -/
def watchdogIf (c : Bool) (cause : BitVec 4) (s : State) : State :=
  if c && s.rst.episode.isNone && s.rst.refclk then watchdog cause s else s

/-- WATCHDOG_TIMEOUT (R431). -/
def execWatchdogTimeout (s : State) : Host.Outcome State Fault Refusal := .next (watchdogIf true 0 s)

/-- BOOT_TIMEOUT (R431, R443): the start does not reach READY, so BOOT_TALLY stays counted up. -/
def execBootTimeout (s : State) : Host.Outcome State Fault Refusal := .next (watchdogIf (s.dev == .booting) 5 s)

/-- RESET_REQUEST_TIMER (R431, R468, R498): 1 ms after the reply to a RESET. -/
def execResetRequestTimer (s : State) : Host.Outcome State Fault Refusal := .next (watchdogIf s.rst.hostReset 3 s)

/-- WATCHDOG_RELEASE (R430): after 32 REFCLK cycles. -/
def execWatchdogRelease (s : State) : Host.Outcome State Fault Refusal :=
  .next (if s.rst.refclk then modRst (fun r => { r with wdt := false }) s else s)

/-! ### Faults of the island and its clocks (R408, R434, R513) -/

/-- The fault, SAFE_STOP, and every output stopped in hardware; where the fault is a failed start its reset has begun. -/
def haltFault (code cause : Nat) (f : ResetCtl → ResetCtl) (s : State) : State :=
  let s := safeStop cause code true (raiseFault code 0 0 none s)
  if s.rst.episode.isSome then s else drivePins (modRst f s)

/-- LOCKSTEP_MISMATCH (R408). -/
def execLockstepMismatch (s : State) : Host.Outcome State Fault Refusal :=
  .next (if s.rst.episode.isSome || s.rst.lockstep then s else haltFault 0x0D 6 (fun r => { r with lockstep := true }) s)

/-- LOCKSTEP_RESET (R431): 10 µs after the mismatch. -/
def execLockstepReset (s : State) : Host.Outcome State Fault Refusal := .next (watchdogIf s.rst.lockstep 1 s)

/-- The CLOCK fault (R408): outputs stop at once, and the watchdog reset comes when REFCLK is present. -/
def clockFault (s : State) : State :=
  if s.rst.episode.isSome || s.rst.clockFault then s
  else
    let s := haltFault 0x0E 7 (fun r => { r with clockFault := true }) s
    watchdogIf s.rst.clockFault 2 s

/-- CLOCK_FAULT (R408): an ACLK or HCLK PLL out of lock. -/
def execClockFault (s : State) : Host.Outcome State Fault Refusal := .next (clockFault s)

/-- REFCLK_LOSS (R434, R513). -/
def execRefclkLoss (s : State) : Host.Outcome State Fault Refusal :=
  .next (clockFault (modRst (fun r => { r with refclk := false }) s))

/-- REFCLK_RETURN (R431, R434): sampling resumes, and a CLOCK fault has its reset. -/
def execRefclkReturn (s : State) : Host.Outcome State Fault Refusal :=
  .next (watchdogIf s.rst.clockFault 2 (modRst (fun r => { r with refclk := true }) s))

/-- PLL_LOCK_TIMEOUT (R437): the release sequence starts again at its cycle 64; reset stays asserted, and every register stays as
it is. -/
def execPllLockTimeout (s : State) : Host.Outcome State Fault Refusal := .next s

end Sys2Proof.Machine
end

