-- ==== Sys2Proof/Machine/Security.lean ====
section
/-! DEFINITION. Fuses, measurements and attestation (chapter 18): the fuse operations (R484), M_MAN (R486), the identity
certificate (R487), the report (R490). -/

namespace Sys2Proof.Machine

/-! ### Fuses (R482 to R484) -/

/-- A slot is DAMAGED (R483). -/
def KeySlot.damaged (k : KeySlot) : Bool := k.burnt && !k.valid

/-- The security block changed by f. -/
def modSec (f : Security → Security) (s : State) : State := { s with sec := f s.sec }

/-- The bits of the four slots that a property marks. -/
def Security.mask (f : KeySlot → Bool) (x : Security) : Nat := pack (x.slots.toList.zipIdx.map fun k => (b2n (f k.1), k.2))

/-- BOOT_KEY_STATE (R492). -/
def State.keyState (s : State) : Word :=
  packW [(s.sec.mask (·.valid), 0), (s.sec.revoked.toNat, 4), (s.sec.mask KeySlot.damaged, 8), (s.sec.runSlot.toNat, 12),
    (s.sec.secverMin, 16), (b2n s.sec.fuseOp.isSome, 24)]

/-- Refused by the state (R484). -/
def State.noFuses (s : State) : Bool := s.rst.episode.isSome || s.dev != .ready || s.published.jobCount != 0 || s.sec.fuseOp.isSome

/-- A fuse write with a key: ignored, refused by the state, refused by a rule, or accepted (R484). (DEDUCED, log entry 62) -/
def fuseWrite (key : BitVec 16) (broken : Bool) (op : FuseOp) (s : State) : State :=
  if s.rst.episode.isSome || key != 0x4B46 then s
  else if s.noFuses then modSec (fun x => { x with result := 2 }) s
  else if broken then modSec (fun x => { x with result := 3 }) s
  else modSec (fun x => { x with fuseOp := some op }) s

/-- The hash that BOOT_FUSE_DATA holds. -/
def Security.dataHash (x : Security) : List Byte := x.fuseData.toList.flatMap wordBytes

/-- OP 1 (R484). (DEDUCED, log entry 62) -/
def fuseProgram (key : BitVec 16) (k : Fin 4) (s : State) : State :=
  let x := s.sec
  let slot := x.slots[k]
  fuseWrite key (slot.valid || slot.burnt || x.fuseData.all (· == 0)) (.program k x.dataHash) s

/-- FUSE_PROGRAM (R484). -/
def execFuseProgram (key : BitVec 16) (k : Fin 4) (s : State) : Host.Outcome State Fault Refusal := .next (fuseProgram key k s)

/-- OP 2 (R484). -/
def fuseRevoke (key : BitVec 16) (k : Fin 4) (s : State) : State :=
  let x := s.sec
  let good (i : Fin 4) : Bool := (x.slots[i]).valid && !x.revoked.getLsbD i.1
  fuseWrite key (!(x.slots[k]).valid || x.revoked.getLsbD k.1 || x.runSlot.toNat == k.1 ||
    !(List.finRange 4).any fun i => i != k && good i) (.revoke k) s

/-- FUSE_REVOKE (R484). -/
def execFuseRevoke (key : BitVec 16) (k : Fin 4) (s : State) : Host.Outcome State Fault Refusal := .next (fuseRevoke key k s)

/-- OP 3 (R484). -/
def fuseRaise (key : BitVec 16) (v : Nat) (s : State) : State :=
  fuseWrite key (decide (v ≤ s.sec.secverMin) || decide (64 < v) || decide (s.sec.secVersion.toNat < v)) (.raise v) s

/-- FUSE_RAISE (R484). -/
def execFuseRaise (key : BitVec 16) (v : BitVec 7) (s : State) : Host.Outcome State Fault Refusal := .next (fuseRaise key v.toNat s)

/-- The end of a fuse operation (R483, R484): a programming that fails to burn VALID leaves its slot DAMAGED. -/
def fuseDone (ok : Bool) (s : State) : State :=
  match s.sec.fuseOp with
  | none => s
  | some (.program k h) =>
    let s := { s with free := s.free + 32 }
    modSec (fun x => { x with
      slots := setV x.slots k { hash := if ok then h else freeBytes (s.free - 32) 32, burnt := true, valid := ok }
      result := if ok then 1 else 4, fuseOp := none }) s
  | some (.revoke k) => modSec (fun x => { x with revoked := x.revoked ||| BitVec.ofNat 4 (2 ^ k.1), result := 1, fuseOp := none }) s
  | some (.raise v) => modSec (fun x => { x with secverMin := v, result := 1, fuseOp := none }) s

/-- FUSE_OPERATION_DONE (R484). -/
def execFuseOperationDone (ok : Bool) (s : State) : Host.Outcome State Fault Refusal := .next (fuseDone ok s)

/-! ### Measurements, certificate, report -/

/-- M_MAN is extended by the record of an accepted manifest (R486). -/
def extendMan (kind cls job : Nat) (digest weights : List Byte) (s : State) : State :=
  let r := natLE 1 kind ++ natLE 1 cls ++ natLE 1 job ++ natLE 1 0 ++ digest ++ weights
  modSec (fun x => { x with mMan := sha3 (x.mMan ++ r), admissions := x.admissions + 1 }) s

/-- Bytes of the certificate region (R446, R487), which no command writes. -/
def certBytes (off n : Nat) : List Byte := (List.range n).map fun i => Config.certByte (off + i)

/-- A byte string cut or filled to n bytes. -/
def padTo (n : Nat) (bs : List Byte) : List Byte := (bs ++ List.replicate n 0).take n

/-- The report of ATTEST (R490). -/
def State.report (s : State) (nonce : List Byte) : List Byte :=
  natLE 4 0x4B415431 ++ natLE 2 1 ++ natLE 1 s.dev.code ++
  natLE 1 (pack [(b2n s.boot.cfgDefaulted, 0), (b2n s.det.strict, 1), (b2n s.mem.warm, 2), (b2n s.boot.bkpLost, 3)]) ++
  wordBytes s.part.islId ++ wordBytes s.sec.secVersion ++
  natLE 1 (s.sec.mask (·.valid) + 16 * s.sec.revoked.toNat) ++ natLE 1 s.sec.runSlot.toNat ++ natLE 1 s.sec.secverMin ++ natLE 1 0 ++
  natLE 4 s.boot.episodes.toNat ++ wordBytes s.sec.admissions ++ natLE 4 0 ++ natLE 8 s.clk.beat ++ natLE 8 s.now.toNat ++
  padTo 32 nonce ++ padTo 16 s.sec.serial ++ s.sec.mFw ++ s.sec.mCfg ++ s.sec.mMan ++ padTo 32 Config.romDigest ++
  natLE 8 s.safe.fence.toNat ++ natLE 8 0

/-- Context string of a report's signature (R481). -/
def reportContext : List Byte := [0x4B, 0x36, 0x34, 0x41, 0x54, 0x53, 0x54, 0x31]

/-- The report with its signature, none when the signer's attempts all fail (R489). -/
def State.signed (s : State) (nonce : List Byte) : Option (List Byte) :=
  let r := s.report nonce
  (Config.mldsaSign s.sec.seed reportContext r s.free).map fun sig => r ++ padTo 2420 sig

end Sys2Proof.Machine
end

