-- ==== Sys2Proof/Machine/RegView.lean ====
section
/-! DEFINITION. What the registers read (chapter 21 and the register tables of every chapter): one function for each block of
the region map, from an offset in the block to the word. -/

namespace Sys2Proof.Machine

/-! ### Compute windows (R103 to R109, R162 to R165, R189 to R192) -/

/-- ENG_STATUS STATE between passes (R94, R96 to R98): a RAMP_DOWN that still runs, the way to the next pass, otherwise QUIET. -/
def gapState (now : Nat) (down : Bool) (next : Option Approach) : Nat :=
  match next with
  | none => if down then 4 else 0
  | some a =>
    if a.filled then 3
    else if now < a.at_ then (if down then 4 else 0)
    else if now < a.at_ + 128 then 1 else 3

/-- ENG_STATUS STATE (R94 to R100, R105); a golden tile in flight is at the west edge. -/
def State.engState (s : State) (u : UnitIdx) (c : Core) : Nat :=
  let now := s.clk.raw
  let g := c.eng
  let next := (s.nextPass u).map (s.approach u)
  let edge := g.passes.any (fun p => decide (p.entered ≤ now ∧ now < p.entered + p.len)) || (s.safe.cores.toList.getD u.1 {}).golden.isSome
  match g.draining with
  | none => if edge then 2 else gapState now (match g.lastEnd with | none => false | some l => decide (now < l.1 + 128)) next
  | some t =>
    if now ≤ t then (if edge then 2 else gapState now false next)
    else if now ≤ t + 64 then 3
    else if now ≤ t + 192 then 4
    else if g.resumed then gapState now false next else 5

/-- The quad rows of an engine that perform dummy operations in the present cycle (R94, R96): all 8 in DUMMY, some in a ramp. -/
def State.dummyRows (s : State) (u : UnitIdx) : Nat :=
  let c := s.cores[u]
  let now := s.clk.raw
  match s.engState u c with
  | 1 => rampRows true (now - ((s.nextPass u).map fun e => (s.approach u e).at_).getD now)
  | 3 => 8
  | 4 => rampRows false (now - (match c.eng.draining with | some t => t + 65 | none => (c.eng.lastEnd.getD (now, 0, 0)).1))
  | _ => 0

/-- The state of a tile in the present cycle (R85). -/
def Tile.at_ (now : Nat) (t : Tile) : Nat :=
  let code (x : TileState) : Nat := match x with | .free => 0 | .filling => 1 | .full => 2 | .reading => 3
  if t.since ≤ now then code t.st else (code t.st + 3) % 4

/-- INDEX and KIND of an engine (R104, R163). -/
def engIndex (u : UnitIdx) : Nat := if u.1 < 64 then u.1 else 0x80 + (u.1 - 64)

/-- The engine window. -/
def State.engReg (s : State) (u : UnitIdx) (o : Nat) : Nat :=
  let c := s.cores[u]
  let g := c.eng
  match o with
  | 0x00 => pack [(engIndex u, 0), (0x20, 8), (0x40, 16)]
  | 0x04 => pack [(s.engState u c, 0), (b2n g.fenced, 4), (g.stopCause.toNat, 8), (b2n (g.sat || g.saturated s.clk.raw), 16),
      (b2n g.nonfin, 17)]
  | 0x08 => pack ((g.tiles.toList.zipIdx).map fun t => (t.1.at_ s.clk.raw, 2 * t.2))
  | 0x0C => g.seed.toNat
  | 0x10 => g.passCnt.toNat
  | 0x14 => g.stopCnt.toNat
  | 0x18 => (g.active.toNat + s.activeNow u) % 2 ^ 32
  | 0x20 => (g.dummy.toNat + s.dummyNow u) % 2 ^ 32
  | 0x24 => pack ((g.books.toList.zipIdx).flatMap fun b =>
      [(b2n b.1.big, 8 * b.2), (b.1.fmt.toNat, 8 * b.2 + 2), (b2n b.1.valid, 8 * b.2 + 4)])
  | _ => 0

/-- VEC_STATUS MODE (R164). -/
def VecMode.code : VecMode → Nat
  | .idle => 0
  | .insn => 1
  | .cascade => 2
  | .cistern => 3

/-- VEC_STATUS POSITION (R164): the stage position of the running cascade, 16 cycles each (R133, R156). -/
def VecEngine.position (raw : Nat) (v : VecEngine) : Nat :=
  match v.entry with
  | none => 0
  | some x => if v.mode = .cascade then min ((raw - x.issued) / 16) (x.len / 16 - 1) else 0

/-- The cycles of VEC_BUSY_CNT that it has not taken in yet, the present one included (R165). -/
def VecEngine.busyNow (raw : Nat) (v : VecEngine) : Nat :=
  match v.entry with
  | none => 0
  | some x => (match v.draining with | none => raw + 1 | some t => min (raw + 1) (t + 65)) - x.issued

/-- The vector-engine window. -/
def State.vecReg (s : State) (u : UnitIdx) (o : Nat) : Nat :=
  let v := s.cores[u].vec
  match o with
  | 0x00 => pack [(engIndex u, 0), (0x40, 8), (0x20, 16), (0x100, 22)]
  | 0x04 => pack [(v.mode.code, 0), (v.position s.clk.raw, 4), (b2n v.sat, 16), (b2n v.nanCvt, 17), (b2n v.nonfin, 18),
      (b2n v.amaxZero, 19), (b2n v.interrupted, 20)]
  | 0x08 => v.cascCnt.toNat
  | 0x0C => v.insnCnt.toNat
  | 0x10 => v.satCnt.toNat
  | 0x14 => (v.busyCnt.toNat + v.busyNow s.clk.raw) % 2 ^ 32
  | 0x18 => v.lastScale.toNat
  | 0x1C => v.cisternClr.toNat
  | _ => 0

/-- CORE_SEQ_STATUS STATE (R190): stopped after a stop until an entry issues again, or fenced; holding; issuing while the owner's
context holds entries of the beat. (DEDUCED, log entry 61) -/
def State.seqState (s : State) (c : Core) : Nat :=
  if c.eng.fenced || c.stopping || (c.eng.draining.isSome && !c.eng.resumed) then 3
  else if c.seq.holding then 2
  else if (c.seq.halves.toList.getD c.seq.context.1 (Vector.replicate 2 {})).toList.any
      (fun h => decide (h.beat ≤ s.clk.beat) && !h.entries.isEmpty) then 1
  else 0

/-- The code of a bank state (R191). -/
def BankState.code : BankState → Nat
  | .on => 0
  | .waking => 1
  | .sleepRet => 2
  | .sleepOff => 3

/-- The four registers of a basin (R192). -/
def Basin.reg (b : Basin) (o : Nat) : Nat :=
  if !b.defined then 0
  else if o = 0 then pack [(b.baseKib, 0), (b.sizeKib, 14), (b2n b.hold, 28), (1, 29)]
  else if o = 4 then pack [(b.head, 0), (b2n b.hwrap, 23)]
  else if o = 8 then pack [(b.tail, 0), (b2n b.twrap, 23)]
  else b.fill

/-- The sequencer, bank and basin window. -/
def State.coreReg (s : State) (u : UnitIdx) (o : Nat) : Nat :=
  let c := s.cores[u]
  let q := c.seq
  let banks (l : List Bank) : Nat := pack (l.zipIdx.map fun b => ((b.1.at_ s.clk.raw).code, 2 * b.2))
  match o with
  | 0x00 => 0x00800000
  | 0x04 => pack [(s.seqState c, 0), (q.holdCause.toNat, 4), (q.context.1, 8), ((q.owner.getD 0).toNat, 16)]
  | 0x08 => q.slip % 2 ^ 18
  | 0x0C => q.issued.toNat
  | 0x10 => q.mark.toNat
  | 0x14 => banks (c.banks.toList.take 16)
  | 0x18 => banks (c.banks.toList.drop 16)
  | 0x1C => q.lateCnt.toNat
  | 0x20 => q.narrowCnt.toNat
  | o => if 0x100 ≤ o ∧ o < 0x200 then (c.basin (Fin.ofNat 16 (o / 16))).reg (o % 16) else 0

/-! ### Memory and rills (R229, R230, R255 to R257) -/

/-- The global window of the memory. -/
def State.memReg (s : State) (o : Nat) : Nat :=
  let m := s.mem
  match o with
  | 0x00 => pack [(s.part.channels, 0), ((if s.part = .l512 then 0xF else 3), 8), (0x3C0, 12)]
  | 0x04 => pack [(b2n m.warm, 0), (b2n (s.chans.toList.any fun c => decide (s.clk.raw < c.scrubEnd)), 1), (m.extents.length, 8)]
  | 0x08 => pack [(m.secondFail.toNat, 0), (m.scrubUe.toNat, 16)]
  | 0x0C => m.ueAddr.toNat % 2 ^ 32
  | 0x10 => m.ueAddr.toNat / 2 ^ 32
  | 0x14 => s.memLoadStatus.toNat
  | 0x18 => m.loadBytes.toNat % 2 ^ 32
  | 0x20 => s.memPark.toNat
  | _ => 0

/-- The window of a channel. -/
def Chan.reg (now : Nat) (c : Chan) (o : Nat) : Nat :=
  match o with
  | 0x00 => pack [(1, 0), (c.rate.toNat, 1), (c.needNow.toNat, 4), ((c.slots.toList.filter fun f => !tagFree now f).length, 6)]
  | 0x04 => c.ceCnt.toNat
  | 0x08 => pack [(c.retryCnt.toNat, 0), (c.failCnt.toNat, 16)]
  | 0x0C => pack [(c.latLast.toNat, 0), (c.latPeak.toNat, 16)]
  | 0x10 => c.refCnt.toNat
  | 0x14 => c.scrub.toNat
  | _ => 0

/-- RILL_STATUS STATE (R256). -/
def Rill.state (x : Rill) : Nat :=
  if x.failed then 3 else if x.holding then 2
  else if x.descs.any fun d => d.active && !d.retired then 1 else 0

/-- The window of a rill in a beat that job k owns, if any does: QUEUED and ACTIVE show the queue of that job. -/
def Rill.reg (r : Nat) (k : Option (Fin 12)) (x : Rill) (o : Nat) : Nat :=
  let ds := x.descs.filter fun d => !d.retired && match k with | none => true | some k => d.job == k
  match o with
  | 0x00 => pack [(r, 0), (r / 4, 8), (0x40, 16), (0x10, 24)]
  | 0x04 => pack [(x.state, 0), (min 64 ds.length, 4), (min 64 (ds.filter (·.active)).length, 12),
      (b2n x.timeout, 20), (b2n x.refused, 21), (b2n x.extent, 22), (b2n x.token, 23)]
  | 0x08 => x.slip % 2 ^ 18
  | 0x0C => x.retiredCnt.toNat
  | 0x10 => x.bytes.toNat % 2 ^ 32
  | 0x18 => x.lateCnt.toNat
  | 0x1C => x.tmo.toNat
  | _ => 0

/-! ### Island (R2, R59 to R65, R284, R298, R299, R502) -/

/-- The code of a sequence state (R273). -/
def SeqState.code : SeqState → Nat
  | .free => 0
  | .waiting => 1
  | .ready => 2
  | .listed => 3
  | .finished => 4
  | .orphaned => 5

/-- The words of a sequence entry (R273). -/
def Seq.word (q : Seq) (w : Nat) : Nat :=
  match w with
  | 0 => q.id.toNat
  | 1 => pack [(q.job.toNat, 0), (q.state.code, 8), (b2n q.auto, 11), (q.kvBasin.toNat, 12), (q.pos.toNat, 16)]
  | 2 => q.len.toNat
  | 3 => q.lenMax.toNat
  | 4 => q.kvBase.toNat % 2 ^ 32
  | 5 => pack [(q.kvBase.toNat / 2 ^ 32, 0), (q.next.toNat, 8)]
  | 6 => q.pages.toNat
  | _ => q.readySince.toNat

/-- Engine time of a job up to the present cycle (R264, R284). -/
def State.usedNow (s : State) (k : Fin 12) (j : Job) : Nat :=
  if j.isSafety then j.used.toNat
  else j.used.toNat + ((s.cores.toList.take 64).map fun c => c.useOf k c.useTo (s.clk.raw + 1) true).sum

/-- The registers of a job slot (R284). -/
def State.jobReg (s : State) (k : Fin 12) (o : Nat) : Nat :=
  if o = 0x24 then (s.jobs.stops[k]).toNat
  else match s.job k with
  | none => 0
  | some j =>
    match o with
    | 0x00 => pack [(j.id.toNat, 0), (j.hdr.cls, 8), (1, 10), (b2n j.serving, 11), (j.base, 12), (j.hdr.clusters, 16), (j.ctx, 20),
        (b2n (j.started s.clk.beat), 23)]
    | 0x04 => j.shares.toNat
    | 0x08 => s.usedNow k j % 2 ^ 32
    | 0x10 => j.bal.toNat % 2 ^ 32
    | 0x18 => j.stall.toNat
    | 0x1C => pack [(j.slowdown.toNat, 0), (j.lag.toNat, 16)]
    | 0x20 => j.periods.toNat
    | _ => 0

/-- ISL_CLUSTER_OWNER (R284). -/
def State.clusterOwner (s : State) : Nat :=
  pack ((List.range 8).map fun k => (match s.jobs.all.find? fun x => x.2.holds k with | none => 15 | some x => x.1.1, 4 * k))

/-- The monitor is active (R494). -/
def State.monActive (s : State) : Bool := s.atStep 3

/-- The baud code in use (R493, R502). -/
def State.baud (s : State) : Nat := if s.dev = .moored ∨ !s.monActive then 0 else s.cfg.uartBaud.toNat

/-- The island's registers. -/
def State.islReg (s : State) (o : Nat) : Nat :=
  match o with
  | 0x000 => s.part.islId.toNat
  | 0x100 => pack [(s.cfg.frameBeats, 0), (s.cfg.proofBeats, 12), (s.cfg.reserveKcyc, 16)]
  | 0x104 => s.clk.beat % 2 ^ 32
  | 0x10C => pack [(s.clk.cyc, 0), (s.beatInFrame, 18)]
  | 0x110 => s.admitState.toNat
  | 0x114 => s.con.status.toNat
  | 0x118 => pack [(s.con.latencyCnt.toNat, 0), (s.con.reserveCnt.toNat, 8), (s.con.refreshCnt.toNat, 16), (s.con.energyCnt.toNat, 24)]
  | 0x11C => s.islSlip.toNat
  | 0x120 => s.clusterOwner
  | 0x130 => pack [(b2n s.det.strict, 0), (b2n s.det.provAll, 1), (b2n s.det.refused, 2)]
  | 0x134 => pack [(s.det.reordered.toNat, 0), (s.det.digests.toNat, 16)]
  | 0x140 => pack [(s.baud, 0), (b2n s.monActive, 3), (b2n s.mon.fw.isSome, 4), (s.mon.framing.toNat, 8), (s.mon.lines.toNat, 16)]
  | o =>
    if 0x400 ≤ o ∧ o < 0x700 then s.jobReg (Fin.ofNat 12 ((o - 0x400) / 0x40)) (o % 0x40)
    else if 0x10000 ≤ o ∧ o < 0x12000 then (s.jobs.seqs[Fin.ofNat 256 ((o - 0x10000) / 32)]).word (o % 32 / 4)
    else 0

/-! ### Time and sensors (R326 to R329) -/

/-- The time registers. (DESIGN CHOICE, log entry 81) -/
def State.timeReg (s : State) (o : Nat) : Nat :=
  let t := s.time
  match o with
  | 0x00 => s.clk.raw % 2 ^ 32
  | 0x08 => s.now.toNat % 2 ^ 32
  | 0x10 => t.offset.toNat % 2 ^ 32
  | 0x18 => t.anchor.toNat % 2 ^ 32
  | 0x20 => t.rate.toNat
  | 0x24 => pack [(t.state.toNat, 0), (b2n t.stepped, 3), (b2n t.slave.isSome, 4), (match t.slave with | none => 0 | some p => p.1, 5)]
  | 0x28 => t.err.toNat
  | 0x2C => pack [(b2n s.cfg.timeSource, 0), (s.cfg.timePorts.toNat, 4)]
  | _ => 0

/-- The window of a context. -/
def SnsCtx.reg (c : SnsCtx) (o : Nat) : Nat :=
  match o with
  | 0x00 => pack [(b2n c.enable, 0), (b2n c.ether, 1), (c.receiver.1, 2), (c.vc.toNat, 5), (c.dt.toNat, 8), (c.slotsM1.toNat, 16)]
  | 0x04 => pack [(c.lineUnits.toNat, 0), (c.maxLines.toNat, 16)]
  | 0x08 => c.base.toNat % 2 ^ 32
  | 0x0C => pack [(c.base.toNat / 2 ^ 32, 0), (c.pages.toNat, 8)]
  | 0x10 => pack [(c.rate.toNat, 0), (c.tmo.toNat, 16)]
  | 0x14 => pack [(c.hist.toNat, 0), (c.limit.toNat, 4), (b2n c.cntCheck, 8)]
  | 0x18 => pack [(match c.current with | none => 0 | some f => f.slot, 0), (b2n c.current.isSome, 4), (c.run.toNat, 8)]
  | 0x1C => match c.current with | none => 0 | some f => f.seq.toNat
  | 0x20 => c.status.toNat
  | 0x24 => pack [(c.discarded.toNat, 0), (c.missed.toNat, 16)]
  | _ => 0

/-- Contexts and receivers. -/
def State.snsReg (s : State) (o : Nat) : Nat :=
  if o < 0x1800 then (s.sens.ctxs[Fin.ofNat 24 (o / 0x100)]).reg (o % 0x100)
  else if 0x2000 ≤ o ∧ o < 0x2080 then
    let r := s.sens.csis[Fin.ofNat 8 ((o - 0x2000) / 16)]
    if o % 16 = 0 then r.lanes.toNat else if o % 16 = 4 then pack [(r.eccCorr.toNat, 0), (r.crcErr.toNat, 16)] else 0
  else 0

/-- Ethernet ports and filters. -/
def State.ethReg (s : State) (o : Nat) : Nat :=
  if o < 0x400 then
    let p := s.sens.ports[Fin.ofNat 4 (o / 0x100)]
    match o % 0x100 with
    | 0x0 => pack [(b2n p.link, 0), (b2n p.asCapable, 1)]
    | 0x4 => pack [(p.rxNs.toNat, 0), (p.txNs.toNat, 16)]
    | 0x8 => p.accepted.toNat
    | 0xC => pack [(p.unmatched.toNat, 0), (p.bad.toNat, 16)]
    | _ => 0
  else if 0x1000 ≤ o ∧ o < 0x1200 then
    let f := s.sens.filts[Fin.ofNat 32 ((o - 0x1000) / 16)]
    match o % 16 with
    | 0x0 => f.dmac.toNat % 2 ^ 32
    | 0x4 => pack [(f.dmac.toNat / 2 ^ 32, 0), (f.etype.toNat, 16)]
    | 0x8 => pack [(f.udp.toNat, 0), (f.vid.toNat, 16), (f.ports.toNat, 28)]
    | _ => pack [(f.ctx.toNat, 0), (b2n f.enable, 8), (b2n f.useVlan, 9), (b2n f.useUdp, 10), (f.pkts.toNat, 16)]
  else 0

/-! ### Baseband and radio (R362, R385); a setting that waits for a boundary reads as last written (R15) -/

/-- BB_DSP_STATUS STATE. -/
def DspRun.code : DspRun → Nat
  | .stopped => 0
  | .running => 1
  | .waiting => 2
  | .trapped => 3

/-- BB_TXe_STATE. -/
def IqPair.state (p : IqPair) : Nat := if p.tx.isSome then 2 else if p.arm.isSome || p.fired.isSome then 1 else 0

/-- The registers of the DSP, the IQ port and the PA control. -/
def State.bbReg (s : State) (o : Nat) : Nat :=
  let d := s.dsp
  let q := s.iq
  let p (e : Nat) : IqPair := q.pairs[Fin.ofNat 2 e]
  let both (f : IqPair → Bool) : Nat := b2n (f (p 0)) + 2 * b2n (f (p 1))
  match o with
  | 0x00 => b2n d.ctrlRun
  | 0x04 => pack [(d.run.code, 0), (d.trap.toNat, 4), (b2n d.accSat, 16), (b2n d.storeSat, 17)]
  | 0x08 => d.last.toNat
  | 0x0C => pack [(d.irqEn.toNat, 0), (d.irqPend.toNat, 8)]
  | 0x10 => match q.pendCfg with
    | some w => w.toNat
    | none => pack [(q.rate.toNat, 0), ((p 0).mode.toNat, 4), ((p 1).mode.toNat, 6)]
  | 0x14 => pack [(b2n q.rclk, 0), (both (·.underrun), 8), (both (·.overrun), 10), (both (·.armLate), 12), (b2n q.refused, 14)]
  | 0x28 => (p 0).state
  | 0x2C => (p 1).state
  | 0x80 => (p 0).stamp.toNat % 2 ^ 32
  | 0x88 => (p 1).stamp.toNat % 2 ^ 32
  | 0x90 => q.unsup.toNat
  | o =>
    if 0x30 ≤ o ∧ o < 0x40 then
      let x := p (o / 8)
      if o % 8 = 0 then match x.pendRx with
        | some w => w.toNat
        | none => pack [(x.rxBase.toNat, 0), (x.rxLen.toNat, 14), (x.blockLog.toNat, 28)]
      else match x.pendTx with
        | some w => w.toNat
        | none => pack [(x.txBase.toNat, 0), (x.txLen.toNat, 14)]
    else if 0x40 ≤ o ∧ o < 0x80 then (q.level ((o - 0x40) / 4)).toNat
    else 0

/-- The registers of a pair's learned receiver. -/
def Radio.reg (r : Radio) (o : Nat) : Nat :=
  match o with
  | 0x00 => match r.pendCfg with
    | some w => w.toNat
    | none => pack [(b2n r.learnedEn, 0), (b2n r.exitEn, 1), (r.ceThr.toNat, 8), (r.dmThr.toNat, 16)]
  | 0x04 => match r.pendDl with
    | some w => w.toNat
    | none => pack [(r.ceDl.toNat, 0), (r.dmDl.toNat, 16)]
  | 0x08 => match r.pendOut with
    | some w => w.toNat
    | none => r.outBase.toNat
  | 0x0C => r.manState
  | 0x10 => pack [(match r.phase with | none => 0 | some p => if p.dm then 2 else 1, 0), (r.queue.length, 2), (b2n r.decoding.isSome, 4),
      (b2n r.doorBad, 8), (b2n r.llrClamp, 9), (b2n r.doorDrop, 10), (b2n r.manFault, 11), (b2n r.actLate, 12)]
  | 0x14 => r.slotCnt.toNat
  | 0x18 => r.lrnCnt.toNat
  | 0x1C => pack [(r.lateCnt.toNat, 0), (r.lowCnt.toNat, 16)]
  | 0x20 => pack [(r.crcFail.toNat, 0), (r.lostCnt.toNat, 16)]
  | 0x24 => r.exitCnt.toNat
  | _ => 0

/-! ### Safety, power, boot, security, card (R411 to R413, R429, R455, R480, R492) -/

/-- The safety registers. -/
def State.safeReg (s : State) (o : Nat) : Nat :=
  let x := s.safe
  match o with
  | 0x00 => s.safeStatus.toNat
  | 0x04 => x.faults.toNat
  | 0x08 => x.fence.toNat % 2 ^ 32
  | 0x0C => x.fence.toNat / 2 ^ 32
  | 0x10 => x.suspect.toNat % 2 ^ 32
  | 0x14 => x.suspect.toNat / 2 ^ 32
  | 0x18 => pack [(b2n x.die, 0), (x.tile.1, 1), (s.frame % 16, 8), (x.slots.toNat, 16)]
  | 0x1C => pack [(x.transient.toNat, 0), (x.persistent.toNat, 16)]
  | 0x20 => pack [(x.evCore.toNat, 0), (x.evKind.toNat, 8), (x.evOutcome.toNat, 12), (x.evFrame.toNat, 16)]
  | 0x24 => pack [(x.corrected.toNat, 0), (x.uncorr.toNat, 16)]
  | o =>
    if 0x40 ≤ o ∧ o < 0x60 then pack (((x.ages.toList.drop ((o - 0x40) * 2)).take 8).zipIdx.map fun a => (a.1.toNat, 4 * a.2))
    else if 0x60 ≤ o ∧ o < 0x80 then
      let w := x.weirs[Fin.ofNat 8 ((o - 0x60) / 4)]
      pack [(w.disagree.toNat, 0), (w.failCnt.toNat, 16), (b2n w.unchecked, 24)]
    else 0

/-- The power registers. -/
def State.pwrReg (s : State) (o : Nat) : Nat :=
  let p := s.pwr
  match o with
  | 0x00 => s.pwrStatus.toNat
  | 0x04 => p.event.toNat
  | 0x08 => pack [(p.tjShed.toNat, 0), (0x69, 8), (0x73, 16)]
  | 0x0C => 0xEA604E20
  | 0x10 => s.allowance
  | 0x14 => p.beatUj.toNat
  | 0x18 => p.frameUj.toNat
  | 0x1C => p.budgetUj.toNat
  | 0x20 => pack [(p.voltMv.toNat, 0), (p.curMa.toNat, 16)]
  | 0x24 => pack [(p.tjNow.toNat, 0), (p.tjMax.toNat, 12), (p.sensor.toNat, 24)]
  | 0x28 => pack [(p.inlet.toNat, 0), (p.outlet.toNat, 16)]
  | 0x2C => pack [(p.throttles.toNat, 0), (p.sheds.toNat, 16)]
  | 0x30 => s.dom.core.toNat % 2 ^ 32
  | 0x34 => s.dom.core.toNat / 2 ^ 32
  | 0x38 => pack [(s.dom.fabric.toNat, 0), (s.dom.uncore.toNat, 8), (s.dom.phy.toNat, 10), (s.dom.hub.toNat, 14)]
  | _ => 0

/-- The boot, reset, journal and security registers. -/
def State.bootReg (s : State) (o : Nat) : Nat :=
  let b := s.boot
  match o with
  | 0x000 => s.bootStatus.toNat
  | 0x004 => b.tally.toNat
  | 0x008 => pack [(b.rstReach.toNat, 0), (b2n b.seenPor, 4), (b2n b.seenMrst, 5), (b2n b.seenWdt, 6), (b.wdtCause.toNat, 8)]
  | 0x00C => pack [(b.episodes.toNat, 0), (b.glitches.toNat, 16)]
  | 0x010 => s.jrnl.seq.toNat
  | 0x014 => pack [(s.jrnl.queue.length, 0), (b2n s.jrnl.erasing.isSome, 7), (s.jrnl.dropped.toNat, 16), (s.jrnl.torn.toNat, 24)]
  | 0x100 => s.keyState.toNat
  | 0x104 => s.sec.secVersion.toNat
  | 0x10C => s.sec.result.toNat
  | o => if 0x110 ≤ o ∧ o < 0x130 then (s.sec.fuseData[Fin.ofNat 8 ((o - 0x110) / 4)]).toNat else 0

/-- SDIO_LINK MODE (R457, R480): at 3.3 V the BSS value 0 is HS, and no other applies. (DEDUCED, log entry 61) -/
def Card.mode (c : Card) : Nat :=
  if !c.init then 0 else if c.v18 then 3 + c.bss.toNat else if c.bss = 0 then 2 else 1

/-- The card-interface registers. -/
def State.sdioReg (s : State) (o : Nat) : Nat :=
  let c := s.card
  let h := s.host
  match o with
  | 0x0 => pack [(c.mode, 0), (b2n c.width4, 4), (b2n c.v18, 5), (b2n c.ioe1, 8), (b2n c.ioe2, 9)]
  | 0x4 => pack [(h.cmdCrc.toNat, 0), (h.dataCrc.toNat, 16)]
  | 0x8 => pack [(h.commands.toNat, 0), (h.refused.toNat, 16)]
  | 0xC => pack [(h.records.toNat, 0), (h.lostCnt.toNat, 16)]
  | _ => 0

end Sys2Proof.Machine
end

