-- ==== Sys2Proof/Machine/Regs.lean ====
section
/-! DEFINITION. Register accesses (R12 to R16, R522 to R530): the region map, reads with their latches, writes by the access
codes, the block reset of a core (R440). -/

namespace Sys2Proof.Machine

/-! ### The region map -/

/-- First address of the register region (R18). -/
def regBase : Nat := 0xF000000000

/-- The unit of a compute window, from an offset in its block: cores 0 to 63, radio engines 64 and 65. -/
def windowUnit (f : Nat) : Option UnitIdx :=
  let i := f / 0x1000
  if h : i < 66 then some ⟨i, h⟩ else none

/-- What the registers show: jobs as they are published (R262), and of a unit whose domain is off (R524) reset values, but for the windows
of cores (R418). (DEDUCED, log entry 60) -/
def State.shown (s : State) : State :=
  let s := s.published
  { s with
    cores := s.cores.mapIdx fun i c => if 64 ≤ i && !s.hubOn (i - 59) then {} else c
    rills := s.rills.mapIdx fun i r => if s.dom.fabric.getLsbD (i / 4) then r else {}
    chans := s.chans.mapIdx fun i c => if s.dom.phy.getLsbD (i / 32) then c else {}
    sens := { ctxs := if s.hubOn 2 then s.sens.ctxs else Vector.replicate 24 {}
              csis := if s.hubOn 2 then s.sens.csis else Vector.replicate 8 {}
              ports := if s.hubOn 3 then s.sens.ports else Vector.replicate 4 {}
              filts := if s.hubOn 3 then s.sens.filts else Vector.replicate 32 {} }
    dsp := if s.hubOn 4 then s.dsp else {}
    iq := if s.hubOn 4 then s.iq else {}
    radio := if s.hubOn 4 then s.radio else Vector.replicate 2 {} }

/-- The word of a register that is no upper half, from its block and the offset in it. -/
def State.blockReg (s : State) (blk f : Nat) : Nat :=
  match blk with
  | 0x00 => s.islReg f
  | 0x20 => match windowUnit f with | none => 0 | some u => s.engReg u (f % 0x1000)
  | 0x21 => match windowUnit f with | none => 0 | some u => s.vecReg u (f % 0x1000)
  | 0x22 => match windowUnit f with | none => 0 | some u => s.coreReg u (f % 0x1000)
  | 0x30 => s.memReg f
  | 0x31 => if s.hasChan (f / 0x1000) then (s.chans[Fin.ofNat 128 (f / 0x1000)]).reg s.clk.raw (f % 0x1000) else 0
  | 0x32 => if f < 0x20000 then Rill.reg (f / 0x1000) (s.ownerOf (f / 0x1000 / 4) s.clk.beat) (s.rills[Fin.ofNat 32 (f / 0x1000)]) (f % 0x1000) else 0
  | 0x40 => s.timeReg f
  | 0x41 => s.snsReg f
  | 0x42 => s.ethReg f
  | 0x50 => s.bbReg f
  | 0x51 => if f < 0x200 then (s.radio[Fin.ofNat 2 (f / 0x100)]).reg (f % 0x100) else 0
  | 0x60 => s.safeReg f
  | 0x70 => s.pwrReg f
  | 0x80 => s.bootReg f
  | 0x90 => s.sdioReg f
  | _ => 0

/-- The 64-bit value whose lower half is the register (R60, R108, R229, R257, R284, R326, R362): its read latches the upper. -/
def State.pairValue (s : State) (blk f : Nat) : Option Nat :=
  match blk with
  | 0x00 =>
    if f = 0x104 then some s.clk.beat
    else if 0x400 ≤ f ∧ f < 0x700 ∧ (f % 0x40 = 8 ∨ f % 0x40 = 0x10) then
      let k : Fin 12 := Fin.ofNat 12 ((f - 0x400) / 0x40)
      some (match s.job k with
        | none => 0
        | some j => if f % 0x40 = 8 then s.usedNow k j else j.bal.toNat)
    else none
  | 0x20 => if f % 0x1000 = 0x18 then (windowUnit f).map fun u => (s.cores[u]).eng.active.toNat + s.activeNow u else none
  | 0x30 => if f = 0x18 then some s.mem.loadBytes.toNat else none
  | 0x32 => if f < 0x20000 ∧ f % 0x1000 = 0x10 then some (s.rills[Fin.ofNat 32 (f / 0x1000)]).bytes.toNat else none
  | 0x40 =>
    if f = 0 then some s.clk.raw else if f = 8 then some s.now.toNat else if f = 0x10 then some s.time.offset.toNat
    else if f = 0x18 then some s.time.anchor.toNat else none
  | 0x50 =>
    if f = 0x80 then some s.iq.pairs[0].stamp.toNat else if f = 0x88 then some s.iq.pairs[1].stamp.toNat else none
  | _ => none

/-- The unit of a window is powered (R524): its latched upper half stands. -/
def State.latchOn (s : State) (blk f : Nat) : Bool :=
  match blk with
  | 0x20 => decide (f < 0x40000) || s.hubOn (f / 0x1000 - 59)
  | 0x32 => s.dom.fabric.getLsbD (f / 0x4000)
  | 0x50 => s.hubOn 4
  | _ => true

/-- The word of a register: of an upper half what its latch holds. -/
def State.regWord (s : State) (a : Nat) : Word :=
  let blk := (a - regBase) / 2 ^ 24
  let f := a % 2 ^ 24
  if 4 ≤ f ∧ (s.pairValue blk (f - 4)).isSome then (if s.latchOn blk f then Cells.get 0 s.latch a else 0)
  else BitVec.ofNat 32 (s.shown.blockReg blk f)

/-- An aligned address of the register region (R12, R18). -/
def isReg (a : Nat) : Bool := decide (regBase ≤ a ∧ a < 2 ^ 40) && a % 4 == 0

/-- What a register shows follows the cycle of the access: what is due on a core has taken effect. (DEDUCED, log entry 63) -/
def settleReg (a : Nat) (s : State) : State :=
  let blk := (a - regBase) / 2 ^ 24
  if blk = 0x20 ∨ blk = 0x21 ∨ blk = 0x22 then
    match windowUnit (a % 2 ^ 24) with
    | none => s
    | some u => settleCore u s
  else s

/-- A read of PWR_INPUT samples the input (R429). (DESIGN CHOICE, log entry 80) -/
def sampleInput (a : Nat) (s : State) : State :=
  if a = 0xF070000020 then
    let w := Config.freeWord s.free
    { s with free := s.free + 1, pwr := { s.pwr with voltMv := w.setWidth 16, curMa := (w >>> 16).setWidth 16 } }
  else s

/-- A read of one word (R12 to R15): the word, and the state with the upper half of a pair latched. -/
def regRead (a : Nat) (s : State) : Word × State :=
  if !isReg a then (0, s)
  else
    let s := sampleInput a (settleReg a s)
    let blk := (a - regBase) / 2 ^ 24
    let f := a % 2 ^ 24
    let t : State := match s.shown.pairValue blk f with
      | none => s
      | some v => if s.latchOn blk f then { s with latch := Cells.put 0 s.latch (a + 4) (hiWord v) } else s
    (s.regWord a, t)

/-- Words from an address upward, read one after the other. -/
def regReads : Nat → Nat → State → List Word × State
  | 0, _, s => ([], s)
  | n + 1, a, s =>
    let r := regRead a s
    let t := regReads n (a + 4) r.2
    (r.1 :: t.1, t.2)

/-- LATCHING_READ (R60). -/
def execLatchingRead (a : BitVec 40) (s : State) : Host.Outcome State Fault Refusal :=
  .next (if s.rst.episode.isSome then s else (regRead a.toNat s).2)

/-! ### The block reset of a core (R440) -/

/-- Has the core nothing in it or on its way, and no owner in this beat or the next? -/
def State.coreIdle (s : State) (c : Fin 64) : Bool :=
  let x := s.cores[coreUnit c]
  let b := s.clk.beat
  let free (b : Nat) : Bool := (s.ownerOf (c.1 / 8) b).isNone && !s.proofBeat b
  free b && free (b + 1) && !s.fenced c.1 && s.coreOn c.1 &&
  x.eng.passes.isEmpty && x.eng.rerun.isEmpty && x.vec.entry.isNone && x.vec.rerun.isNone && x.seq.put.isNone &&
  (x.seq.halves.toList.all fun hs => hs.toList.all fun h => h.entries.isEmpty) &&
  (clusterRills (coreUnit c)).all fun r => s.rills[r].descs.all fun d => !(d.open_ && d.core r == coreUnit c)

/-- A write of GO (R438, R440). -/
def coreBlockReset (c : Fin 64) (s : State) : State :=
  if s.rst.episode.isSome then s
  else
    let s := settleCore (coreUnit c) s
    if s.coreIdle c then { s with boot := { s.boot with coreRst := s.boot.coreRst ++ [(c, s.clk.raw)] } }
    else note 0xF080000000 8 { s with boot := { s.boot with blockRefused := true } }

/-- CORE_BLOCK_RESET (R440). -/
def execCoreBlockReset (c : Fin 64) (s : State) : Host.Outcome State Fault Refusal := .next (coreBlockReset c s)

/-- The oldest block reset in progress completes, 300 cycles after its write (R440): tiles, cistern, basins, scratchpad, contexts
and every register of the windows have their reset values. -/
def coreResetDone (s : State) : State :=
  match s.boot.coreRst with
  | [] => s
  | (c, t) :: rest =>
    atCycle (t + 300) s fun s =>
      modCore (coreUnit c) (fun _ => {}) { s with
        boot := { s.boot with coreRst := rest }
        latch := Cells.put 0 s.latch (0xF02000001C + 0x1000 * c.1) 0 }

/-- CORE_RESET_DONE (R440). -/
def execCoreResetDone (s : State) : Host.Outcome State Fault Refusal := .next (coreResetDone s)

/-! ### Writes -/

/-- A write to ISL_DET_CTRL (R292, R293, R298): no change in the cycle of an admission's reply; the event of a refusal outlasts a clear in
the same cycle (R16). -/
def detCtrl (v : Word) (s : State) : State :=
  if s.rst.episode.isSome then s
  else
    let want := v.getLsbD 0
    let change := want != s.det.strict
    let now := s.clk.raw
    let ok := s.dev == .ready && s.published.jobCount == 0 && s.det.replyAt != some now
    noteIf (change && !ok) 0xF000000130 2 { s with det := { s.det with
      turned := if change && ok && !s.det.turned.any (·.1 == now) then some (now, s.det.strict) else s.det.turned
      strict := if change && ok then want else s.det.strict
      provAll := v.getLsbD 1
      refused := (s.det.refused && !v.getLsbD 2) || (change && !ok) } }

/-- CTL_STRICT_WRITE (R292). -/
def execCtlStrictWrite (v : Word) (s : State) : Host.Outcome State Fault Refusal := .next (detCtrl (s.unset 0xF000000130 v) s)

/-- A field of w bits of a written word. -/
def fld (w : Nat) (v : Word) (lo : Nat) : BitVec w := (v >>> lo).setWidth w

/-- Writes to the island's registers (R63 to R65, R298). -/
def writeIsl (f : Nat) (v : Word) (s : State) : State :=
  match f with
  | 0x114 => { s with con := { s.con with status := s.con.status &&& ~~~(fld 7 v 0) } }
  | 0x118 => { s with con := { s.con with
      latencyCnt := fld 8 v 0, reserveCnt := fld 8 v 8, refreshCnt := fld 8 v 16, energyCnt := fld 8 v 24 } }
  | 0x11C => { s with con := { s.con with slipPeak := fld 16 v 16 } }
  | 0x130 => detCtrl v s
  | _ => s

/-- The domain of an engine that a write reaches is on. -/
def State.engineOn (s : State) (u : UnitIdx) : Bool := if u.1 < 64 then s.coreOn u.1 else s.hubOn (u.1 - 59)

/-- Writes to the window of a matrix or vector engine (R105, R107, R164). (DEDUCED, log entry 52) -/
def writeEngine (vec : Bool) (u : UnitIdx) (f : Nat) (v : Word) (s : State) : State :=
  let s := modCore u (Core.settle s.clk.raw) s
  if !s.engineOn u then s
  else if vec then
    if f = 4 then modCore u (fun c => { c with vec := { c.vec with
      sat := c.vec.sat && !v.getLsbD 16, nanCvt := c.vec.nanCvt && !v.getLsbD 17, nonfin := c.vec.nonfin && !v.getLsbD 18
      amaxZero := c.vec.amaxZero && !v.getLsbD 19, interrupted := c.vec.interrupted && !v.getLsbD 20 } }) s
    else s
  else if f = 4 then modCore u (fun c => { c with eng := { c.eng with
    sat := c.eng.sat && (!v.getLsbD 16 || c.eng.satIn s.clk.raw), nonfin := c.eng.nonfin && !v.getLsbD 17 } }) s
  else if f = 0xC then modCore u (fun c => { c with eng := { c.eng with seed := fld 31 v 0 } }) s
  else s

/-- Writes to the window of a rill (R253, R256, R257). -/
def writeRill (r : Fin 32) (f : Nat) (v : Word) (s : State) : State :=
  if !s.dom.fabric.getLsbD (r.1 / 4) then s
  else match f with
  | 0x04 => modRill r (fun x => { x with
      timeout := x.timeout && !v.getLsbD 20, refused := x.refused && !v.getLsbD 21
      extent := x.extent && !v.getLsbD 22, token := x.token && !v.getLsbD 23 }) s
  | 0x1C => modRill r (fun x => { x with tmo := fld 20 v 0 }) s
  | 0x20 => if v.getLsbD 0 then rillBlockReset r s else s
  | _ => s

/-- Writes to the window of a context (R300, R327): while ENABLE is set only the write of ENABLE counts. -/
def writeCtx (n : Fin 24) (f : Nat) (v : Word) (s : State) : State :=
  if f = 0 then (if v.getLsbD 0 then ctxEnable n v s else ctxDisable n v s)
  else modCtx n (fun c =>
    if c.enable then c
    else match f with
    | 0x04 => { c with lineUnits := fld 8 v 0, maxLines := fld 16 v 16 }
    | 0x08 => { c with base := (c.base &&& 0xFF00000000) ||| v.setWidth 40 }
    | 0x0C => { c with base := (c.base &&& 0xFFFFFFFF) ||| ((fld 8 v 0).setWidth 40 <<< 32), pages := fld 16 v 8 }
    | 0x10 => { c with rate := fld 16 v 0, tmo := fld 16 v 16 }
    | 0x14 => { c with hist := fld 4 v 0, limit := fld 4 v 4, cntCheck := v.getLsbD 8 }
    | 0x20 => { c with status := c.status &&& ~~~(fld 8 v 0) }
    | _ => c) s

/-- Writes to contexts and receivers (R327, R328). -/
def writeSns (f : Nat) (v : Word) (s : State) : State :=
  if !s.hubOn 2 then s
  else if f < 0x1800 then writeCtx (Fin.ofNat 24 (f / 0x100)) (f % 0x100) v s
  else if 0x2000 ≤ f ∧ f < 0x2080 ∧ f % 16 = 0 then
    let r : Fin 8 := Fin.ofNat 8 ((f - 0x2000) / 16)
    if s.sens.ctxs.toList.any (fun c => c.enable && !c.ether && c.receiver == r) then s
    else modCsi r (fun x => { x with lanes := fld 2 v 0 }) s
  else s

/-- A filter's registers take no write while it is enabled and names an enabled context (R329). -/
def State.filterBusy (s : State) (x : Filter) : Bool :=
  x.enable && (s.sens.ctxs.toList.getD x.ctx.toNat {}).enable

/-- Writes to Ethernet ports and filters (R329). -/
def writeEth (f : Nat) (v : Word) (s : State) : State :=
  if !s.hubOn 3 then s
  else if f < 0x400 ∧ f % 0x100 = 4 then modPort (Fin.ofNat 4 (f / 0x100)) (fun p => { p with rxNs := fld 16 v 0, txNs := fld 16 v 16 }) s
  else if 0x1000 ≤ f ∧ f < 0x1200 then
    let k : Fin 32 := Fin.ofNat 32 ((f - 0x1000) / 16)
    let set (x : Filter) : Filter :=
      if s.filterBusy x then x
      else if f % 16 = 0 then { x with dmac := (x.dmac &&& 0xFFFF00000000) ||| v.setWidth 48 }
      else if f % 16 = 4 then { x with dmac := (x.dmac &&& 0xFFFFFFFF) ||| ((fld 16 v 0).setWidth 48 <<< 32), etype := fld 16 v 16 }
      else if f % 16 = 8 then { x with udp := fld 16 v 0, vid := fld 12 v 16, ports := fld 4 v 28 }
      else { x with ctx := fld 5 v 0, enable := v.getLsbD 8, useVlan := v.getLsbD 9, useUdp := v.getLsbD 10, pkts := fld 16 v 16 }
    { s with sens := { s.sens with filts := modV s.sens.filts k set } }
  else s

/-- Writes to the DSP, the IQ port and the PA control (R344, R349, R350, R362). -/
def writeBb (f : Nat) (v : Word) (s : State) : State :=
  if !s.hubOn 4 then s
  else
    let d := s.dsp
    let w1c (e : Nat) (p : IqPair) : IqPair := { p with
      underrun := p.underrun && !v.getLsbD (8 + e), overrun := p.overrun && !v.getLsbD (10 + e)
      armLate := p.armLate && !v.getLsbD (12 + e) }
    match f with
    | 0x00 => if v.getLsbD 0 then dspStart s else dspHalt s
    | 0x04 => { s with dsp := { d with accSat := d.accSat && !v.getLsbD 16, storeSat := d.storeSat && !v.getLsbD 17 } }
    | 0x0C => { s with dsp := { d with irqEn := fld 8 v 0 } }
    | 0x10 => iqCfg v s
    | 0x14 => { s with iq := { s.iq with
        refused := s.iq.refused && !v.getLsbD 14, pairs := modV (modV s.iq.pairs 0 (w1c 0)) 1 (w1c 1) } }
    | f =>
      if f = 0x20 ∨ f = 0x24 then
        let e : Fin 2 := Fin.ofNat 2 (f / 4)
        if fld 8 v 0 = 0 then txCancel e s else txArm e (fld 8 v 0).toNat (fld 18 v 8).toNat s
      else if 0x30 ≤ f ∧ f < 0x40 then
        if f % 8 = 0 then iqRing (Fin.ofNat 2 (f / 8)) v s else iqTring (Fin.ofNat 2 (f / 8)) v s
      else if 0x40 ≤ f ∧ f < 0x80 then
        if s.iq.busy then s else { s with iq := { s.iq with ramp := setV s.iq.ramp (Fin.ofNat 16 (f / 4)) (fld 12 v 0) } }
      else s

/-- RADIO_DLe in its range (R385). -/
def dlInRange (v : Word) : Bool :=
  let dm : Int := (bits v.toNat 23 16 : Nat)
  let ce := sext 9 (bits v.toNat 8 0)
  decide (20 ≤ dm ∧ dm ≤ 170 ∧ -200 ≤ ce ∧ ce ≤ dm)

/-- Writes to the registers of a learned receiver (R385); settings take effect at the next boundary. -/
def writeRadio (e : Fin 2) (f : Nat) (v : Word) (s : State) : State :=
  if !s.hubOn 4 then s
  else modRadio e (fun r => match f with
    | 0x00 => { r with pendCfg := some (v &&& 0x00FFFF03) }
    | 0x04 => if dlInRange v then { r with pendDl := some (v &&& 0x00FF01FF) } else r
    | 0x08 => { r with pendOut := some (v &&& 0x3FFF) }
    | 0x10 => { r with
        doorBad := r.doorBad && !v.getLsbD 8, llrClamp := r.llrClamp && !v.getLsbD 9, doorDrop := r.doorDrop && !v.getLsbD 10
        manFault := r.manFault && !v.getLsbD 11, actLate := r.actLate && !v.getLsbD 12 }
    | _ => r) s

/-- Writes to the boot and security registers (R440, R455, R484, R492). -/
def writeBoot (f : Nat) (v : Word) (s : State) : State :=
  match f with
  | 0x000 => { s with boot := { s.boot with blockRefused := s.boot.blockRefused && !v.getLsbD 8 } }
  | 0x018 => if v.getLsbD 8 then coreBlockReset (Fin.ofNat 64 (bits v.toNat 5 0)) s else s
  | 0x108 =>
    let key := fld 16 v 16
    let k : Fin 4 := Fin.ofNat 4 (bits v.toNat 5 4)
    match bits v.toNat 1 0 with
    | 1 => fuseProgram key k s
    | 2 => fuseRevoke key k s
    | 3 => fuseRaise key (bits v.toNat 14 8) s
    | _ => s
  | f => if 0x110 ≤ f ∧ f < 0x130 then modSec (fun x => { x with fuseData := setV x.fuseData (Fin.ofNat 8 ((f - 0x110) / 4)) v }) s else s

/-- Writes to a block of the region map. -/
def writeBlock (blk f : Nat) (v : Word) (s : State) : State :=
  match blk with
  | 0x00 => writeIsl f v s
  | 0x20 => match windowUnit f with | none => s | some u => writeEngine false u (f % 0x1000) v s
  | 0x21 => match windowUnit f with | none => s | some u => writeEngine true u (f % 0x1000) v s
  | 0x30 => if f = 0x20 then { s with mem := { s.mem with supplyLost := s.mem.supplyLost && !v.getLsbD 1 } } else s
  | 0x31 =>
    let c : Fin 128 := Fin.ofNat 128 (f / 0x1000)
    if f < 0x80000 ∧ s.phyOn c ∧ f % 0x1000 = 0xC then modChan c (fun x => { x with latPeak := fld 16 v 16 }) s else s
  | 0x32 => if f < 0x20000 then writeRill (Fin.ofNat 32 (f / 0x1000)) (f % 0x1000) v s else s
  | 0x41 => writeSns f v s
  | 0x42 => writeEth f v s
  | 0x50 => writeBb f v s
  | 0x51 => if f < 0x200 then writeRadio (Fin.ofNat 2 (f / 0x100)) (f % 0x100) v s else s
  | 0x60 => if f = 4 then { s with safe := { s.safe with faults := s.safe.faults &&& ~~~(fld 15 v 0) } } else s
  | 0x70 =>
    if f = 4 then modPwr (fun p => { p with event := p.event &&& ~~~(fld 6 v 0) }) s
    else if f = 8 ∧ 90 ≤ bits v.toNat 7 0 ∧ bits v.toNat 7 0 ≤ 103 then modPwr (fun p => { p with tjShed := fld 8 v 0 }) s
    else s
  | 0x80 => writeBoot f v s
  | _ => s

/-- A write of one word (R12 to R15); none during a reset episode. A bit that an event of the same cycle sets is not cleared (R16). (DEDUCED, log entry 60) -/
def regWrite (a : Nat) (v : Word) (s : State) : State :=
  if !isReg a || s.rst.episode.isSome then s
  else
    let s := settleReg a s
    writeBlock ((a - regBase) / 2 ^ 24) (a % 2 ^ 24) (s.unset a v) s

/-- REGISTER_WRITE (R15). -/
def execRegisterWrite (a : BitVec 40) (v : Word) (s : State) : Host.Outcome State Fault Refusal := .next (regWrite a.toNat v s)

end Sys2Proof.Machine
end

