-- ==== Sys2Proof/Machine/Admit.lean ====
section
/-! DEFINITION. Admission (R70 to R72, R258 to R263, R365 to R368): the checks of a manifest in their order, the job that an
accepted one becomes, its reply; the checks of a radio manifest. -/

namespace Sys2Proof.Machine

/-- A manifest as it stands in DRAM when it is checked: base, image, header and section descriptors. -/
structure Man where
  base : Nat
  img  : List Byte
  hdr  : Header
  secs : List Sec
  deriving DecidableEq, Repr

/-- The manifest at an address: the whole image when usable DRAM holds it, otherwise its header alone. -/
def State.readMan (s : State) (a : Nat) : Man :=
  let h := parseHeader (s.dramBytes a 0x80)
  let img := s.dramBytes a (if a + h.imageLen ≤ s.part.dramBytes then h.imageLen else 0x80)
  { base := a, img := img, hdr := h, secs := parseSections img h.sections }

/-- The sections of one type. -/
def Man.ofType (m : Man) (t : Nat) : List Sec := m.secs.filter fun x => x.type == t

/-- The bytes of the sections of one type, one after the other. -/
def Man.bytesOf (m : Man) (t : Nat) : List Byte := (m.ofType t).flatMap (Sec.bytes m.img)

/-- The records of the EXTENTS section (R276). -/
def Man.records (m : Man) : List (Extent × Bool) := let b := m.bytesOf 9; parseExtents (b.length / 16) b

/-- The declared extents. -/
def Man.extents (m : Man) : List Extent := m.records.map (·.1)

/-- The records of the STREAMS section (R313). -/
def Man.streams (m : Man) : List (Nat × Nat × Bool) := let b := m.bytesOf 10; parseStreams (b.length / 16) b

/-- Beats of a period. -/
def Man.beats (m : Man) : Nat := m.hdr.periodFrames * m.hdr.frameBeats

/-- The marked beats (R48). -/
def Man.beatMap (m : Man) : List Bool := bitArray (m.bytesOf 5) m.beats

/-- The claimed lots (R47). -/
def Man.lots (m : Man) : List Lot := let b := m.bytesOf 4; parseLots (b.length / 36) b

/-- The energy words (R44). -/
def Man.energy (m : Man) : List Nat := (bytesWords (m.bytesOf 8)).map (·.toNat)

/-- The job that a manifest would become (R72, R262, R265, R469). -/
def Man.toJob (m : Man) (id : BitVec 8) (base ctx startBeat : Nat) (prov : Bool) (res len : Nat) : Job :=
  { id := id, hdr := m.hdr, base := base, ctx := ctx, image := m.base, startBeat := startBeat, extents := m.extents
    streams := m.streams.map (fun x => (Fin.ofNat 24 x.1, x.2.1)), lots := m.lots, beatMap := m.beatMap, energy := m.energy
    resBase := res, resLen := len, prov := prov }

/-! ### Checks 1 to 5 -/

/-- Check 1: MAGIC, FORMAT, reserved fields, and each field in the range that R42 allows it on its own. -/
def Man.formatOk (m : Man) : Bool :=
  let h := m.hdr
  let n := bits (wordOf m.img 9) 15 0
  wordOf m.img 0 == 0x4B4D4E46 && bits (wordOf m.img 1) 15 0 == 1 && headerZero m.img && h.cls != 3 && h.refreshMult != 3 &&
  (if h.cls = 0 then h.clusters == 8 && h.periodFrames == 1
   else decide (1 ≤ h.clusters ∧ h.clusters ≤ 8 ∧ 1 ≤ h.periodFrames) && h.windowFirst == 0 && h.windowBeats == 0) &&
  decide (1 ≤ n ∧ n ≤ 4096)

/-- Check 2: the stepping and the memory compiled for. -/
def Man.targetOk (m : Man) (p : Part) : Bool :=
  m.hdr.targetStep == idStep && (m.hdr.targetMem == 0 || m.hdr.targetMem == p.idMem)

/-- Check 3: MANIFEST_DIGEST over header and body, not among those refused under R57 or R377; a body that does not fit in usable
DRAM has no digest. -/
def Man.digestOk (m : Man) (refused : List (List Byte)) : Bool :=
  m.img.length == m.hdr.imageLen && sha3 (m.img.take 0x30 ++ m.img.drop 0x80) == m.hdr.digest && !refused.contains m.hdr.digest

/-- An extent put among others in order of base. -/
def insertExtent (x : Extent) : List Extent → List Extent
  | [] => [x]
  | y :: ys => if x.base < y.base then x :: y :: ys else y :: insertExtent x ys

/-- Check 4 (R222): every read-only extent is an image extent, and WEIGHTS_DIGEST is that of their digests by rising base. -/
def Man.weightsOk (m : Man) (table : List ImgExt) : Bool :=
  let ro := ((m.extents.filter (·.ro)).foldl (fun l x => insertExtent x l) [])
  let found := ro.map fun x => table.find? fun t => t.base == x.base && t.len == x.len
  found.all (·.isSome) && sha3 (found.flatMap fun t => match t with | none => [] | some t => t.digest) == m.hdr.weights

/-- Check 5. -/
def Man.frameOk (m : Man) (c : BootCfg) : Bool := m.hdr.frameBeats == c.frameBeats && decide (c.reserveKcyc ≤ m.hdr.reserveKcyc)

/-! ### Check 6 -/

/-- Section bounds and descriptors (R43). -/
def Man.boundsOk (m : Man) : Bool :=
  m.secs.all fun x => x.zero && decide (1 ≤ x.type ∧ x.type ≤ 10) && (decide (x.type ≤ 3) || x.unit == 0) &&
    decide (0x80 + 16 * m.hdr.sections ≤ x.off ∧ x.off + x.len ≤ m.hdr.imageLen)

/-- No two of a list are equal. -/
def distinct : List Nat → Bool
  | [] => true
  | x :: xs => !xs.contains x && distinct xs

/-- Section counts (R44). -/
def Man.countsOk (m : Man) : Bool :=
  decide (1 ≤ (m.ofType 1).length) && ([1, 2, 3].all fun t => distinct ((m.ofType t).map (·.unit))) &&
  (m.hdr.cls != 2 || (m.ofType 3).isEmpty) && ([4, 5, 8, 9].all fun t => (m.ofType t).length == 1) &&
  decide ((m.ofType 10).length ≤ 1)

/-- The first cycle of the reserve that the manifest declares (R38). -/
def Man.reserveAt (m : Man) : Nat := beatCycles - 1000 * m.hdr.reserveKcyc

/-- Is a beat of the period marked? -/
def Man.marked (m : Man) (b : Nat) : Bool := decide (b < m.beats) && m.beatMap.getD b false

/-- Order, beats and cycles of the entries of a section (R45, R46, R48). -/
def Man.entriesOk (m : Man) (es : List (Nat × Entry)) : Bool :=
  ordered es && es.all fun x => m.marked (entryBeat x.2) && decide (x.2.cycle < m.reserveAt)

/-- Class and WORDS of a CORE_TT entry (R90 to R92, R134, R186); a radio manifest has RADIO_EXIT too (R366, R371). -/
def coreOpOk (radio : Bool) (op n : Nat) : Bool :=
  match op with
  | 0x01 => n == 3
  | 0x02 => n == 1
  | 0x08 => n % 2 == 1 && decide (3 ≤ n ∧ n ≤ 17)
  | 0x09 => n % 2 == 0 && decide (2 ≤ n ∧ n ≤ 254)
  | 0x0A => n == 2
  | 0x10 => n == 2
  | 0x11 => n == 1
  | 0x12 => n == 1
  | 0x13 => n == 2
  | 0x14 => n == 1
  | 0x15 => n % 2 == 1 && decide (3 ≤ n ∧ n ≤ 255)
  | 0x16 => n == 1
  | 0x17 => radio && n == 1
  | _ => false

/-- The entries of every beat take at most 16 KiB (R183); entries stand in order of BEAT. -/
def beatBytesOk : Nat → Nat → List (Nat × Entry) → Bool
  | _, _, [] => true
  | b, n, (_, e) :: es =>
    let k := 8 + 4 * e.words.length + (if entryBeat e = b then n else 0)
    decide (k ≤ 16384) && beatBytesOk (entryBeat e) k es

/-- The entries of a CORE_TT by their own rules. -/
def coreOpsOk (radio : Bool) (es : List (Nat × Entry)) : Bool :=
  (es.all fun x => coreOpOk radio x.1 x.2.words.length) && beatBytesOk 0 0 es

/-- The descriptors of a RILL_TT (R233 to R235). -/
def rillOpsOk (cls : Nat) (es : List (Nat × Entry)) : Bool :=
  es.length % 64 == 0 && es.all fun x =>
    decide (1 ≤ x.1 ∧ x.1 ≤ 3) && x.2.words.length == 6 &&
    (x.1 == 3 || bits (wordAt x.2.words 0) 9 8 == (if cls = 2 then 1 else 0))

/-- Logical cores, rills or channels that a manifest may name (R47, R70). -/
def Man.units (m : Man) (p : Part) (t : Nat) : Nat :=
  if t = 3 then (if m.hdr.targetMem = 0 then 64 else p.channels)
  else (if t = 1 then 8 else 4) * (if m.hdr.cls = 0 then 8 else m.hdr.clusters)

/-- A CHAN_TT entry of channel c, checked in full (R200, R201, R532): class, WORDS, reserved bits, address, blocks, rill. -/
def Man.chanOpOk (m : Man) (p : Part) (c : Nat) (op : Nat) (e : Entry) : Bool :=
  let w (k : Nat) : Nat := wordAt e.words k
  let a := w 0 + 2 ^ 32 * bits (w 1) 7 0
  let n := bits (w 1) 11 8
  decide (e.beat < 2 ^ 17) &&
  (match op with
  | 1 | 2 => e.words.length == 3 && a % 64 == 0 && decide (a < p.dramBytes) && chanOf a == c && decide (1 ≤ n ∧ n ≤ lineLeft a) &&
      decide (bits (w 1) 16 12 < m.units p 2) && bits (w 1) 31 17 == 0 && bits (w 2) 31 16 == 0
  | 3 => e.words.length == 1 && bits (w 0) 31 4 == 0
  | 4 => e.words.length == 0
  | _ => false)

/-- Cycles that a CHAN_TT entry occupies (R200): data bus, or a bank for a refresh. (DESIGN CHOICE, log entry 28) -/
def chanCycles (op : Nat) (e : Entry) : Nat := if op = 3 then 140 else if op = 4 then 160 else busCycles (bits (wordAt e.words 1) 11 8)

/-- No two entries of a channel occupy its data bus in one cycle (R53, R202, R212). (DESIGN CHOICE, log entry 28) -/
def busOk : List (Nat × Entry) → Bool
  | a :: b :: rest =>
    (entryBeat a.2 != entryBeat b.2 || decide (a.2.cycle + chanCycles a.1 a.2 ≤ b.2.cycle)) && busOk (b :: rest)
  | _ => true

/-- The bank slots of the refresh set of lot n at multiplier m (R203). -/
def refreshSet (m n : Nat) : List Nat := (List.range (5 * m)).map fun k => (5 * n + k % 5 + 16 / m * (k / 5)) % 16

/-- At least 4 cycles lie between one command and the next. -/
def spaced : List Nat → Bool
  | a :: b :: rest => decide (a + 4 ≤ b) && spaced (b :: rest)
  | _ => true

/-- A claimed lot carries the refresh commands of the manifest's multiplier and one retry slot (R50, R203, R212), among the
entries of its channel. -/
def Man.lotOk (m : Man) (es : List (Nat × Entry)) (l : Lot) : Bool :=
  let here := es.filter fun x => entryBeat x.2 == l.beat && x.2.cycle / 1000 == l.lot
  let refs := here.filter fun x => x.1 == 3
  let tries := here.filter fun x => x.1 == 4
  (refs.map fun x => bits (wordAt x.2.words 0) 3 0) == refreshSet (2 ^ m.hdr.refreshMult) l.lot && spaced (refs.map fun x => x.2.cycle) &&
  (refs.all fun x => decide (x.2.cycle ≤ 1000 * l.lot + 859)) && tries.length == 1 &&
  tries.all fun x => decide (x.2.cycle ≤ 1000 * l.lot + 840)

/-- An entry lies wholly in claimed lots (R50). -/
def inLots (lots : List Lot) (c : Nat) (x : Nat × Entry) : Bool :=
  let a := x.2.cycle / 1000
  let b := (x.2.cycle + chanCycles x.1 x.2 - 1) / 1000
  (List.range (b + 1 - a)).all fun i => lots.contains { chan := c, beat := entryBeat x.2, lot := a + i }

/-- One CHAN_TT. -/
def Man.chanOk (m : Man) (p : Part) (c : Nat) (es : List (Nat × Entry)) : Bool :=
  (es.all fun x => m.chanOpOk p c x.1 x.2) && busOk (es.filter fun x => x.1 != 3) && es.all (inLots m.lots c)

/-- One timetable section: its unit, its entries, and the rules of its type. -/
def Man.timetableOk (m : Man) (p : Part) (x : Sec) : Bool :=
  match x.entries m.img with
  | none => false
  | some es =>
    decide (x.unit < m.units p x.type) && m.entriesOk es &&
    (if x.type = 1 then coreOpsOk false es else if x.type = 2 then rillOpsOk m.hdr.cls es else m.chanOk p x.unit es)

/-- The entries of a channel's timetable. -/
def Man.chanEntries (m : Man) (c : Nat) : List (Nat × Entry) :=
  ((m.ofType 3).filter fun x => x.unit == c).flatMap fun x => (x.entries m.img).getD []

/-- The LOT_MAP: length, reserved bits, channels, marked beats, no second record of a channel and beat, no lot in the declared
reserve (R38, R47, R48, R50); every claimed lot with its set, unless the manifest is BACKGROUND (R51). -/
def Man.lotMapOk (m : Man) (p : Part) : Bool :=
  let b := m.bytesOf 4
  let rec_ (i : Nat) : List Byte := (b.drop (36 * i)).take 36
  let n := b.length / 36
  b.length % 36 == 0 &&
  ((List.range n).all fun i =>
    let w := wordOf (rec_ i) 0
    decide (bits w 7 0 < m.units p 3) && m.marked (bits w 24 8) && bits w 31 25 == 0 &&
    ((bitArray ((rec_ i).drop 4) 256).drop (250 - m.hdr.reserveKcyc)).all (!·)) &&
  distinct ((List.range n).map fun i => bits (wordOf (rec_ i) 0) 24 0) &&
  (m.hdr.cls == 2 || m.lots.all fun l => m.lotOk (m.chanEntries l.chan) l)

/-- The BEAT_MAP (R48). -/
def Man.beatMapOk (m : Man) : Bool :=
  let b := m.bytesOf 5
  b.length == (m.beats + 31) / 32 * 4 && ((bitArray b (8 * b.length)).drop m.beats).all (!·) &&
  (m.hdr.cls != 0 || m.beatMap.zipIdx.all fun x =>
    !x.1 || decide (m.hdr.windowFirst ≤ x.2 ∧ x.2 < m.hdr.windowFirst + m.hdr.windowBeats))

/-- The records of a CASCADE section by their framing (R49). -/
def cascadeOk : Nat → List Byte → Bool
  | 0, bs => bs.isEmpty
  | fuel + 1, bs =>
    if bs.isEmpty then true
    else
      let w := wordOf bs 0
      let n := bits w 19 16
      decide (8 ≤ bs.length ∧ 1 ≤ n ∧ n ≤ 8 ∧ 8 + 8 * n ≤ bs.length) && bits w 31 20 == 0 && cascadeOk fuel (bs.drop (8 + 8 * n))

/-- Every CASCADE section. -/
def Man.cascadesOk (m : Man) : Bool := (m.ofType 7).all fun x => cascadeOk (x.len / 8 + 1) (x.bytes m.img)

/-- A job with a work list ends each period a beat before the next list is built (R280). -/
def Man.servingOk (m : Man) : Bool := !(m.extents.any fun e => e.kind == 2) || decide (m.hdr.completeBeat + 2 ≤ m.beats)

/-- Check 6. -/
def Man.timetablesOk (m : Man) (p : Part) : Bool :=
  m.boundsOk && m.countsOk && m.beatMapOk && (m.bytesOf 8).length == 4 * m.beats && m.lotMapOk p && m.cascadesOk && m.servingOk &&
  m.secs.all fun x => decide (3 < x.type) || m.timetableOk p x

/-! ### Checks 7 to 9 -/

/-- The marked beats of a period. -/
def markedBeats (map : List Bool) : List Nat := (map.zipIdx.filter (·.1)).map (·.2)

/-- Check 7 (R39, R40). -/
def Man.windowOk (m : Man) (s : State) : Bool :=
  let h := m.hdr
  let n := s.cfg.frameBeats
  let js := s.jobList
  if h.cls = 0 then
    decide (s.safetyCount < 4 ∧ 1 ≤ h.windowFirst ∧ 1 ≤ h.windowBeats ∧ h.windowFirst + h.windowBeats ≤ n) &&
    h.completeBeat == h.windowFirst + h.windowBeats - 1 &&
    (List.range h.windowBeats).all fun i =>
      let b := h.windowFirst + i
      js.all fun j => !j.inWindow b && (j.isSafety || (markedBeats j.beatMap).all fun x => x % n != b)
  else (markedBeats m.beatMap).all fun b => decide (s.cfg.proofBeats ≤ b % n) && js.all fun j => !j.inWindow (b % n)

/-- A cluster is free for placement (R260). -/
def State.clusterFree (s : State) (k : Nat) : Bool :=
  (s.jobList.all fun j => !j.holds k) && (List.range 8).all fun i => !s.fenced (8 * k + i)

/-- The lowest CLUSTER_BASE with a run of n free clusters (R260). -/
def State.firstFit (s : State) (n : Nat) : Option Nat :=
  (List.range (9 - n)).find? fun b => (List.range n).all fun i => s.clusterFree (b + i)

/-- Check 8. -/
def Man.place (m : Man) (s : State) : Option Nat := if m.hdr.cls = 0 then some 0 else s.firstFit m.hdr.clusters

/-- Beat b of a job's periods and beat b' of another's fall on one grid beat some time; a RUN_ONCE job has one period. (DEDUCED, log entry 67) -/
def beatsMeet (start period : Nat) (once : Bool) (start' period' : Nat) (once' : Bool) : Bool :=
  if once && once' then start == start'
  else if once then decide (start' ≤ start) && (start - start') % period' == 0
  else if once' then decide (start ≤ start') && (start' - start) % period == 0
  else start % Nat.gcd period period' == start' % Nat.gcd period period'

/-- Check 9: no claimed lot is claimed already (R50). (DEDUCED, log entry 67) -/
def Man.lotsFree (m : Man) (start : Nat) (s : State) : Bool :=
  s.jobList.all fun j => m.lots.all fun l => j.lots.all fun k =>
    !(l.chan == k.chan && l.lot == k.lot &&
      beatsMeet (start + l.beat) m.beats m.hdr.runOnce (j.startBeat + k.beat) j.periodBeats j.hdr.runOnce)

/-! ### Check 10 -/

/-- The LANES and LIST extents (R276, R277). -/
def Man.extentsOk (m : Man) : Bool :=
  let xs := m.extents
  let lanes := xs.filter fun e => e.kind == 1
  let lists := xs.filter fun e => e.kind == 2
  (m.bytesOf 9).length % 16 == 0 && m.records.all (·.2) && xs.all (fun e => e.kind != 3) &&
  (lanes.isEmpty && lists.isEmpty || m.hdr.cls == 1 && lanes.length == 1 && lists.length == 1) &&
  (lanes.all fun e => (e.base - halfBase e.base) % pageBytes == 0 && decide (0 < e.len) && e.len % (e.lanes * pageBytes) == 0 &&
    decide (e.base - halfBase e.base + e.len ≤ highHalf)) &&
  lists.all fun e => e.len == 8192 && e.base % 4096 == 0 && !e.ro

/-- The ranges that the manifest declares but for a lane window: base, length, read-only shared; its image among them (R41). -/
def Man.storage (m : Man) : List (Nat × Nat × Bool) :=
  (m.base, m.hdr.imageLen, true) :: (m.extents.filter fun e => e.kind != 1).map fun e => (e.base, e.len, e.ro && e.shared)

/-- The same of an admitted job. -/
def Job.storage (j : Job) : List (Nat × Nat × Bool) :=
  (j.image, j.hdr.imageLen, true) :: (j.extents.filter fun e => e.kind != 1).map fun e => (e.base, e.len, e.ro && e.shared)

/-- The frame windows of stream bindings (R313). -/
def State.frameWindows (s : State) (ws : List (Fin 24 × Nat)) : List (Nat × Nat) := ws.map fun w => (w.2, s.sens.ctxs[w.1].slotBytes)

/-- The stream bindings of a manifest. -/
def Man.bindings (m : Man) : List (Fin 24 × Nat) := m.streams.map fun x => (Fin.ofNat 24 x.1, x.2.1)

/-- The STREAMS section (R313). -/
def Man.streamsOk (m : Man) (s : State) : Bool :=
  let b := m.bytesOf 10
  let rs := m.streams
  let ws := s.frameWindows m.bindings
  b.length % 16 == 0 && decide (rs.length ≤ 24) &&
  ((rs.zip (rs.drop 1)).all fun x => decide (x.1.1 < x.2.1)) &&
  (rs.all fun x => x.2.2 && decide (x.1 < 24) &&
    (let c := s.sens.ctxs[Fin.ofNat 24 x.1]
     c.enable && (m.hdr.cls != 0 || c.hist != 0) && halfBase x.2.1 == halfBase c.base.toNat &&
     (x.2.1 - halfBase x.2.1) % pageBytes == 0)) &&
  !overlapping ws && ws.all fun w => m.extents.all fun e => !meets w.1 w.2 e.base e.len

/-- No extent meets what an admitted job holds, read-only shared extents apart (R32, R41, R277). -/
def Man.clearOf (m : Man) (s : State) (j : Job) : Bool :=
  let lanes := m.extents.filter fun e => e.kind == 1
  let others := j.extents.filter fun e => e.kind == 1
  (m.storage.all fun x => (j.storage.all fun y => (x.2.2 && y.2.2) || !meets x.1 x.2.1 y.1 y.2.1) &&
    others.all fun e => !meets x.1 x.2.1 e.base e.len) &&
  (lanes.all fun e => j.storage.all fun y => !meets e.base e.len y.1 y.2.1) &&
  ((s.frameWindows j.streams).all fun w => !meets w.1 w.2 m.base m.hdr.imageLen) &&
  (s.frameWindows m.bindings).all fun w => !meets w.1 w.2 j.image j.hdr.imageLen

/-- The manifest's image lies clear of what its own job may write (R41). (DEDUCED, log entry 66) -/
def Man.imageOk (m : Man) (s : State) : Bool :=
  (m.extents.all fun e => (e.ro && e.kind == 0) || !meets m.base m.hdr.imageLen e.base e.len) &&
  (s.frameWindows m.bindings).all fun w => !meets m.base m.hdr.imageLen w.1 w.2

/-- Check 10 (R32, R41, R222, R307, R313). (DEDUCED, log entry 66) -/
def Man.extentsFree (m : Man) (s : State) : Bool :=
  let lanes := m.extents.filter fun e => e.kind == 1
  let top := if m.hdr.targetMem = 0 then min highHalf s.part.dramBytes else s.part.dramBytes
  m.extentsOk && m.streamsOk s && m.imageOk s &&
  (m.storage.all fun x => decide (x.1 + x.2.1 ≤ top) && !s.meetsRing x.1 x.2.1 && !s.meetsLoad x.1 x.2.1) &&
  (lanes.all fun e => decide (e.base + e.len ≤ top) && !s.meetsRing e.base e.len && m.storage.all fun x => !meets e.base e.len x.1 x.2.1) &&
  ((s.frameWindows m.bindings).all fun w => decide (w.1 + w.2 ≤ top)) && s.jobList.all (m.clearOf s)

/-! ### Checks 11 to 14 -/

/-- Check 12. -/
def Man.unfenced (m : Man) (base : Nat) (s : State) : Bool :=
  (List.range (8 * m.hdr.clusters)).all fun i => !s.fenced (8 * base + i)

/-- The largest of a list. -/
def largest (l : List Nat) : Nat := l.foldl max 0

/-- Check 13 (R422). -/
def Man.powerOk (m : Man) (j : Job) (s : State) : Bool :=
  let n := s.cfg.frameBeats
  !s.pwr.thermal && profileFits (s.profile (s.jobList ++ [j]) s.radioEnergy) && m.hdr.energyBeatMax == largest m.energy &&
  m.hdr.energyFrame == largest ((List.range m.hdr.periodFrames).map fun f => ((m.energy.drop (f * n)).take n).sum)

/-- The START_BEAT of a job whose reply is issued now (R72). -/
def State.startBeat (s : State) : Nat := (s.frame + 2) * s.cfg.frameBeats

/-- The checks of R70 in their order: the code of the first that fails, 0 when all pass. (DEDUCED, log entry 65) -/
def Man.code (m : Man) (s : State) : Nat :=
  if !m.formatOk then 1
  else if !m.targetOk s.part then 2
  else if !m.digestOk s.con.refused then 3
  else if !m.weightsOk s.mem.extents then 4
  else if !m.frameOk s.cfg then 5
  else if !m.timetablesOk s.part then 6
  else if !m.windowOk s then 7
  else
    match m.place s with
    | none => 8
    | some base =>
      if !m.lotsFree s.startBeat s then 9
      else if !m.extentsFree s then 10
      else if m.hdr.refreshMult < s.con.need.toNat then 11
      else if !m.unfenced base s then 12
      else if !m.powerOk (m.toJob 0 base 0 s.startBeat false 0 0) s then 13
      else if m.hdr.needsStrict && !s.det.strict then 14
      else 0

/-! ### The job -/

/-- The next number in the rotation after n (R262). -/
def nextNumber (n : BitVec 8) : BitVec 8 := if n = 255 then 1 else n + 1

/-- The first number from n on that no admitted job bears (R262). (DEDUCED, log entry 68) -/
def freeNumber (s : State) : Nat → BitVec 8 → BitVec 8
  | 0, n => n
  | k + 1, n => if s.jobList.any (fun j => j.id == n) then freeNumber s k (nextNumber n) else n

/-- The lowest free SAFETY context (R182, R262). (DEDUCED, log entry 68) -/
def State.freeContext (s : State) : Nat :=
  ((List.range 4).find? fun c => !s.jobList.any fun j => j.isSafety && j.ctx == c).getD 0

/-- The first half of a job's context on core c, filled before START_BEAT (R182), with the entries of its first marked beat. (DEDUCED, log entry 35) -/
def firstHalf (j : Job) (img : List Byte) (i : Nat) (c : Core) : Core :=
  if 64 ≤ i || !j.usesCore i then c
  else
    let b := j.startBeat + j.firstMarked
    let h : Half := { beat := b, entries := coreEntries img j i b, complete := true }
    { c with seq := { c.seq with halves := setV c.seq.halves (Fin.ofNat 5 j.ctx) (setV (Vector.replicate 2 {}) 0 h) } }

/-- A job is published in its slot (R262, R264, R265): first fills of contexts and rill queues (R182, R237), M_MAN (R486), READY to
RUNNING (R475). -/
def publish (k : Fin 12) (j : Job) (img : List Byte) (s : State) : State :=
  let s := { s with
    jobs := { s.jobs with
              slots := setV s.jobs.slots k (some j), stops := setV s.jobs.stops k 0, nextId := nextNumber j.id }
    cores := s.cores.mapIdx fun i c => firstHalf j img i c }
  let s := (List.finRange 32).foldl (fun s r => if j.usesRill r.1 then fillQueue k j r s else s) s
  let s := extendMan 0 j.hdr.cls j.id.toNat j.hdr.digest j.hdr.weights s
  if s.dev = .ready then setDev .running s else s

/-- The admission reply (R71); after a refusal its words from 0x04 to 0x14 are not stated. (DEDUCED, log entry 10) -/
def admitReply (code id base : Nat) (ws : List Nat) : List Byte :=
  natLE 4 (pack [(code, 0), (id, 8), (base, 16)]) ++ (ws.flatMap fun w => natLE 4 (w % 2 ^ 32)) ++ List.replicate 8 0

/-- Five words that nothing determines. (DEDUCED, log entry 10) -/
def freeWords (free : Nat) : List Nat := (List.range 5).map fun i => (Config.freeWord (free + i)).toNat

/-- The cycle of an admission's reply (R293): a change of CTL_STRICT in it is ignored and refused, one already made in it among them. -/
def replyCycle (s : State) : State :=
  let now := s.clk.raw
  let d := { s.det with replyAt := some now }
  match d.turned with
  | some (t, was) =>
    if t = now then noteIf (d.strict != was) 0xF000000130 2 { s with det := { d with strict := was, turned := none, refused := d.refused || d.strict != was } } else { s with det := d }
  | none => { s with det := d }

/-- ADMIT (R70 to R72): the reply payload and the state; what the jobs hold that ended in the present cycle is not free yet (R262). (DEDUCED, log entry 35) -/
def admitMan (a : Nat) (prov : Bool) (res len : Nat) (s : State) : List Byte × State :=
  let s := replyCycle s
  let p := s.published
  let m := s.readMan a
  let code := m.code p
  match code, slotsList.find? (fun k => (p.job k).isNone) with
  | 0, some k =>
    let base := (m.place p).getD 0
    let ctx := if m.hdr.cls = 0 then p.freeContext else 4
    let j := m.toJob (freeNumber p 12 s.jobs.nextId) base ctx s.startBeat prov res len
    let done := j.startBeat + j.hdr.completeBeat
    (admitReply 0 j.id.toNat base [j.startBeat, j.startBeat / 2 ^ 32, done, done / 2 ^ 32, j.periodBeats], publish k j m.img s)
  | c, _ => (admitReply (if c = 0 then 8 else c) 0 0 (freeWords s.free), { s with free := s.free + 5 })

/-- The result area lies in one writable plain extent of the manifest as it stands (R469). -/
def State.resultOk (s : State) (a res len : Nat) : Bool :=
  let m := s.readMan a
  let n := if m.extents.any (fun e => e.kind == 1) then 64 * len else len
  decide (len ≤ 65468) && len % 4 == 0 &&
  (len == 0 || m.extents.any fun e => e.kind == 0 && !e.ro && within res n e.base e.len)

/-! ### Radio manifests (R365 to R368) -/

/-- A field of a radio manifest's header. -/
def Man.word (m : Man) (k : Nat) : Nat := wordOf m.img k

/-- ENGINE. -/
def Man.engine (m : Man) : Fin 2 := Fin.ofNat 2 (bits (m.word 1) 16 16)

/-- Check 1 by R365. -/
def Man.radioFormatOk (m : Man) : Bool :=
  let n := bits (m.word 9) 15 0
  let ce := m.word 3
  let dm := m.word 4
  m.word 0 == 0x4B524D46 && bits (m.word 1) 15 0 == 1 && bits (m.word 1) 31 17 == 0 && bits (m.word 2) 31 8 == 0 &&
  decide (1024 ≤ ce ∧ ce ≤ 100000 ∧ 1024 ≤ dm ∧ dm ≤ 150000 ∧ 1 ≤ n ∧ n ≤ 64) && m.word 6 == 0 && m.word 7 == 0 && m.word 8 == 0 &&
  bits (m.word 9) 31 16 == 0 && (List.range 4).all fun i => m.word (28 + i) == 0

/-- Check 6 by R366: sections, the CORE_TT, read-only extents of at most 6 MiB. (DEDUCED, log entry 69) -/
def Man.radioTimetableOk (m : Man) : Bool :=
  m.boundsOk && (m.secs.all fun x => x.type == 1 || x.type == 6 || x.type == 7 || x.type == 9) &&
  (m.ofType 1).length == 1 && (m.ofType 9).length == 1 && m.cascadesOk &&
  (m.extents.all (·.ro)) && decide ((m.extents.map fun e => (e.len + 1023) / 1024 * 1024).sum ≤ 6 * 2 ^ 20) &&
  (m.ofType 1).all fun x => x.unit == 0 &&
    match x.entries m.img with
    | none => false
    | some es => ordered es && coreOpsOk true es && es.all fun e =>
        decide (entryBeat e.2 ≤ 1 ∧ e.2.cycle < (if entryBeat e.2 = 0 then m.word 3 else m.word 4))

/-- Check 13 for a radio manifest (R422): it stands for the active manifest of its engine. (DEDUCED, log entry 64) -/
def Man.radioPowerOk (m : Man) (s : State) : Bool :=
  let other := s.radioEnergy.getD (1 - m.engine.1) 0
  !s.pwr.thermal && profileFits (s.profile s.jobList [other, m.word 5])

/-- The checks of R367 in their order. (DEDUCED, log entry 69) -/
def Man.radioCode (m : Man) (s : State) : Nat :=
  if !m.radioFormatOk then 1
  else if bits (m.word 2) 7 0 != idStep || s.iq.pairs[m.engine].mode != 1 then 2
  else if !m.digestOk s.radio[m.engine].refused then 3
  else if !m.weightsOk s.mem.extents then 4
  else if !m.radioTimetableOk then 6
  else if !(m.records.all (·.2)) || m.extents.any (fun e => e.kind != 0) || (m.bytesOf 9).length % 16 != 0 ||
      (m.storage.any fun x => decide (s.part.dramBytes < x.1 + x.2.1) || s.meetsRing x.1 x.2.1 || s.meetsLoad x.1 x.2.1) ||
      !s.jobList.all (m.clearOf s) then 10
  else if !m.radioPowerOk s then 13
  else 0

/-- RADIO_ADMIT (R367, R368): an accepted manifest is the one that replaces its engine's; it is measured (R486). -/
def admitRadio (a : Nat) (s : State) : List Byte × State :=
  let m := s.readMan a
  let code := m.radioCode s.published
  let e := m.engine
  let r : RadioMan := { image := a, lenCe := m.word 3, lenDm := m.word 4, energy := m.word 5, digest := m.hdr.digest,
                        extents := m.extents.map fun x => (x.base, x.len)
                        timetable := ((m.ofType 1).flatMap fun x => (x.entries m.img).getD []) }
  (natLE 4 (pack [(code, 0), (e.1, 8)]),
    if code = 0 then extendMan 1 e.1 0 m.hdr.digest m.hdr.weights (modRadio e (fun x => { x with next := some r, copying := false, copyPos := 0, copyLanded := 0 }) s)
    else s)

end Sys2Proof.Machine
end

