-- ==== Sys2Proof/Machine/Operands.lean ====
section
/-! DEFINITION. The operands of host commands as their text carries them: addresses of a mailbox payload (R468), the numbers and optional
counts of a monitor line (R495, R498). The fields of timetable entries, instructions and descriptors stand with the units that
read them. -/

namespace Sys2Proof.Machine

/-- A 40-bit address from word k of a payload on. -/
def payAddr (bs : List Byte) (k : Nat) : Nat := wordOf bs k + 2 ^ 32 * bits (wordOf bs (k + 1)) 7 0

/-- The numbers of an argument list; none where one of them is no number. -/
def numbers (l : List (Option Nat)) : Option (List Nat) := if l.all (·.isSome) then some (l.filterMap fun x => x) else none

/-- Argument k. -/
def arg (l : List Nat) (k : Nat) : Nat := l.getD k 0

/-- An optional COUNT up to a limit: without one the command's own. -/
def countArg (kind k limit : Nat) (l : List Nat) : Nat := if k < l.length then arg l k else 1 + Config.defaultCount kind % limit

/-- A COUNT in its range. -/
def countOk (k limit : Nat) (l : List Nat) : Bool := decide (l.length ≤ k) || decide (1 ≤ arg l k ∧ arg l k ≤ limit)

end Sys2Proof.Machine
end

