-- ==== Sys2Proof/Machine/HostOps.lean ====
section
/-! DEFINITION. The command mailbox (R461 to R469): the checks of a command, its reply, and the meanings of the mailbox commands,
those on the sequence table among them (R273 to R275). -/

namespace Sys2Proof.Machine

/-! ### Commands and replies (R462 to R467) -/

/-- A row of R468: OPCODE, legal states, Parked, the required LEN, the reserved payload bits (true when all are zero), the
operation it waits for, its arguments. -/
structure CmdRow where
  op     : Nat
  legal  : List DevState
  parked : Bool := false
  lenOk  : Nat → Bool
  zero   : List Byte → Bool := fun _ => true
  busy   : State → Bool := fun _ => false
  args   : List Byte → State → Bool := fun _ _ => true

/-- The payload of a command: LEN bytes. -/
def frameBody (f : Frame) : List Byte := padTo f.len f.payload

/-- The checks of R464 in their order: the STATUS of the first that fails, 0 when all pass. -/
def CmdRow.check (c : CmdRow) (f : Frame) (s : State) : Nat :=
  if 4080 < f.len then 0x13
  else if !f.crcOk then 0x12
  else if !c.legal.contains s.dev || (s.parked && !c.parked) then 0x10
  else if !c.lenOk f.len then 0x13
  else if !(f.hdrZero && c.zero (frameBody f)) then 0x14
  else if c.busy s then 0x15
  else if !c.args (frameBody f) s then 0x14
  else 0

/-- The first 8 bytes of a reply (R462). -/
def replyHead (op : Nat) (tag : Word) (status state : Nat) : List Byte :=
  natLE 4 (pack [(op, 0), (status, 16), (state, 24)]) ++ wordBytes tag

/-- A whole reply (R462). -/
def replyBytes (head payload : List Byte) : List Byte :=
  let h := head ++ natLE 4 payload.length
  h ++ wordBytes (crc32c (h ++ payload)) ++ payload

/-- A reply formed: it waits to be written. (DESIGN CHOICE, log entry 9) -/
def holdReply (bs : List Byte) (s : State) : State := { s with host := { s.host with reply := some bs } }

/-- The reply stands in the reply buffer (R463): REPLY_READY set and BUSY cleared; a RESET so answered is armed (R468). (DESIGN CHOICE, log entry 9) -/
def commandReply (s : State) : State :=
  match s.host.reply with
  | none => s
  | some bs => note 0x2004 8
    { s with
      host := { s.host with
        replyBuf := Cells.puts 0 s.host.replyBuf 0 bs, reply := none, replyReady := true, busy := false, storing := none, header := [] }
      rst := { s.rst with hostReset := s.rst.hostReset || (wordOf bs 0 % 2 ^ 24 == 4) } }

/-- COMMAND_REPLY (R463). -/
def execCommandReply (s : State) : Host.Outcome State Fault Refusal := .next (commandReply s)

/-- Function 1 takes a GO (R459, R478): from step 3 of BOOTING on and in MOORED, unless the device stands still or the module is
being removed. (DEDUCED, log entry 75) -/
def State.mailboxOn (s : State) : Bool := s.atStep 3 && !s.rst.removal && !s.rst.lockstep && !s.rst.clockFault

/-- A GO while BUSY (R463). -/
def ignoreGo (s : State) : State := note 0x2004 10 { s with host := { s.host with goIgnored := true } }

/-- GO_IGNORED (R463). -/
def execGoIgnored (s : State) : Host.Outcome State Fault Refusal :=
  .next (if s.mailboxOn && s.host.busy then ignoreGo s else s)

/-- A GO is accepted: BUSY set, REPLY_READY cleared, the command counted (R463, R480). -/
def acceptGo (s : State) : State :=
  { s with host := { s.host with busy := true, replyReady := false, commands := s.host.commands + 1, header := [] } }

/-- A refusal: an empty payload; STATE_REFUSED is counted (R464, R466). -/
def refuseCmd (op : Nat) (tag : Word) (status : Nat) (s : State) : State :=
  holdReply (replyBytes (replyHead op tag status s.dev.code) [])
    { s with host := { s.host with refused := if status == 0x10 then satInc s.host.refused else s.host.refused } }

/-- A command after its GO (R463 to R467): refused, or carried out by `act`, which gives STATUS and payload. -/
def go (c : CmdRow) (act : List Byte → State → (Nat × List Byte) × State) (f : Frame) (s : State) : State :=
  if !s.mailboxOn then s
  else if s.host.busy then ignoreGo s
  else
    let s := acceptGo s
    match c.check f s with
    | 0 =>
      let r := act (frameBody f) s
      holdReply (replyBytes (replyHead c.op f.tag r.1.1 s.dev.code) r.1.2) r.2
    | st => refuseCmd c.op f.tag st s

/-- The same of a command whose operation runs on after its GO: the head of its reply waits (R500). -/
def goLater (c : CmdRow) (act : List Byte → State → State) (f : Frame) (s : State) : State :=
  if !s.mailboxOn then s
  else if s.host.busy then ignoreGo s
  else
    let s := acceptGo s
    match c.check f s with
    | 0 =>
      let t := act (frameBody f) s
      { t with host := { t.host with header := replyHead c.op f.tag 0 s.dev.code } }
    | st => refuseCmd c.op f.tag st s

/-- The same of an admission, which is decided in the cycle of its reply (R69): the reply is written at once. -/
def admission (c : CmdRow) (act : List Byte → State → (Nat × List Byte) × State) (f : Frame) (s : State) : State :=
  if s.host.busy then go c act f s else commandReply (go c act f s)

/-- DONE with a payload. -/
def done (payload : List Byte) (s : State) : (Nat × List Byte) × State := ((0, payload), s)

/-! ### Classes of states and arguments -/

/-- All states. -/
def allStates : List DevState := [.moored, .booting, .ready, .running, .degraded, .safeStop]

/-- READY, RUNNING and DEGRADED. -/
def workStates : List DevState := [.ready, .running, .degraded]

/-- n words from address a lie in the register region (R468). -/
def inRegs (a n : Nat) : Bool := decide (regBase ≤ a ∧ a + 4 * n ≤ 2 ^ 40)

/-- The DRAM range of MEM_WRITE and MEM_READ. -/
def memRange (bs : List Byte) (s : State) : Bool :=
  let a := payAddr bs 0
  let n := wordOf bs 2
  decide (64 ≤ n ∧ n ≤ 65536 ∧ a + n ≤ s.part.dramBytes) && n % 64 == 0 && a % 64 == 0

/-! ### Registers, journal, certificate (R468) -/

/-- The STATUS row. -/
def statusRow : CmdRow := { op := 1, legal := allStates, parked := true, lenOk := fun n => n == 0 }

/-- STATUS. -/
def doStatus (_ : List Byte) (s : State) : (Nat × List Byte) × State :=
  done ([s.bootStatus, s.boot.tally.setWidth 32, s.admitState, s.safeStatus, s.pwrStatus, s.memPark, s.memLoadStatus].flatMap wordBytes) s

/-- STATUS (R468). -/
def execStatus (f : Frame) (s : State) : Host.Outcome State Fault Refusal := .next (go statusRow doStatus f s)

/-- COUNT of READ_REG. -/
def readCount (bs : List Byte) : Nat := bits (wordOf bs 1) 17 8

/-- The READ_REG row. -/
def readRegRow : CmdRow :=
  { op := 2, legal := allStates, parked := true, lenOk := fun n => n == 8, zero := fun bs => bits (wordOf bs 1) 31 18 == 0
    args := fun bs _ => decide (1 ≤ readCount bs ∧ readCount bs ≤ 1020) && inRegs (payAddr bs 0) (readCount bs) }

/-- READ_REG. -/
def doReadReg (bs : List Byte) (s : State) : (Nat × List Byte) × State :=
  let r := regReads (readCount bs) (payAddr bs 0) s
  done (r.1.flatMap wordBytes) r.2

/-- READ_REG (R468). -/
def execReadReg (f : Frame) (s : State) : Host.Outcome State Fault Refusal := .next (go readRegRow doReadReg f s)

/-- The WRITE_REG row. -/
def writeRegRow : CmdRow :=
  { op := 3, legal := [.moored, .ready, .running, .degraded, .safeStop], lenOk := fun n => n == 12
    zero := fun bs => bits (wordOf bs 1) 31 8 == 0, args := fun bs _ => inRegs (payAddr bs 0) 1 }

/-- WRITE_REG. -/
def doWriteReg (bs : List Byte) (s : State) : (Nat × List Byte) × State :=
  done [] (regWrite (payAddr bs 0) (BitVec.ofNat 32 (wordOf bs 2)) s)

/-- WRITE_REG (R468). -/
def execWriteReg (f : Frame) (s : State) : Host.Outcome State Fault Refusal := .next (go writeRegRow doWriteReg f s)

/-- The RESET row. -/
def resetRow : CmdRow := { op := 4, legal := allStates, parked := true, lenOk := fun n => n == 0 }

/-- RESET: nothing until its reply is written. -/
def doReset (_ : List Byte) (s : State) : (Nat × List Byte) × State := done [] s

/-- RESET (R468). -/
def execReset (f : Frame) (s : State) : Host.Outcome State Fault Refusal := .next (go resetRow doReset f s)

/-- All states but BOOTING. -/
def notBooting : List DevState := [.moored, .ready, .running, .degraded, .safeStop]

/-- The JOURNAL_READ row. -/
def journalRow : CmdRow :=
  { op := 5, legal := notBooting, parked := true, lenOk := fun n => n == 8
    args := fun bs _ => decide (1 ≤ wordOf bs 1 ∧ wordOf bs 1 ≤ 63) }

/-- JOURNAL_READ. -/
def doJournal (bs : List Byte) (s : State) : (Nat × List Byte) × State :=
  done (readJournal s.boot.flash (BitVec.ofNat 32 (wordOf bs 0)) (wordOf bs 1)).flatten s

/-- JOURNAL_READ (R468). -/
def execJournalRead (f : Frame) (s : State) : Host.Outcome State Fault Refusal := .next (go journalRow doJournal f s)

/-- The CERT_READ row; the region has 65,536 bytes (R446). -/
def certRow : CmdRow :=
  { op := 6, legal := notBooting, parked := true, lenOk := fun n => n == 8
    args := fun bs _ => decide (1 ≤ wordOf bs 1 ∧ wordOf bs 1 ≤ 4080 ∧ wordOf bs 0 + wordOf bs 1 ≤ 65536) }

/-- CERT_READ. -/
def doCert (bs : List Byte) (s : State) : (Nat × List Byte) × State := done (certBytes (wordOf bs 0) (wordOf bs 1)) s

/-- CERT_READ (R468, R487). -/
def execCertRead (f : Frame) (s : State) : Host.Outcome State Fault Refusal := .next (go certRow doCert f s)

/-! ### Memory and model store (R218 to R224, R468) -/

/-- A range meets what MEM_WRITE must not change. -/
def State.memHeld (s : State) (a n : Nat) : Bool :=
  s.meetsJob a n || s.mem.extents.any (fun x => meets a n x.base x.len) || s.meetsRing a n || s.meetsLoad a n

/-- The MEM_WRITE row. -/
def memWriteRow : CmdRow :=
  { op := 0x10, legal := workStates, lenOk := fun n => n == 12, zero := fun bs => bits (wordOf bs 1) 31 8 == 0
    args := fun bs s => memRange bs s && !s.memHeld (payAddr bs 0) (wordOf bs 2) }

/-- MEM_WRITE. -/
def doMemWrite (bs : List Byte) (s : State) : (Nat × List Byte) × State :=
  done [] { s with mem := { s.mem with dram := Cells.blit s.mem.dram s.host.window (payAddr bs 0) 0 (wordOf bs 2) } }

/-- MEM_WRITE (R468). -/
def execMemWrite (f : Frame) (s : State) : Host.Outcome State Fault Refusal := .next (go memWriteRow doMemWrite f s)

/-- The MEM_READ row. (DEDUCED, log entry 70) -/
def memReadRow : CmdRow :=
  { op := 0x11, legal := [.ready, .running, .degraded, .safeStop], lenOk := fun n => n == 12
    zero := fun bs => bits (wordOf bs 1) 31 8 == 0, args := memRange }

/-- MEM_READ. -/
def doMemRead (bs : List Byte) (s : State) : (Nat × List Byte) × State :=
  done [] { s with host := { s.host with window := Cells.blit s.host.window s.mem.dram 0 (payAddr bs 0) (wordOf bs 2) } }

/-- MEM_READ (R468). -/
def execMemRead (f : Frame) (s : State) : Host.Outcome State Fault Refusal := .next (go memReadRow doMemRead f s)

/-- The STORE_WRITE row: LENGTH a whole number of blocks, which the device has (R218, R220). (DEDUCED, log entry 70) -/
def storeRow : CmdRow :=
  { op := 0x12, legal := [.ready], lenOk := fun n => n == 16, zero := fun bs => bits (wordOf bs 0) 31 1 == 0
    busy := fun s => s.mem.loading
    args := fun bs _ =>
      let n := wordOf bs 3
      decide (4096 ≤ n ∧ n ≤ 65536) && n % 4096 == 0 &&
      decide (wordOf bs 1 + 2 ^ 32 * wordOf bs 2 + n / 4096 ≤ Config.storeBlocks (wordOf bs 0)) }

/-- STORE_WRITE: the blocks of the device, which a removal before the reply leaves undefined (R479). -/
def doStore (bs : List Byte) (s : State) : (Nat × List Byte) × State :=
  let d := bitOf (wordOf bs 0) 0
  let i : Fin 2 := if d then 1 else 0
  let a := 4096 * (wordOf bs 1 + 2 ^ 32 * wordOf bs 2)
  let n := wordOf bs 3
  done [] { s with
    mem := { s.mem with store := modV s.mem.store i fun m => Cells.blit m s.host.window a 0 n }
    host := { s.host with storing := some (d, a, n) } }

/-- STORE_WRITE (R218, R468). -/
def execStoreWrite (f : Frame) (s : State) : Host.Outcome State Fault Refusal := .next (go storeRow doStore f s)

/-- The LOAD row. -/
def loadRow : CmdRow :=
  { op := 0x13, legal := workStates, lenOk := fun n => n == 4, busy := fun s => s.mem.loading
    args := fun bs _ => decide (1 ≤ wordOf bs 0 ∧ wordOf bs 0 ≤ 512) }

/-- LOAD: STARTED. -/
def doLoad (bs : List Byte) (s : State) : (Nat × List Byte) × State := ((1, []), startLoad (wordOf bs 0) s)

/-- LOAD (R219 to R221, R468). -/
def execLoad (f : Frame) (s : State) : Host.Outcome State Fault Refusal := .next (go loadRow doLoad f s)

/-- The PARK row. -/
def parkRow : CmdRow := { op := 0x14, legal := [.ready], lenOk := fun n => n == 0, busy := fun s => !s.canPark }

/-- PARK. -/
def doPark (_ : List Byte) (s : State) : (Nat × List Byte) × State := done [] (park s)

/-- PARK (R224, R468). -/
def execPark (f : Frame) (s : State) : Host.Outcome State Fault Refusal := .next (go parkRow doPark f s)

/-! ### Jobs (R268 to R272, R468, R469) -/

/-- The ADMIT row: the manifest base is an address of usable DRAM, and the result area passes R469. -/
def admitRow : CmdRow :=
  { op := 0x20, legal := workStates, lenOk := fun n => n == 20
    zero := fun bs => bits (wordOf bs 1) 31 9 == 0 && bits (wordOf bs 3) 31 8 == 0
    args := fun bs s => decide (payAddr bs 0 + 0x80 ≤ s.part.dramBytes) && s.resultOk (payAddr bs 0) (payAddr bs 2) (wordOf bs 4) }

/-- ADMIT. -/
def doAdmit (bs : List Byte) (s : State) : (Nat × List Byte) × State :=
  let r := admitMan (payAddr bs 0) (bitOf (wordOf bs 1) 8) (payAddr bs 2) (wordOf bs 4) s
  done r.1 r.2

/-- ADMIT (R70, R469): decided in the cycle of its reply (R69). -/
def execAdmit (f : Frame) (s : State) : Host.Outcome State Fault Refusal :=
  .next (admission admitRow doAdmit f s)

/-- A JOB_ID word. -/
def idWord (bs : List Byte) (k : Nat) : Nat := bits (wordOf bs k) 7 0

/-- The JOB_STOP row. -/
def jobStopRow : CmdRow :=
  { op := 0x21, legal := [.running, .degraded], lenOk := fun n => n == 4, zero := fun bs => bits (wordOf bs 0) 31 8 == 0 }

/-- The stop that JOB_STOP asks for (R269). (DESIGN CHOICE, log entry 76) -/
def hostStop (s : State) (j : Job) : StopReq :=
  { cause := 1, at_ := if !j.isSafety then .idleBoundary
                       else if j.started s.clk.beat && j.inWindow s.beatInFrame then .windowEnd else .boundary }

/-- JOB_STOP: a number that no job bears has no effect (R272). -/
def doJobStop (bs : List Byte) (s : State) : (Nat × List Byte) × State :=
  done [] (match s.slotOf (idWord bs 0) with
    | none => s
    | some k => modJob k (fun j => { j with stop := some (j.stop.getD (hostStop s j)) }) s)

/-- JOB_STOP (R269, R272, R468). -/
def execJobStop (f : Frame) (s : State) : Host.Outcome State Fault Refusal := .next (go jobStopRow doJobStop f s)

/-- The slot of an admitted SERVICE or BACKGROUND job. -/
def State.placedSlot (s : State) (id : Nat) : Option (Fin 12) :=
  (s.slotOf id).bind fun k => match s.job k with | none => none | some j => if j.isSafety then none else some k

/-- The JOB_SHARES row. -/
def sharesRow : CmdRow :=
  { op := 0x22, legal := [.running, .degraded], lenOk := fun n => n == 12, zero := fun bs => bits (wordOf bs 0) 31 8 == 0
    args := fun bs s => (s.placedSlot (idWord bs 0)).isSome && decide (1 ≤ wordOf bs 1 ∧ wordOf bs 1 ≤ 1000) }

/-- JOB_SHARES: in force from the next frame boundary (R265, R268). -/
def doShares (bs : List Byte) (s : State) : (Nat × List Byte) × State :=
  done (natLE 4 (wordOf bs 1) ++ natLE 4 (wordOf bs 2)) (match s.placedSlot (idWord bs 0) with
    | none => s
    | some k => modJob k (fun j => { j with pendShares := some (BitVec.ofNat 10 (wordOf bs 1), BitVec.ofNat 32 (wordOf bs 2)) }) s)

/-- JOB_SHARES (R265, R268, R468). -/
def execJobShares (f : Frame) (s : State) : Host.Outcome State Fault Refusal := .next (go sharesRow doShares f s)

/-- The RADIO_ADMIT row. -/
def radioRow : CmdRow :=
  { op := 0x23, legal := workStates, lenOk := fun n => n == 8, zero := fun bs => bits (wordOf bs 1) 31 8 == 0
    args := fun bs s => decide (payAddr bs 0 + 0x80 ≤ s.part.dramBytes) }

/-- RADIO_ADMIT. -/
def doRadio (bs : List Byte) (s : State) : (Nat × List Byte) × State :=
  let r := admitRadio (payAddr bs 0) s
  done r.1 r.2

/-- RADIO_ADMIT (R367, R468): decided in the cycle of its reply. -/
def execRadioAdmit (f : Frame) (s : State) : Host.Outcome State Fault Refusal :=
  .next (admission radioRow doRadio f s)

/-- The DSP_MSG row: BUSY until the DSP program has taken the message before. -/
def dspMsgRow : CmdRow :=
  { op := 0x24, legal := workStates, lenOk := fun n => decide (1 ≤ n ∧ n ≤ 252), busy := fun s => Cells.get 0 s.dsp.x 0x3EC0 != 0 }

/-- DSP_MSG. -/
def doDspMsg (bs : List Byte) (s : State) : (Nat × List Byte) × State :=
  done [] (raiseIrq 5 (writeX 0x3EC0 (BitVec.ofNat 32 bs.length :: bytesWords bs) s))

/-- DSP_MSG (R340, R468). -/
def execDspMsg (f : Frame) (s : State) : Host.Outcome State Fault Refusal := .next (go dspMsgRow doDspMsg f s)

/-! ### Sequences (R273 to R275, R468) -/

/-- The cache of an entry. -/
def Seq.cache (q : Seq) : Nat × Nat := (q.kvBase.toNat, q.pages.toNat * pageBytes)

/-- May entry e of the table keep its cache at a base, with a number of pages, for a serving job (R275)? (DEDUCED, log entry 77) -/
def State.cacheOk (s : State) (e : Option (Fin 256)) (base pages : Nat) (j : Job) : Bool :=
  let n := pages * pageBytes
  (base - halfBase base) % pageBytes == 0 &&
  (match j.lanesExt with
  | none => false
  | some x => halfBase base == halfBase x.base && decide (pages ≤ x.laneBytes / pageBytes)) &&
  decide (base - halfBase base + n ≤ highHalf) && (j.extents.any fun x => x.kind == 0 && !x.ro && within base n x.base x.len) &&
  (List.finRange 256).all fun i =>
    let q := s.jobs.seqs[i]
    some i == e || q.state == .free || !meets base n q.cache.1 q.cache.2

/-- The admitted job of a number. -/
def State.jobOf (s : State) (id : Nat) : Option Job := (s.slotOf id).bind s.job

/-- The lowest FREE entry. -/
def State.freeSeq (s : State) : Option (Fin 256) := (List.finRange 256).find? fun i => (s.jobs.seqs[i]).state == .free

/-- The SEQ_OPEN row. (DEDUCED, log entry 77) -/
def seqOpenRow : CmdRow :=
  { op := 0x30, legal := [.running, .degraded], lenOk := fun n => n == 24
    zero := fun bs => bits (wordOf bs 0) 10 8 == 0 && bits (wordOf bs 0) 31 16 == 0 && bits (wordOf bs 2) 31 24 == 0 &&
      bits (wordOf bs 4) 31 8 == 0 && bits (wordOf bs 5) 31 16 == 0
    args := fun bs s => s.freeSeq.isSome &&
      (match s.jobOf (idWord bs 0) with | none => false | some j => s.cacheOk none (payAddr bs 3) (wordOf bs 5) j) }

/-- SEQ_OPEN: the entry it opens is returned. -/
def doSeqOpen (bs : List Byte) (s : State) : (Nat × List Byte) × State :=
  match s.freeSeq with
  | none => done [] s
  | some i =>
    let q : Seq :=
      { id := BitVec.ofNat 32 (wordOf bs 1), job := BitVec.ofNat 8 (idWord bs 0), state := .waiting, auto := bitOf (wordOf bs 0) 11
        kvBasin := BitVec.ofNat 4 (bits (wordOf bs 0) 15 12), lenMax := BitVec.ofNat 24 (wordOf bs 2)
        kvBase := BitVec.ofNat 40 (payAddr bs 3), pages := BitVec.ofNat 16 (wordOf bs 5) }
    done (natLE 4 i.1) { s with jobs := { s.jobs with seqs := setV s.jobs.seqs i q } }

/-- SEQ_OPEN (R274, R275, R468). -/
def execSeqOpen (f : Frame) (s : State) : Host.Outcome State Fault Refusal := .next (go seqOpenRow doSeqOpen f s)

/-- The entry that word 0 names. -/
def seqWord (bs : List Byte) : Option (Fin 256) := if h : wordOf bs 0 < 256 then some ⟨wordOf bs 0, h⟩ else none

/-- The state of the entry that word 0 names. -/
def State.entryState (s : State) (bs : List Byte) : Option SeqState := (seqWord bs).map fun i => (s.jobs.seqs[i]).state

/-- An entry of the table changed by f. -/
def modSeq (i : Fin 256) (f : Seq → Seq) (s : State) : State := { s with jobs := { s.jobs with seqs := modV s.jobs.seqs i f } }

/-- The SEQ_FEED row. -/
def seqFeedRow : CmdRow :=
  { op := 0x31, legal := [.running, .degraded], lenOk := fun n => n == 8
    args := fun bs s => s.entryState bs == some .waiting && decide (1 ≤ wordOf bs 1 ∧ wordOf bs 1 ≤ 65535) }

/-- SEQ_FEED: READY_SINCE is the next period to be listed. -/
def doSeqFeed (bs : List Byte) (s : State) : (Nat × List Byte) × State :=
  done [] (match seqWord bs with
    | none => s
    | some i =>
      let since := ((s.jobOf (s.jobs.seqs[i]).job.toNat).map s.nextList).getD 0
      modSeq i (fun q => { q with next := BitVec.ofNat 16 (wordOf bs 1), state := .ready, readySince := BitVec.ofNat 32 since }) s)

/-- SEQ_FEED (R274, R468). -/
def execSeqFeed (f : Frame) (s : State) : Host.Outcome State Fault Refusal := .next (go seqFeedRow doSeqFeed f s)

/-- The SEQ_CLOSE row. -/
def seqCloseRow : CmdRow :=
  { op := 0x32, legal := workStates, lenOk := fun n => n == 4
    args := fun bs s => (s.entryState bs).isSome && s.entryState bs != some .free }

/-- A LISTED entry closes with its period (R274). -/
def closeListed (i : Fin 256) (s : State) : State :=
  let mark (p : Period) : Period := if p.list.contains i && !p.closing.contains i then { p with closing := p.closing ++ [i] } else p
  let upd (j : Job) : Job := if j.id = (s.jobs.seqs[i]).job then { j with run := j.run.map mark, past := j.past.map mark } else j
  { s with jobs := { s.jobs with slots := s.jobs.slots.map fun j => j.map upd } }

/-- SEQ_CLOSE. -/
def doSeqClose (bs : List Byte) (s : State) : (Nat × List Byte) × State :=
  done [] (match seqWord bs with
    | none => s
    | some i => if (s.jobs.seqs[i]).state = .listed then closeListed i s else modSeq i (fun _ => {}) s)

/-- SEQ_CLOSE (R274, R468). -/
def execSeqClose (f : Frame) (s : State) : Host.Outcome State Fault Refusal := .next (go seqCloseRow doSeqClose f s)

/-- The SEQ_REBIND row. -/
def seqRebindRow : CmdRow :=
  { op := 0x33, legal := [.running, .degraded], lenOk := fun n => n == 8, zero := fun bs => bits (wordOf bs 1) 31 8 == 0
    args := fun bs s =>
      match seqWord bs, s.jobOf (idWord bs 1) with
      | some i, some j =>
        let q := s.jobs.seqs[i]
        q.state == .orphaned && s.cacheOk (some i) q.kvBase.toNat q.pages.toNat j
      | _, _ => false }

/-- SEQ_REBIND: the state kept when its job ended. -/
def doSeqRebind (bs : List Byte) (s : State) : (Nat × List Byte) × State :=
  done [] (match seqWord bs with
    | none => s
    | some i => modSeq i (fun q => { q with state := q.kept, job := BitVec.ofNat 8 (idWord bs 1), kept := .free }) s)

/-- SEQ_REBIND (R274, R275, R468). -/
def execSeqRebind (f : Frame) (s : State) : Host.Outcome State Fault Refusal := .next (go seqRebindRow doSeqRebind f s)

/-! ### Boot flash and attestation (R444, R468, R485, R489) -/

/-- The FLASH_WRITE row: the boot image and the configuration block. -/
def flashWriteRow : CmdRow :=
  { op := 0x40, legal := [.moored, .ready], lenOk := fun n => n == 8, busy := fun s => s.boot.flashOp.isSome
    args := fun bs _ => wordOf bs 0 % 65536 == 0 && decide (wordOf bs 0 < 0x1010000 ∧ 1 ≤ wordOf bs 1 ∧ wordOf bs 1 ≤ 65536) }

/-- FLASH_WRITE begins: its end gives the reply. -/
def doFlashWrite (bs : List Byte) (s : State) : State :=
  { s with boot := { s.boot with
    flashOp := some { forHost := true, isCheck := false, offset := wordOf bs 0, length := wordOf bs 1 } } }

/-- FLASH_WRITE (R463, R468). -/
def execFlashWrite (f : Frame) (s : State) : Host.Outcome State Fault Refusal := .next (goLater flashWriteRow doFlashWrite f s)

/-- The FLASH_VERIFY row. -/
def flashVerifyRow : CmdRow :=
  { op := 0x41, legal := [.moored, .ready], lenOk := fun n => n == 0, busy := fun s => s.boot.flashOp.isSome }

/-- FLASH_VERIFY begins. -/
def doFlashVerify (_ : List Byte) (s : State) : State :=
  { s with boot := { s.boot with flashOp := some { forHost := true, isCheck := true } } }

/-- FLASH_VERIFY (R468, R485). -/
def execFlashVerify (f : Frame) (s : State) : Host.Outcome State Fault Refusal := .next (goLater flashVerifyRow doFlashVerify f s)

/-- A boot-flash operation ends with a code of its check, for whoever asked for it. -/
def flashDone (op : FlashOp) (c : Option Nat) (s : State) : State :=
  let s := { s with boot := { s.boot with flashOp := none } }
  if op.forHost then
    let payload : List Byte := match c with | none => [] | some v => natLE 4 v
    if s.host.busy && !s.host.header.isEmpty then holdReply (replyBytes s.host.header payload) s else s
  else { s with mon := { s.mon with out := [match c with | none => .ok | some v => .okValue v] } }

/-- BOOT_FLASH_DONE (R463, R485, R500): a block erased and programmed with the window as it stands, or with the monitor's bytes;
or the checks of the image done. -/
def bootFlashDone (s : State) : State :=
  match s.boot.flashOp with
  | none => s
  | some op =>
    if op.isCheck then
      let r := verifyFlash s
      flashDone op (some r.1) r.2
    else flashDone op none (flashBlock op.offset (if op.forHost then Cells.gets 0 s.host.window 0 op.length else op.data) s)

/-- BOOT_FLASH_DONE (R500). -/
def execBootFlashDone (s : State) : Host.Outcome State Fault Refusal := .next (bootFlashDone s)

/-- The ATTEST row. -/
def attestRow : CmdRow := { op := 0x50, legal := [.ready, .running, .degraded, .safeStop], lenOk := fun n => n == 32 }

/-- ATTEST: the report and its signature, or BUSY when the signer's attempts all fail (R489). -/
def doAttest (bs : List Byte) (s : State) : (Nat × List Byte) × State :=
  match s.signed bs with
  | none => ((0x15, []), { s with free := s.free + 1 })
  | some r => done r { s with free := s.free + 1 }

/-- ATTEST (R489). -/
def execAttest (f : Frame) (s : State) : Host.Outcome State Fault Refusal := .next (go attestRow doAttest f s)

/-! ### Any opcode -/

/-- The opcodes of R468. -/
def knownOps : List Nat :=
  [1, 2, 3, 4, 5, 6, 0x10, 0x11, 0x12, 0x13, 0x14, 0x20, 0x21, 0x22, 0x23, 0x24, 0x30, 0x31, 0x32, 0x33, 0x40, 0x41, 0x50]

/-- A command whose opcode is not one of R468 (R464). -/
def unknownOp (op : Nat) (f : Frame) (s : State) : State :=
  if knownOps.contains op || !s.mailboxOn then s
  else if s.host.busy then ignoreGo s
  else
    let st := if 4080 < f.len then 0x13 else if !f.crcOk then 0x12 else 0x11
    refuseCmd op f.tag st (acceptGo s)

/-- UNKNOWN_OPCODE (R464). -/
def execUnknownOpcode (op : BitVec 16) (f : Frame) (s : State) : Host.Outcome State Fault Refusal := .next (unknownOp op.toNat f s)

/-- The mailbox command of an opcode, as a GO finds it in the command buffer. -/
def mailbox (op : Nat) (f : Frame) (s : State) : State :=
  match op with
  | 0x01 => go statusRow doStatus f s
  | 0x02 => go readRegRow doReadReg f s
  | 0x03 => go writeRegRow doWriteReg f s
  | 0x04 => go resetRow doReset f s
  | 0x05 => go journalRow doJournal f s
  | 0x06 => go certRow doCert f s
  | 0x10 => go memWriteRow doMemWrite f s
  | 0x11 => go memReadRow doMemRead f s
  | 0x12 => go storeRow doStore f s
  | 0x13 => go loadRow doLoad f s
  | 0x14 => go parkRow doPark f s
  | 0x20 => admission admitRow doAdmit f s
  | 0x21 => go jobStopRow doJobStop f s
  | 0x22 => go sharesRow doShares f s
  | 0x23 => admission radioRow doRadio f s
  | 0x24 => go dspMsgRow doDspMsg f s
  | 0x30 => go seqOpenRow doSeqOpen f s
  | 0x31 => go seqFeedRow doSeqFeed f s
  | 0x32 => go seqCloseRow doSeqClose f s
  | 0x33 => go seqRebindRow doSeqRebind f s
  | 0x40 => goLater flashWriteRow doFlashWrite f s
  | 0x41 => goLater flashVerifyRow doFlashVerify f s
  | 0x50 => go attestRow doAttest f s
  | op => unknownOp op f s

end Sys2Proof.Machine
end

