-- ==== Sys2Proof/Machine/Card.lean ====
section
/-! DEFINITION. The card interface (R456 to R461, R470, R474): the bus commands, CCCR, FBR and CIS, the spaces of functions 1 and
2, and the interrupts. -/

namespace Sys2Proof.Machine

/-! ### The link (R456, R459) -/

/-- The card part changed by f. -/
def modCard (f : Card → Card) (s : State) : State := { s with card := f s.card }

/-- The host part changed by f. -/
def modHost (f : HostIf → HostIf) (s : State) : State := { s with host := f s.host }

/-- The card answers (R439, R459, R478): its pins are driven, and no CMD15 has made it inactive. -/
def State.cardOn (s : State) : Bool := s.pins.sdio && !s.card.inactive

/-- The card is initialised, has an address and is selected. -/
def State.cardBusy (s : State) : Bool := s.cardOn && s.card.init && s.card.selected

/-- A bus command that the card takes. -/
def card (ok : Bool) (f : Card → Card) (s : State) : State := if ok then modCard (fun c => { f c with resp := [], respOk := true }) s else s

/-- CMD0 (R456): an I/O-only card in SD mode gives it no response, and SPI mode is not supported. (PRESUMED, log entry 71) -/
def execCmd0 (s : State) : Host.Outcome State Fault Refusal := .next s

/-- CMD3: the card publishes a new relative address, which only it chooses. (PRESUMED, log entry 71) -/
def cmd3 (s : State) : State :=
  let w : BitVec 16 := (Config.freeWord s.free).setWidth 16
  card (s.cardOn && s.card.init && !s.card.selected) (fun c => { c with rca := if w = 0 then 1 else w }) { s with free := s.free + 1 }

/-- CMD3 (R456). -/
def execCmd3 (s : State) : Host.Outcome State Fault Refusal := .next (cmd3 s)

/-- CMD5 (R456, R459): answered from step 3 of BOOTING on and in MOORED. -/
def execCmd5 (s : State) : Host.Outcome State Fault Refusal := .next (card s.cardOn (fun c => { c with init := true }) s)

/-- CMD7 (R456): the card of that address is selected, every other is deselected. -/
def execCmd7 (rca : BitVec 16) (s : State) : Host.Outcome State Fault Refusal :=
  .next (card (s.cardOn && s.card.init && s.card.rca != 0) (fun c => { c with selected := c.rca == rca }) s)

/-- CMD11 (R456): signalling at 1.8 V from now on. -/
def execCmd11 (s : State) : Host.Outcome State Fault Refusal := .next (card (s.cardOn && s.card.init) (fun c => { c with v18 := true }) s)

/-- CMD15 (R456): the card of that address goes inactive, until it loses its state. -/
def execCmd15 (rca : BitVec 16) (s : State) : Host.Outcome State Fault Refusal :=
  .next (card (s.cardOn && s.card.init && s.card.rca != 0 && s.card.rca == rca)
    (fun c => { c with inactive := true, selected := false }) s)

/-- CMD19 (R456): tuning in SDR50 and SDR104. -/
def execCmd19 (s : State) : Host.Outcome State Fault Refusal :=
  .next (card (s.cardBusy && s.card.v18 && (s.card.bss == 2 || s.card.bss == 3)) (fun c => { c with tuned := true }) s)

/-! ### Interrupts (R474) -/

/-- INT1 is pending. -/
def State.int1 (s : State) : Bool := (s.host.replyReady && s.host.replyEn) || (s.host.stateChg && s.host.stateEn)

/-- INT2 is pending: a whole record has unread bytes. -/
def State.int2 (s : State) : Bool := !s.host.stream.isEmpty

/-- The card signals on DAT1. -/
def State.dat1 (s : State) : Bool := s.cardOn && s.card.ienm && ((s.int1 && s.card.ien1) || (s.int2 && s.card.ien2))

/-! ### Function 0 (R457, R458) -/

/-- IOR2 (R459). (DEDUCED, log entry 75) -/
def State.ior2 (s : State) : Bool := s.card.ioe2 && s.dev != .moored && s.dev != .booting

/-- A byte of a block size. -/
def halfOf (w : BitVec 16) (hi : Bool) : Byte := if hi then (w >>> 8).setWidth 8 else w.setWidth 8

/-- The CIS bytes that R458 states, at the places of the standard's tuples: MANFID, FUNCID and FUNCE in that order. (PRESUMED, log entry 73) -/
def cisStated : List (Nat × Byte) :=
  [(0x1000, 0x20), (0x1001, 0x04), (0x1002, 0x4D), (0x1003, 0x0B), (0x1004, 0x64), (0x1005, 0x4B), (0x1006, 0x21), (0x1007, 0x02),
   (0x1008, 0x0C), (0x100A, 0x22), (0x2000, 0x22), (0x200E, 0x00), (0x200F, 0x02), (0x3000, 0x22), (0x300E, 0x00), (0x300F, 0x02)]

/-- A byte of the CIS. (PRESUMED, log entry 73) -/
def cisByte (a : Nat) : Byte :=
  match cisStated.find? fun x => x.1 == a with
  | some x => x.2
  | none => Config.cisByte a

/-- A byte of function 0. (DEDUCED, log entry 75) -/
def State.f0Byte (s : State) (a : Nat) : Byte :=
  let c := s.card
  match a with
  | 0x00 => 0x43
  | 0x01 => 0x03
  | 0x02 => BitVec.ofNat 8 (pack [(b2n c.ioe1, 1), (b2n c.ioe2, 2)])
  | 0x03 => BitVec.ofNat 8 (pack [(1, 1), (b2n s.ior2, 2)])
  | 0x04 => BitVec.ofNat 8 (pack [(b2n c.ienm, 0), (b2n c.ien1, 1), (b2n c.ien2, 2)])
  | 0x05 => BitVec.ofNat 8 (pack [(b2n s.int1, 1), (b2n s.int2, 2)])
  | 0x07 => BitVec.ofNat 8 (2 * b2n c.width4)
  | 0x08 => BitVec.ofNat 8 (0x12 + 32 * b2n c.e4mi)
  | 0x0A => 0x10
  | 0x10 => halfOf c.blk0 false
  | 0x11 => halfOf c.blk0 true
  | 0x13 => BitVec.ofNat 8 (1 + 2 * c.bss.toNat)
  | 0x14 => 0x03
  | 0x16 => BitVec.ofNat 8 (1 + 2 * b2n c.eai)
  | 0x10A => 0x20
  | 0x110 => halfOf c.blk1 false
  | 0x111 => halfOf c.blk1 true
  | 0x20A => 0x30
  | 0x210 => halfOf c.blk2 false
  | 0x211 => halfOf c.blk2 true
  | a => if 0x1000 ≤ a ∧ a < 0x4000 then cisByte a else 0

/-- A byte written to a block size: values above 512 are stored as 512. -/
def blkByte (w : BitVec 16) (hi : Bool) (b : Byte) : BitVec 16 :=
  let v := if hi then (w &&& 0xFF) ||| (b.setWidth 16 <<< 8) else (w &&& 0xFF00) ||| b.setWidth 16
  if 512 < v.toNat then 512 else v

/-- RES of the I/O abort byte (R457): every RW byte of the CCCR and FBR, and nothing else. -/
def Card.abortRes (c : Card) : Card :=
  { c with
    ioe1 := false, ioe2 := false, ienm := false, ien1 := false, ien2 := false, width4 := false, e4mi := false, bss := 0
    eai := false, blk0 := 0, blk1 := 0, blk2 := 0 }

/-- AS of the I/O abort byte (R457): every CMD53 of this model ends in its own step, so none is in progress. -/
def abortAs (_ : BitVec 3) (s : State) : State := s

/-- A write of a byte of function 0. -/
def writeF0 (a : Nat) (b : Byte) (s : State) : State :=
  let bit (n : Nat) : Bool := b.getLsbD n
  if a = 6 then (let s := abortAs (b.setWidth 3) s; if bit 3 then modCard Card.abortRes s else s)
  else modCard (fun c =>
    match a with
    | 0x02 => { c with ioe1 := bit 1, ioe2 := bit 2 }
    | 0x04 => { c with ienm := bit 0, ien1 := bit 1, ien2 := bit 2 }
    | 0x07 => if bit 0 then c else { c with width4 := bit 1 }
    | 0x08 => { c with e4mi := bit 5 }
    | 0x10 => { c with blk0 := blkByte c.blk0 false b }
    | 0x11 => { c with blk0 := blkByte c.blk0 true b }
    | 0x13 => if bit 3 then c else { c with bss := (b >>> 1).setWidth 3 }
    | 0x16 => { c with eai := bit 1 }
    | 0x110 => { c with blk1 := blkByte c.blk1 false b }
    | 0x111 => { c with blk1 := blkByte c.blk1 true b }
    | 0x210 => { c with blk2 := blkByte c.blk2 false b }
    | 0x211 => { c with blk2 := blkByte c.blk2 true b }
    | _ => c) s

/-- IO_ABORT_AS (R457). -/
def execIoAbortAs (fn : BitVec 3) (s : State) : Host.Outcome State Fault Refusal := .next (if s.cardBusy then abortAs fn s else s)

/-- IO_ABORT_RES (R457). -/
def execIoAbortRes (s : State) : Host.Outcome State Fault Refusal := .next (if s.cardBusy then modCard Card.abortRes s else s)

/-! ### Function 1 (R460 to R463) -/

/-- SDIO_F1_STATUS. -/
def State.f1Status (s : State) : Nat :=
  pack [(s.dev.code, 0), (b2n s.mem.parkValid, 3), (b2n s.host.busy, 4), (b2n s.host.replyReady, 8), (b2n s.host.stateChg, 9),
    (b2n s.host.goIgnored, 10)]

/-- SDIO_F1_INT_EN. -/
def State.f1IntEn (s : State) : Nat := pack [(b2n s.host.replyEn, 8), (b2n s.host.stateEn, 9)]

/-- Byte k of a word. -/
def byteOf (w k : Nat) : Byte := BitVec.ofNat 8 (w / 256 ^ k)

/-- A byte of function 1. -/
def State.f1Byte (s : State) (a : Nat) : Byte :=
  if a < 0x1000 then Cells.get 0 s.host.cmdBuf a
  else if a < 0x2000 then Cells.get 0 s.host.replyBuf (a - 0x1000)
  else if 0x2004 ≤ a ∧ a < 0x2008 then byteOf s.f1Status (a % 4)
  else if 0x2008 ≤ a ∧ a < 0x200C then byteOf s.f1IntEn (a % 4)
  else if 0x10000 ≤ a ∧ a < 0x20000 then Cells.get 0 s.host.window (a - 0x10000)
  else 0

/-- The command that the command buffer holds (R462). -/
def State.cmdFrame (s : State) : Nat × Frame :=
  let b := Cells.gets 0 s.host.cmdBuf 0 16
  let n := bits (wordOf b 2) 15 0
  let p := Cells.gets 0 s.host.cmdBuf 16 (min n 4080)
  (bits (wordOf b 0) 15 0,
   { tag := BitVec.ofNat 32 (wordOf b 1), len := n, hdrZero := bits (wordOf b 0) 31 16 == 0 && bits (wordOf b 2) 31 16 == 0
     crcOk := wordOf b 3 == (crc32c (b.take 12 ++ p)).toNat, payload := p })

/-- A GO: the command in the command buffer is carried out as its row states (R463). -/
def submit (s : State) : State := mailbox s.cmdFrame.1 s.cmdFrame.2 s

/-- A register of function 1 takes a word (R460, R461); a bit that an event of the same cycle sets is not cleared (R16). -/
def writeF1Reg (a : Nat) (v : Nat) (s : State) : State :=
  let v := (s.unset a (BitVec.ofNat 32 v)).toNat
  match a with
  | 0x2000 => if bitOf v 0 then submit s else s
  | 0x2004 => modHost (fun h => { h with
      replyReady := h.replyReady && !bitOf v 8, stateChg := h.stateChg && !bitOf v 9, goIgnored := h.goIgnored && !bitOf v 10 }) s
  | _ => modHost (fun h => { h with replyEn := bitOf v 8, stateEn := bitOf v 9 }) s

/-- A write of a byte of function 1: a register takes its word with byte 3. -/
def writeF1 (a : Nat) (b : Byte) (s : State) : State :=
  if a < 0x1000 then modHost (fun h => { h with cmdBuf := Cells.put 0 h.cmdBuf a b }) s
  else if 0x2000 ≤ a ∧ a < 0x200C then
    if a % 4 = 3 then writeF1Reg (a - 3) (Memory.num 0 s.host.stage (a - 3) 3 + 2 ^ 24 * b.toNat) s
    else modHost (fun h => { h with stage := Cells.put 0 h.stage a b }) s
  else if 0x10000 ≤ a ∧ a < 0x20000 then modHost (fun h => { h with window := Cells.put 0 h.window (a - 0x10000) b }) s
  else s

/-! ### Function 2 (R470) -/

/-- The next byte of the stream is taken; a record leaves with its last byte. -/
def popByte (s : State) : Byte × State :=
  match s.host.stream with
  | [] => (0, s)
  | r :: rest =>
    (r.headD 0, modHost (fun h => { h with stream := if r.length ≤ 1 then rest else r.drop 1 :: rest }) s)

/-- A byte of function 2, and the state after its read. -/
def f2Read (a : Nat) (s : State) : Byte × State :=
  if a < 0x1000 then popByte s
  else if 0x1000 ≤ a ∧ a < 0x1004 then (byteOf (s.host.stream.headD []).length (a % 4), s)
  else if 0x1004 ≤ a ∧ a < 0x1008 then (byteOf (pack [(s.host.fill, 0), (s.host.stream.length, 19)]) (a % 4), s)
  else if 0x1008 ≤ a ∧ a < 0x100C then (byteOf s.host.lost.toNat (a % 4), s)
  else (0, s)

/-- STREAM_PORT_READ (R470). -/
def execStreamPortRead (s : State) : Host.Outcome State Fault Refusal :=
  .next (if s.cardBusy && s.ior2 then
      let r := popByte s
      modHost (fun h => { h with portByte := r.1 }) r.2
    else s)

/-! ### CMD52 and CMD53 (R456, R460) -/

/-- Functions 0 to 2 exist, and function 2 is ready as its IOR2 says (R459). -/
def State.fnOk (s : State) (fn : BitVec 3) : Bool := decide (fn.toNat ≤ 1) || (fn == 2 && s.ior2)

/-- A byte read. -/
def readByte (fn : BitVec 3) (a : Nat) (s : State) : Byte × State :=
  if fn = 0 then (s.f0Byte a, s) else if fn = 1 then (s.f1Byte a, s) else f2Read a s

/-- A byte written; function 2 has nothing to write. -/
def writeByte (fn : BitVec 3) (a : Nat) (b : Byte) (s : State) : State :=
  if fn = 0 then writeF0 a b s else if fn = 1 then writeF1 a b s else s

/-- n bytes read, from rising addresses or from one. -/
def readBytes (fn : BitVec 3) (incr : Bool) : Nat → Nat → State → List Byte × State
  | 0, _, s => ([], s)
  | n + 1, a, s =>
    let r := readByte fn a s
    let t := readBytes fn incr n (if incr then a + 1 else a) r.2
    (r.1 :: t.1, t.2)

/-- Bytes written, to rising addresses or to one. -/
def writeBytes (fn : BitVec 3) (incr : Bool) : List Byte → Nat → State → State
  | [], _, s => s
  | b :: bs, a, s => writeBytes fn incr bs (if incr then a + 1 else a) (writeByte fn a b s)

/-- The response of a transfer. -/
def respond (ok : Bool) (bs : List Byte) (s : State) : State := modCard (fun c => { c with resp := bs, respOk := ok }) s

/-- CMD52: a read gives the byte, a write takes it. -/
def cmd52 (write : Bool) (fn : BitVec 3) (a : Nat) (b : Byte) (s : State) : State :=
  if !s.cardBusy then s
  else if !s.fnOk fn then respond false [] s
  else if write then respond true [b] (writeByte fn a b s)
  else
    let r := readByte fn a s
    respond true [r.1] r.2

/-- CMD52 (R460). -/
def execCmd52 (write : Bool) (fn : BitVec 3) (a : BitVec 17) (b : Byte) (s : State) : Host.Outcome State Fault Refusal :=
  .next (cmd52 write fn a.toNat b s)

/-- Block size of a function. -/
def State.blkSize (s : State) (fn : BitVec 3) : Nat := (if fn = 0 then s.card.blk0 else if fn = 1 then s.card.blk1 else s.card.blk2).toNat

/-- Bytes of a CMD53; none where the card refuses its count (R456). (DEDUCED, log entry 72) -/
def State.xferBytes (s : State) (block : Bool) (fn : BitVec 3) (count : Nat) : Option Nat :=
  if block then (if count = 0 ∨ s.blkSize fn = 0 then none else some (count * s.blkSize fn))
  else some (if count = 0 then 512 else count)

/-- CMD53. (DEDUCED, log entry 72) -/
def cmd53 (write block incr : Bool) (fn : BitVec 3) (a count : Nat) (data : List Byte) (s : State) : State :=
  if !s.cardBusy then s
  else if !s.fnOk fn then respond false [] s
  else
    match s.xferBytes block fn count with
    | none => respond false [] s
    | some n =>
      if write then respond true [] (writeBytes fn incr (padTo n data) a s)
      else
        let r := readBytes fn incr n a s
        respond true r.1 r.2

/-- CMD53 (R456, R460). -/
def execCmd53 (write block incr : Bool) (fn : BitVec 3) (a : BitVec 17) (count : BitVec 9) (data : List Byte) (s : State) :
    Host.Outcome State Fault Refusal :=
  .next (cmd53 write block incr fn a.toNat count.toNat data s)

end Sys2Proof.Machine
end

