-- ==== Sys2Proof/Machine/Dsp.lean ====
section
/-! DEFINITION. The meanings of the DSP instructions (R336), of an illegal one (R342) and of an interrupt (R340). -/

namespace Sys2Proof.Machine

/-- CMAC: (A2p, A2p+1) += x·b (R336). -/
def execCmac (o : MacOp) (s : State) : Host.Outcome State Fault Refusal :=
  .next (mac 0x00 o true (fun a0 a1 x b =>
    (a0 + (partI x * partI b - partQ x * partQ b), some (a1 + (partI x * partQ b + partQ x * partI b)))) s)

/-- CMACJ: (A2p, A2p+1) += x·conj(b) (R336). -/
def execCmacj (o : MacOp) (s : State) : Host.Outcome State Fault Refusal :=
  .next (mac 0x01 o true (fun a0 a1 x b =>
    (a0 + (partI x * partI b + partQ x * partQ b), some (a1 + (partQ x * partI b - partI x * partQ b)))) s)

/-- CMUL: (A2p, A2p+1) = x·b (R336). -/
def execCmul (o : MacOp) (s : State) : Host.Outcome State Fault Refusal :=
  .next (mac 0x02 o true (fun _ _ x b =>
    (partI x * partI b - partQ x * partQ b, some (partI x * partQ b + partQ x * partI b))) s)

/-- MAC2: A2p += xI·bI; A2p+1 += xQ·bQ (R336). -/
def execMac2 (o : MacOp) (s : State) : Host.Outcome State Fault Refusal :=
  .next (mac 0x03 o true (fun a0 a1 x b => (a0 + partI x * partI b, some (a1 + partQ x * partQ b))) s)

/-- SQMAG: A2p += xI² + xQ²; b is not read (R336). -/
def execSqmag (o : MacOp) (s : State) : Host.Outcome State Fault Refusal :=
  .next (mac 0x04 o false (fun a0 _ x _ => (a0 + (partI x * partI x + partQ x * partQ x), none)) s)

/-- A register-format instruction on the DSP alone. -/
def regOp (op : Nat) (o : RegOp) (f : Dsp → Dsp) (s : State) : State := issue (regOpWord op o) false false (modDsp f) s

/-- A register-format result in accumulator DST, saturated where it does not fit (R333). -/
def accOp (op : Nat) (o : RegOp) (f : Dsp → Int) (s : State) : State :=
  regOp op o (fun d => let x := sat40 (f d); d.regWrite o.dst x.1 x.2) s

/-- ADDA (R336). -/
def execAdda (o : RegOp) (s : State) : Host.Outcome State Fault Refusal :=
  .next (accOp 0x00 o (fun d => d.accVis[o.sra].toInt + d.accVis[o.srb].toInt) s)

/-- SUBA (R336). -/
def execSuba (o : RegOp) (s : State) : Host.Outcome State Fault Refusal :=
  .next (accOp 0x01 o (fun d => d.accVis[o.sra].toInt - d.accVis[o.srb].toInt) s)

/-- SHRA: arithmetic shift right by SH (R336). -/
def execShra (o : RegOp) (s : State) : Host.Outcome State Fault Refusal :=
  .next (accOp 0x02 o (fun d => d.accVis[o.sra].toInt / 2 ^ o.sh.toNat) s)

/-- SHLA: shift left by SH, saturated (R336). -/
def execShla (o : RegOp) (s : State) : Host.Outcome State Fault Refusal :=
  .next (accOp 0x03 o (fun d => d.accVis[o.sra].toInt * 2 ^ o.sh.toNat) s)

/-- CLRA (R336). -/
def execClra (o : RegOp) (s : State) : Host.Outcome State Fault Refusal :=
  .next (regOp 0x04 o (fun d => d.regWrite o.dst 0 false) s)

/-- MOVDA: bits 15:0 of D(SRA), sign-extended, shifted left by SH (R336). -/
def execMovda (o : RegOp) (s : State) : Host.Outcome State Fault Refusal :=
  .next (regOp 0x05 o (fun d => d.regWrite o.dst (BitVec.ofInt 40 (partI d.d[o.sra] * 2 ^ o.sh.toNat)) false) s)

/-- MOVS: D(DST) = special register SH; a number with no register is illegal (R332, R336). -/
def execMovs (o : RegOp) (s : State) : Host.Outcome State Fault Refusal :=
  .next (issue (regOpWord 0x06 o) false false (fun s => match special o.sh.toNat s with
    | none => dspTrap 1 s
    | some w => modDsp (Dsp.dWrite o.dst w) s) s)

/-- MOVSD: special register SH = D(SRA) (R332, R336). -/
def execMovsd (o : RegOp) (s : State) : Host.Outcome State Fault Refusal :=
  .next (issue (regOpWord 0x07 o) false false (fun s => match special o.sh.toNat s with
    | none => dspTrap 1 s
    | some _ => setSpecial o.sh.toNat s.dsp.d[o.sra] s) s)

/-- LD: D(REG) = word at AG, readable at issue + 2 (R336, R337). -/
def execLd (o : MemOp) (s : State) : Host.Outcome State Fault Refusal :=
  .next (issue (memOpWord 0x00 o) false false (fun s => match memSel o.mem with
    | none => dspTrap 1 s
    | some m =>
      let a := s.dsp.ags[o.ag].ag
      if beyond m a then dspTrap 3 s
      else modDsp (fun d => { (d.step o.ag) with dPend := d.dPend ++ [(2, o.reg, d.bus m a.toNat)] }) s) s)

/-- ST: word at AG = D(REG); a doorbell where it writes a doorbell word (R336, R364). -/
def execSt (o : MemOp) (s : State) : Host.Outcome State Fault Refusal :=
  .next (issue (memOpWord 0x01 o) false true (fun s => match memSel o.mem with
    | none => dspTrap 1 s
    | some m =>
      let a := s.dsp.ags[o.ag].ag
      if beyond m a then dspTrap 3 s
      else dspStore m a.toNat s.dsp.d[o.reg] (modDsp (Dsp.step o.ag) s)) s)

/-- STR: word at AG = pair REG[1:0], rounded half up and clamped (R334); to C memory it is illegal. (DESIGN CHOICE, log entry 86) -/
def execStr (o : MemOp) (s : State) : Host.Outcome State Fault Refusal :=
  .next (issue (memOpWord 0x02 o) false true (fun s => match memSel o.mem with
    | none => dspTrap 1 s
    | some m =>
      if m = 2 then dspTrap 1 s
      else
        let a := s.dsp.ags[o.ag].ag
        let p : Nat := o.reg.1 % 4
        let x := strWord (s.dsp.accVis.toList.getD (2 * p) 0) (s.dsp.accVis.toList.getD (2 * p + 1) 0) o.sh.toNat s.free
        let s := if o.sh.toNat ≤ 39 then s else { s with free := s.free + 2 }
        dspStore m a.toNat x.1 (modDsp (fun d => { (d.step o.ag) with storeSat := d.storeSat || x.2 }) s)) s)

/-- A control-format instruction on the DSP alone, `illegalInLoop` unless it is SETAG, SETM or SETL (R339). -/
def ctlOp (w : Word) (inLoop : Bool) (f : Dsp → Dsp) (s : State) : State := issue w (!inLoop) false (modDsp f) s

/-- BR: branch after two delay slots (R336, R338). -/
def execBr (t : BitVec 14) (s : State) : Host.Outcome State Fault Refusal := .next (ctlOp (ctlWord 0x00 0 t.toNat) false (Dsp.branch t) s)

/-- BRNEG: branch when A(REG) is negative (R336, R338). -/
def execBrneg (r : Fin 8) (t : BitVec 14) (s : State) : Host.Outcome State Fault Refusal :=
  .next (ctlOp (ctlWord 0x01 r t.toNat) false (fun d => if d.accVis[r].toInt < 0 then d.branch t else d) s)

/-- CALL: the address after the delay slots into D7, branch (R336, R338). -/
def execCall (t : BitVec 14) (s : State) : Host.Outcome State Fault Refusal :=
  .next (ctlOp (ctlWord 0x02 0 t.toNat) false (fun d => (d.dWrite 7 ((d.last + 3).setWidth 32)).branch t) s)

/-- RET: branch to D7[13:0] (R336, R338). -/
def execRet (s : State) : Host.Outcome State Fault Refusal :=
  .next (ctlOp (ctlWord 0x03 0 0) false (fun d => d.branch (d.d[(7 : Fin 8)].setWidth 14)) s)

/-- RETI: branch to ILR; interrupts enabled; the interrupted iteration is fetched from program memory, whatever the handler's own
loops left in the loop cache (R336, R341). -/
def execReti (s : State) : Host.Outcome State Fault Refusal :=
  .next (ctlOp (ctlWord 0x04 0 0) false (fun d => { (d.branch d.ilr) with ints := true, cache := [] }) s)

/-- LOOP (R339): the next LEN + 1 instructions are the body; with count 0 it is skipped, unless a branch
whose last delay slot this is goes elsewhere; a body past the program memory is illegal. -/
def execLoop (count : BitVec 16) (len : BitVec 5) (s : State) : Host.Outcome State Fault Refusal :=
  .next (issue (ctlWord 0x05 0 (count.toNat + 2 ^ 16 * len.toNat)) true false (fun s =>
    let n := len.toNat + 1
    let at_ := s.dsp.last.toNat
    if 16383 < at_ + n then dspTrap 2 s
    else modDsp (fun d => { d with
      lc := count, ls := BitVec.ofNat 14 (at_ + 1), le := BitVec.ofNat 14 (at_ + n), cache := []
      pc := if count = 0 ∧ d.pc = BitVec.ofNat 14 (at_ + 1) then BitVec.ofNat 14 (at_ + n + 1) else d.pc }) s) s)

/-- SETAG (R336). -/
def execSetag (r : Fin 8) (v : BitVec 14) (s : State) : Host.Outcome State Fault Refusal :=
  .next (ctlOp (ctlWord 0x06 r v.toNat) true (fun d => { d with ags := modV d.ags r fun g => { g with ag := v } }) s)

/-- SETM (R336). -/
def execSetm (r : Fin 8) (v : BitVec 14) (brev : Bool) (s : State) : Host.Outcome State Fault Refusal :=
  .next (ctlOp (ctlWord 0x07 r (v.toNat + 2 ^ 14 * b2n brev)) true (fun d => { d with ags := modV d.ags r fun g => { g with m := v, brev := brev } }) s)

/-- SETL: L(REG) = operand; B(REG) = current AG(REG) (R336). -/
def execSetl (r : Fin 8) (v : BitVec 14) (s : State) : Host.Outcome State Fault Refusal :=
  .next (ctlOp (ctlWord 0x08 r v.toNat) true (fun d => { d with ags := modV d.ags r fun g => { g with l := v, b := g.ag } }) s)

/-- DI (R336). -/
def execDi (s : State) : Host.Outcome State Fault Refusal := .next (ctlOp (ctlWord 0x09 0 0) false (fun d => { d with ints := false }) s)

/-- EI (R336). -/
def execEi (s : State) : Host.Outcome State Fault Refusal := .next (ctlOp (ctlWord 0x0A 0 0) false (fun d => { d with ints := true }) s)

/-- WAIT: issue stops until a source of the mask is pending (R336). -/
def execWait (mask : BitVec 8) (s : State) : Host.Outcome State Fault Refusal :=
  .next (ctlOp (ctlWord 0x0B 0 mask.toNat) false (fun d =>
    if d.irqPend &&& mask = 0 then { d with run := .waiting, mask := mask } else d) s)

/-- HALT: the DSP stops (R336). -/
def execHalt (s : State) : Host.Outcome State Fault Refusal :=
  .next (ctlOp (ctlWord 0x0C 0 0) false (fun d => { d.drain with run := .stopped }) s)

/-- The TRAP code of a trap (R362). -/
def trapCode : DspTrap → BitVec 3
  | .illegal => 1
  | .loopBody => 2
  | .address => 3

/-- Is the word a legal instruction: a listed OP of its format, the bits its format calls zero being zero, BSEL and MEM not 3, a special
register that exists, no STR to C memory (R335, R336)? (DEDUCED, log entry 87) -/
def legalWord (w : Word) : Bool :=
  let n := w.toNat
  let op := bits n 29 25
  match bits n 31 30 with
  | 0 => decide (op ≤ 4) && bits n 13 12 != 3 && bits n 10 0 == 0
  | 1 => decide (op ≤ 7) && bits n 9 0 == 0 && (decide (op ≤ 5) || decide (bits n 15 10 ≤ 14))
  | 2 => decide (op ≤ 2) && bits n 18 17 != 3 && bits n 10 0 == 0 && !(op == 2 && bits n 18 17 == 2)
  | _ => match op with
    | 0 | 2 => bits n 24 14 == 0
    | 1 | 6 | 8 => bits n 21 14 == 0
    | 3 | 4 | 9 | 10 | 12 => bits n 24 0 == 0
    | 5 => bits n 24 21 == 0
    | 7 => bits n 21 15 == 0
    | 11 => bits n 24 8 == 0
    | _ => false

/-- Does the instruction at the program counter make an illegal loop body: a control-format one other than SETAG, SETM and SETL in
a body, or a LOOP whose body runs past program address 16,383 (R339)? -/
def Dsp.illegalBody (d : Dsp) : Bool :=
  let n := d.fetched.toNat
  let op := bits n 29 25
  bits n 31 30 == 3 && ((d.inBody && !(op == 6 || op == 7 || op == 8)) ||
    (op == 5 && decide (16383 < d.pc.toNat + bits n 20 16 + 1)))

/-- Does the instruction at the program counter address beyond a memory (R331)? -/
def Dsp.illegalAddress (d : Dsp) : Bool :=
  let n := d.fetched.toNat
  let at_ (hi : Nat) : BitVec 14 := d.ags[Fin.ofNat 8 (bits n hi (hi - 2))].ag
  match bits n 31 30 with
  | 0 => bits n 29 25 != 4 && bits n 13 12 != 1 && beyond 2 (at_ 16)
  | 2 => bits n 18 17 == 2 && beyond 2 (at_ 21)
  | _ => false

/-- Does a trap of that cause come of the word at the program counter (R342)? -/
def Dsp.traps (d : Dsp) (why : DspTrap) : Bool :=
  match why with
  | .illegal => !legalWord d.fetched
  | .loopBody => legalWord d.fetched && d.illegalBody
  | .address => legalWord d.fetched && d.illegalAddress

/-- ILLEGAL_INSTRUCTION (R342, R408): a running DSP traps. (DEDUCED, log entry 87) -/
def execIllegalInstruction (why : DspTrap) (s : State) : Host.Outcome State Fault Refusal :=
  .next (if s.dsp.run = .running ∧ s.dsp.traps why then dspTrap (trapCode why) (modDsp (fun d => { d with last := d.pc }) s) else s)

/-- The lowest pending enabled interrupt source (R340). -/
def Dsp.source (d : Dsp) : Option Nat := (List.range 8).find? fun n => (d.irqEn &&& d.irqPend).getLsbD n

/-- DSP_INTERRUPT (R340): with interrupts enabled and no delay slot open, the lowest pending enabled source is taken:
the pipeline drains, ILR takes the next address, the loop cache is empty, interrupts are disabled, and execution goes on
at 0x0010 + 4 × source. -/
def dspInterrupt (s : State) : State :=
  let d := s.dsp
  match d.source with
  | none => s
  | some n =>
    if (d.run = .running ∨ d.run = .waiting) ∧ d.ints ∧ d.branches = [] then
      { s with dsp := { d.drain with
          ilr := d.pc, cache := [], ints := false, run := .running
          irqPend := d.irqPend &&& ~~~(BitVec.ofNat 8 (2 ^ n))
          pc := BitVec.ofNat 14 (0x10 + 4 * n) } }
    else s

/-- DSP_INTERRUPT (R340, R341). -/
def execDspInterrupt (s : State) : Host.Outcome State Fault Refusal := .next (dspInterrupt s)

end Sys2Proof.Machine
end

