-- ==== Sys2Proof/Machine/Monitor.lean ====
section
/-! DEFINITION. The serial monitor (chapter 19): the decision of a line, its commands, the data phase of fw. -/

namespace Sys2Proof.Machine

/-- The monitor changed by f. -/
def modMon (f : Monitor → Monitor) (s : State) : State := { s with mon := f s.mon }

/-- A flash operation of the monitor's own runs: what it receives is discarded (R495). -/
def State.monFlash (s : State) : Bool := s.boot.flashOp.any fun x => !x.forHost

/-- The monitor takes lines (R494, R495, R499): its pins are driven, no data phase and no command of its own runs. -/
def State.monTakes (s : State) : Bool := s.pins.uart && s.mon.fw.isNone && !s.monFlash

/-- A reply of the monitor. -/
def say (ls : List MonLine) (s : State) : State := modMon (fun m => { m with out := ls }) s

/-- A line is decided (R502). (DEDUCED, log entry 74) -/
def countLine (s : State) : State := modMon (fun m => { m with lines := m.lines + 1 }) s

/-- A command of R498: its legal states, whether it is refused while the device is parked (R225), the argument counts it takes,
what it waits for, its ranges. -/
structure MonRow where
  legal : List DevState
  awake : Bool := false
  argc  : Nat → Bool
  busy  : State → Bool := fun _ => false
  args  : List Nat → State → Bool := fun _ _ => true

/-- The command is legal in the present state (R225, R498). -/
def MonRow.allowed (r : MonRow) (s : State) : Bool := r.legal.contains s.dev && !(r.awake && s.parked)

/-- The code for which a line is refused (R496), in the order of R464; 0 when it is carried out. -/
def MonRow.check (r : MonRow) (l : List (Option Nat)) (s : State) : Nat :=
  if !r.allowed s then 0x10
  else if !r.argc l.length then 0x13
  else if r.busy s then 0x15
  else match numbers l with
    | none => 0x14
    | some ns => if r.args ns s then 0 else 0x14

/-- A line with its command (R495 to R498). (DEDUCED, log entry 74) -/
def monLine (r : MonRow) (l : List (Option Nat)) (act : List Nat → State → State) (s : State) : State :=
  if !s.monTakes then s
  else
    let s := countLine s
    match r.check l s with
    | 0 => act ((numbers l).getD []) s
    | c => say [.err c] s

/-! ### Reading and writing (R498) -/

/-- st. -/
def monSt (_ : List Nat) (s : State) : State :=
  say [.named "STATE" (BitVec.ofNat 32 s.dev.code), .named "BOOT_STATUS" s.bootStatus, .named "BOOT_TALLY" (s.boot.tally.setWidth 32),
    .named "ISL_ADMIT_STATE" s.admitState, .named "SAFE_STATUS" s.safeStatus, .named "PWR_STATUS" s.pwrStatus,
    .named "MEM_PARK" s.memPark, .ok] s

/-- MONITOR_ST (R498). -/
def execMonitorSt (s : State) : Host.Outcome State Fault Refusal :=
  .next (monLine { legal := allStates, argc := fun n => n == 0 } [] monSt s)

/-- The rr row. -/
def rrRow : MonRow :=
  { legal := allStates, argc := fun n => n == 1 || n == 2
    args := fun l _ => countOk 1 64 l && inRegs (arg l 0) (countArg 0 1 64 l) }

/-- rr. -/
def monRr (l : List Nat) (s : State) : State :=
  let r := regReads (countArg 0 1 64 l) (arg l 0) s
  say ((r.1.zipIdx.map fun x => .reg (arg l 0 + 4 * x.2) x.1) ++ [.ok]) r.2

/-- RR (R498). -/
def execRr (l : List (Option Nat)) (s : State) : Host.Outcome State Fault Refusal := .next (monLine rrRow l monRr s)

/-- The wr row. -/
def wrRow : MonRow :=
  { legal := notBooting, argc := fun n => n == 2, args := fun l _ => inRegs (arg l 0) 1 && decide (arg l 1 < 2 ^ 32) }

/-- wr. -/
def monWr (l : List Nat) (s : State) : State := say [.ok] (regWrite (arg l 0) (BitVec.ofNat 32 (arg l 1)) s)

/-- WR (R498). -/
def execWr (l : List (Option Nat)) (s : State) : Host.Outcome State Fault Refusal := .next (monLine wrRow l monWr s)

/-- READY, RUNNING, DEGRADED and SAFE_STOP. -/
def upStates : List DevState := [.ready, .running, .degraded, .safeStop]

/-- Bytes in lines of n. -/
def inLines (n : Nat) : Nat → List Byte → List MonLine
  | 0, _ => []
  | fuel + 1, bs => if bs.isEmpty then [] else .raw (bs.take n) :: inLines n fuel (bs.drop n)

/-- The mr row. -/
def mrRow : MonRow :=
  { legal := upStates, awake := true, argc := fun n => n == 2
    args := fun l s => decide (1 ≤ arg l 1 ∧ arg l 1 ≤ 256 ∧ arg l 0 + arg l 1 ≤ s.part.dramBytes) }

/-- mr; with the PHY groups off no byte can be told. -/
def monMr (l : List Nat) (s : State) : State :=
  let n := arg l 1
  let bs := if s.dom.phy = 0 then freeBytes s.free n else s.dramBytes (arg l 0) n
  say (inLines 16 n bs ++ [.ok]) { s with free := s.free + n }

/-- MR (R498). -/
def execMr (l : List (Option Nat)) (s : State) : Host.Outcome State Fault Refusal := .next (monLine mrRow l monMr s)

/-- Bytes of a scratchpad (R166). -/
def padBytes : Nat := 32 * bankBytes

/-- Bytes of a core's scratchpad window (R18, R19). -/
def windowBytes : Nat := 2 * padBytes

/-- A range of n narrow-view words of a scratchpad window (R19, R167): above CORE_BASIN_SIZE it is a hole. -/
def narrowOk (core off n : Nat) : Bool := decide (core < 64 ∧ off + 8 * n ≤ windowBytes) && off % 8 == 0

/-- The core that an argument names. -/
def coreArg (l : List Nat) : Fin 64 := Fin.ofNat 64 (arg l 0)

/-- The sr row. -/
def srRow : MonRow :=
  { legal := upStates, awake := true, argc := fun n => n == 3
    args := fun l _ => decide (1 ≤ arg l 2 ∧ arg l 2 ≤ 32) && narrowOk (arg l 0) (arg l 1) (arg l 2) }

/-- The narrow-view words at an offset, as the bytes stood before the writes of the cycle (R67, R167); those of the hole are zero (R19),
those of a bank in SLEEP_OFF, or of a core without power, are lost. (DEDUCED, log entry 20) -/
def State.narrowWords (s : State) (c : Core) (on : Bool) (off n : Nat) : List Quad :=
  (List.range n).map fun i =>
    let a := off + 8 * i
    let lost := !on || (banksOf [(a, 8)]).any fun k => (c.banks[k]).at_ s.clk.raw == .sleepOff
    BitVec.ofNat 64 (leNat (if padBytes ≤ a then [] else if lost then freeBytes (s.free + 8 * i) 8
      else (List.range 8).map fun k => c.before s.clk.raw (a + k)))

/-- sr. -/
def monSr (l : List Nat) (s : State) : State :=
  let u := coreUnit (coreArg l)
  let s := settleCore u s
  let n := arg l 2
  say (((s.narrowWords s.cores[u] (s.coreOn (arg l 0)) (arg l 1) n).map fun q => .quad q) ++ [.ok]) { s with free := s.free + 8 * n }

/-- SR (R168, R498). -/
def execSr (l : List (Option Nat)) (s : State) : Host.Outcome State Fault Refusal := .next (monLine srRow l monSr s)

/-- The sw row. -/
def swRow : MonRow :=
  { legal := upStates, awake := true, argc := fun n => n == 3, args := fun l _ => narrowOk (arg l 0) (arg l 1) 1 && decide (arg l 2 < 2 ^ 64) }

/-- No job and no proof slot owns the core in the present beat (R168). -/
def State.coreFree (s : State) (c : Nat) : Bool := (s.ownerOf (c / 8) s.clk.beat).isNone && !s.proofBeat s.clk.beat

/-- A narrow-view write of 8 bytes (R168, R179): carried out on a core that nobody owns, at once or once its bank is ON, otherwise
ignored and counted; in the hole it has no effect (R19). (DEDUCED, log entry 20) -/
def narrowWrite (c : Fin 64) (off : Nat) (v : Nat) (s : State) : State :=
  let u := coreUnit c
  let s := settleCore u s
  if !s.coreOn c.1 || decide (padBytes ≤ off) then s
  else if s.coreFree c.1 then
    let s := lateWrite u none [(off, 8)] s
    modCore u (fun c => { c with narrow := c.narrow ++ [(off, v)] }.landNarrow s.clk.raw) s
  else modCore u (fun c => { c with seq := { c.seq with narrowCnt := satInc c.seq.narrowCnt } }) s

/-- SW (R168, R498). -/
def execSw (l : List (Option Nat)) (s : State) : Host.Outcome State Fault Refusal :=
  .next (monLine swRow l (fun l s => say [.ok] (narrowWrite (coreArg l) (arg l 1) (arg l 2) s)) s)

/-! ### Logs (R432, R450, R498) -/

/-- The log row. -/
def logRow : MonRow := { legal := allStates, argc := fun n => decide (n ≤ 1), args := fun l _ => countOk 0 256 l }

/-- log: the newest records of the diagnostic log, oldest first; what stands in their SEQ no rule states. -/
def monLog (l : List Nat) (s : State) : State :=
  let d := s.jrnl.diag
  let rs := d.drop (d.length - countArg 1 0 256 l)
  say ((rs.zipIdx.map fun x => .raw (x.1.bytes (Config.freeWord (s.free + x.2)))) ++ [.ok]) { s with free := s.free + 256 }

/-- LOG (R432, R498). -/
def execLog (l : List (Option Nat)) (s : State) : Host.Outcome State Fault Refusal := .next (monLine logRow l monLog s)

/-- The jr row. -/
def jrRow : MonRow :=
  { legal := notBooting, argc := fun n => n == 1 || n == 2, args := fun l _ => decide (arg l 0 < 2 ^ 32) && countOk 1 64 l }

/-- jr. -/
def monJr (l : List Nat) (s : State) : State :=
  say (((readJournal s.boot.flash (BitVec.ofNat 32 (arg l 0)) (countArg 2 1 64 l)).map fun r => .raw r) ++ [.ok]) s

/-- JR (R450, R498). -/
def execJr (l : List (Option Nat)) (s : State) : Host.Outcome State Fault Refusal := .next (monLine jrRow l monJr s)

/-! ### Boot flash (R499 to R501) -/

/-- The fw row. -/
def fwRow : MonRow :=
  { legal := [.moored, .ready], argc := fun n => n == 2, busy := fun s => s.boot.flashOp.isSome
    args := fun l _ => arg l 0 % 65536 == 0 && decide (arg l 0 < 0x1010000 ∧ 1 ≤ arg l 1 ∧ arg l 1 ≤ 65536) }

/-- FW (R499): SEND, and the data phase begins. -/
def execFw (l : List (Option Nat)) (s : State) : Host.Outcome State Fault Refusal :=
  .next (monLine fwRow l (fun l s => say [.send] (modMon (fun m => { m with fw := some (arg l 0, arg l 1, []) }) s)) s)

/-- All bytes of a transfer are in (R499, R500): its check word, then the erase and program of the block. -/
def fwWhole (off len : Nat) (bs : List Byte) (s : State) : State :=
  let d := bs.take len
  let s := modMon (fun m => { m with fw := none, out := [] }) s
  if leNat (bs.drop len) != (crc32c d).toNat then say [.err 0x12] s
  else if s.boot.flashOp.isSome then say [.err 0x15] s
  else { s with boot := { s.boot with
    flashOp := some { forHost := false, isCheck := false, offset := off, length := len, data := d } } }

/-- A data byte of fw. -/
def fwByte (b : Byte) (s : State) : State :=
  match s.mon.fw with
  | none => s
  | some (off, len, bs) =>
    if !s.pins.uart then s
    else if bs.length + 1 < len + 4 then modMon (fun m => { m with fw := some (off, len, bs ++ [b]) }) s
    else fwWhole off len (bs ++ [b]) s

/-- FW_DATA_BYTE (R499). -/
def execFwDataByte (b : Byte) (s : State) : Host.Outcome State Fault Refusal := .next (fwByte b s)

/-- FW_DATA_TIMEOUT (R499). -/
def execFwDataTimeout (s : State) : Host.Outcome State Fault Refusal :=
  .next (if s.mon.fw.isNone || !s.pins.uart then s else modMon (fun m => { m with fw := none, out := [.err 0x13] }) s)

/-- FV (R500, R501): the check begins. -/
def execFv (s : State) : Host.Outcome State Fault Refusal :=
  .next (monLine { legal := [.moored, .ready], argc := fun n => n == 0, busy := fun s => s.boot.flashOp.isSome } []
    (fun _ s => say [] { s with boot := { s.boot with flashOp := some { forHost := false, isCheck := true } } }) s)

/-! ### Reset and the line itself -/

/-- reset: armed 1 ms on, and noted in the diagnostic log under a CODE that no rule states. -/
def monReset (_ : List Nat) (s : State) : State :=
  let s := diagnose ((Config.freeWord s.free).toNat % 2 ^ 16) [] { s with free := s.free + 1 }
  say [.ok] (modRst (fun r => { r with hostReset := true }) s)

/-- MONITOR_RESET (R431, R498). -/
def execMonitorReset (s : State) : Host.Outcome State Fault Refusal :=
  .next (monLine { legal := allStates, argc := fun n => n == 0 } [] monReset s)

/-- LINE_TOO_LONG (R495). -/
def execLineTooLong (s : State) : Host.Outcome State Fault Refusal :=
  .next (if s.monTakes then say [.err 0x13] (countLine s) else s)

/-- UART_BREAK (R493): the line in progress, of which this model holds nothing, is discarded without a reply. -/
def execUartBreak (s : State) : Host.Outcome State Fault Refusal := .next s

/-- UART_FRAMING_ERROR (R493, R502). -/
def execUartFramingError (s : State) : Host.Outcome State Fault Refusal :=
  .next (if s.pins.uart then modMon (fun m => { m with framing := satInc m.framing }) s else s)

/-- UNKNOWN_COMMAND_WORD (R496). -/
def execUnknownCommandWord (s : State) : Host.Outcome State Fault Refusal :=
  .next (if s.monTakes then say [.err 0x11] (countLine s) else s)

end Sys2Proof.Machine
end

