-- ==== Sys2Proof/Machine/Radio.lean ====
section
/-! DEFINITION. The meanings of the learned receivers' rows (chapter 13): doorbells, bridge copies, phases, exits, the
decoder, the island's poll for DSP messages. -/

namespace Sys2Proof.Machine

/-- A doorbell rung by its code: the doorbell word holds the code (R363, R364). -/
def ring (e : Fin 2) (code : Word) (s : State) : State := doorbell e code (setHandoff e 0xFFF code s)

/-- TRAIN (R364). -/
def execTrain (e : Fin 2) (s : State) : Host.Outcome State Fault Refusal := .next (ring e 1 s)

/-- HEADER (R364). -/
def execHeader (e : Fin 2) (s : State) : Host.Outcome State Fault Refusal := .next (ring e 2 s)

/-- END (R364, R380). -/
def execEndSlot (e : Fin 2) (s : State) : Host.Outcome State Fault Refusal := .next (ring e 3 s)

/-- CLASSIC (R364, R379). -/
def execClassic (e : Fin 2) (s : State) : Host.Outcome State Fault Refusal := .next (ring e 4 s)

/-- DECODE (R361, R364). -/
def execDecode (e : Fin 2) (s : State) : Host.Outcome State Fault Refusal := .next (ring e 5 s)

/-- Does the running phase read the basin that a copy for CE or DM writes (R373)? -/
def Radio.basinBusy (r : Radio) (dm : Bool) : Bool := match r.phase with | none => false | some p => p.dm == dm

/-- The oldest queued request whose copy has not landed, marked as landed (R373). -/
def markCopied (now : Nat) : List Phase → List Phase
  | [] => []
  | p :: ps => if p.copied then p :: markCopied now ps
    else { p with copied := true, ready := if p.waited then now + 2048 else p.ready } :: ps

/-- BRIDGE_COPY_DONE (R373): the oldest copy still on its way lands, unless a running phase reads its basin. -/
def bridgeDone (e : Fin 2) (s : State) : State :=
  match s.radio[e].queue.find? (!·.copied) with
  | none => s
  | some p =>
    if s.radio[e].basinBusy p.dm then s
    else landCopy e p.dm (modRadio e (fun r => { r with queue := markCopied s.clk.raw r.queue }) s)

/-- BRIDGE_COPY_DONE (R369, R373). -/
def execBridgeCopyDone (e : Fin 2) (s : State) : Host.Outcome State Fault Refusal := .next (bridgeDone e s)

/-- The output basin of a phase, redefined empty at its start (R369). -/
def freshOutput (e : Fin 2) (dm : Bool) (s : State) : State :=
  let set (bs : Vector Basin 16) : Vector Basin 16 :=
    if dm then setV bs 15 (radioBasin basin15 8 0) else setV bs 14 (radioBasin basin14 4 0)
  modCore (radioUnit e) (fun c => { c with basins := set c.basins }) s

/-- The head request starts in the present cycle, or does not run (R370, R372, R378). -/
def startPhase (e : Fin 2) (p : Phase) (s : State) : State :=
  let s := modRadio e (fun r => { r with queue := r.queue.drop 1 }) s
  let ceOk := match slotOfE e p.e s with | none => false | some x => x.ceOk && !x.ended
  if decide ((p.deadline - BitVec.ofNat 32 s.clk.raw).toInt ≤ 0) then endLearned e p.e 7 s
  else if s.radio[e].active.isNone then endLearned e p.e 1 s
  else if p.dm && !ceOk then endLearned e p.e 7 s
  else
    let s := if p.copied then s else landCopy e p.dm s
    let quiet (c : Core) : Core := { c with eng := { c.eng with lastEnd := none, rampAt := none }, seq := { c.seq with slip := 0, permitted := false } }
    freshOutput e p.dm (modCore (radioUnit e) quiet
      (modRadio e (fun r => { r with phase := some { p with copied := true, ready := s.clk.raw, issued := 0 } }) s))

/-- PHASE_START (R372, R373): the oldest request starts once it is ready and the engine is free; one whose copy waited for a
running phase is not ready before the copy's end. (DEDUCED, log entry 89) -/
def phaseStart (e : Fin 2) (s : State) : State :=
  match s.radio[e].phase, s.radio[e].queue with
  | none, p :: _ => if p.waited && !p.copied then s else atCycle (max p.ready s.radio[e].freeAt) s (startPhase e p)
  | _, _ => s

/-- PHASE_START (R369, R372, R377). -/
def execPhaseStart (e : Fin 2) (s : State) : Host.Outcome State Fault Refusal := .next (phaseStart e s)

/-- The confidence word at byte 0 of an output basin (R370). -/
def confidence (e : Fin 2) (dm : Bool) (s : State) : Word :=
  BitVec.ofNat 32 (Memory.num 0 s.cores[radioUnit e].pad (if dm then basin15 else basin14) 4)

/-- The running phase completes, and the selector looks at its output (R370, R375, R378). -/
def judgePhase (e : Fin 2) (s : State) : State :=
  match s.radio[e].phase with
  | none => s
  | some p =>
    let s := modRadio e (fun r => { r with phase := none, freeAt := s.clk.raw + 1 }) s
    let ok := confAtLeast (confidence e p.dm s) (if p.dm then s.radio[e].dmThr.toNat else s.radio[e].ceThr.toNat)
    match slotOfE e p.e s with
    | none => s
    | some x =>
      if x.ended || x.decided then s
      else if p.dm then
        if ok then takeLearned e x (putSlot e { x with decided := true } s) else endLearned e p.e 6 s
      else if ok then putSlot e { x with ceOk := true } s
      else endLearned e p.e 4 s

/-- A phase completes in the present cycle; a decode that this decides starts in the next one, as in the case of two slots
back to back (R378, R382). (DEDUCED, log entry 89) -/
def completePhase (e : Fin 2) (s : State) : State :=
  let t := judgePhase e s
  if s.radio[e].decoding.isNone && t.radio[e].decoding.isSome then modRadio e (fun r => { r with decDue := r.decDue + 1 }) t else t

/-- PHASE_COMPLETE (R370, R375, R378). -/
def execPhaseComplete (e : Fin 2) (s : State) : Host.Outcome State Fault Refusal := .next (completePhase e s)

/-- PHASE_DEADLINE (R374): a phase that runs in the cycle of its deadline is stopped. -/
def phaseDeadlineHit (e : Fin 2) (s : State) : State :=
  match s.radio[e].phase with
  | none => s
  | some p => atCycle (rawOf p.deadline s.clk.raw) s fun s => endLearned e p.e (if p.dm then 5 else 3) (stopPhase e s)

/-- PHASE_DEADLINE (R374, R376). -/
def execPhaseDeadline (e : Fin 2) (s : State) : Host.Outcome State Fault Refusal := .next (phaseDeadlineHit e s)

/-- The state in which a RADIO_EXIT with a payload issues: it is the next entry of the phase and due (R371, R185). -/
def toExit (e : Fin 2) (w : Word) (s : State) : Option State :=
  match s.nextEntry (radioUnit e) with
  | some (op, x, _) => if op == 0x17 && x.words == [w] then toEntry (radioUnit e) op x s else none
  | none => if s.islandDriven (radioUnit e) then some s else none

/-- RADIO_EXIT (R371): the entry issues when both engines are idle, and takes the exit when it is enabled, CTL_STRICT is
0, and the confidence or the remaining time says so. -/
def radioExit (e : Fin 2) (w : Word) (s0 : State) : State :=
  match toExit e w s0 with
  | none => s0
  | some s =>
  let c := s.cores[radioUnit e]
  match s.radio[e].phase with
  | none => s0
  | some p =>
    if !c.eng.passes.isEmpty || c.vec.entry.isSome || c.seq.put.isSome then s0
    else
      let s := notePhase (radioUnit e) (modCore (radioUnit e) (fun c => { c with seq := { c.seq with
        issued := c.seq.issued + 1, holding := false, holdCause := 0, held := 0, permitted := false } }) s)
      let conf := Cells.get 0 c.vec.cistern (bits w.toNat 15 0)
      let left := (p.deadline - BitVec.ofNat 32 s.clk.raw).toInt
      if s.radio[e].exitEn && !s.det.strict &&
          (confAtLeast conf (bits w.toNat 23 16) || decide (left < 1024 * (bits w.toNat 31 24 : Int))) then
        let s := modRadio e (fun r => { r with
          exitCnt := satInc r.exitCnt
          slots := r.slots.map fun x => if x.e == p.e then { x with exited := true } else x }) s
        completePhase e s
      else s

/-- RADIO_EXIT (R371, R290). -/
def execRadioExit (e : Fin 2) (w : Word) (s : State) : Host.Outcome State Fault Refusal := .next (radioExit e w s)

/-- CLASSIC_LATE (R378, R379): for the oldest undecided slot, E + 170,000 passes. -/
def classicLate (e : Fin 2) (s : State) : State :=
  match s.radio[e].slots.find? (!·.decided) with
  | none => s
  | some x => atCycle (rawOf (x.e + 170000) s.clk.raw) s fun s => writeRecord e 2 8 x false [] s

/-- CLASSIC_LATE (R378, R379). -/
def execClassicLate (e : Fin 2) (s : State) : Host.Outcome State Fault Refusal := .next (classicLate e s)

/-- The words of a bit list, 32 bits each. -/
def bitWords : Nat → List Bool → List Word
  | 0, _ => []
  | n + 1, bs => BitVec.ofNat 32 (bitsNat (bs.take 32)) :: bitWords n (bs.drop 32)

/-- A header decode ends (R355, R382): decoded bits, EVENT, interrupt. -/
def headerDone (e : Fin 2) (soft : List Int) (s : State) : State :=
  let bs := viterbi (depuncture (punctures 0) 100 [] soft)
  let hdr := bs.take 94
  let crc := crc8 (hdr.take 86)
  let sent := hdr.drop 86
  let ok := decide (sent = (List.range 8).map fun i => crc.getLsbD (7 - i))
  let ws := bitWords 3 hdr
  let s := setHandoff e 0xFC8 (ws.getD 0 0) (setHandoff e 0xFC9 (ws.getD 1 0) (setHandoff e 0xFCA (ws.getD 2 0) s))
  raiseIrq (6 + e.1) (setEvent e (if ok then 1 else 5) s)

/-- A data decode ends (R356, R382, R383). -/
def dataDone (e : Fin 2) (slot : RadioSlot) (learned : Bool) (soft : List Int) (s : State) : State :=
  let rate := bits slot.param.toNat 4 3
  let bs := viterbi (depuncture (punctures rate) (nInfo slot.param slot.map) [] soft)
  let len := paramLen slot.param
  let payload := bitBytes len bs
  let ok := decide (bitsNat ((bs.drop (8 * len)).take 32) = (crc32c payload).toNat)
  writeRecord e (if learned then 0 else 1) slot.cause slot ok payload s

/-- A decode for the DSP ends (R361, R364, R382). The spec gives its output no place: the decoded bits stand from the
payload word of the decoded record on (DESIGN CHOICE, log entry 21). -/
def ownDone (e : Fin 2) (soft : List Int) (param : Word) (s : State) : State :=
  let n := paramLen param
  let bs := viterbi (depuncture (punctures (bits param.toNat 4 3)) n [] soft)
  raiseIrq (6 + e.1) (setEvent e 2 (writeX (s.radio[e].outBase.toNat + 5) (bitWords ((n + 31) / 32) bs) s))

/-- The decoder takes its next request (R381). -/
def nextDecode (e : Fin 2) (s : State) : State :=
  modRadio e (fun r => match r.decQueue with
    | [] => { r with decoding := none }
    | d :: ds => { r with decoding := some d, decQueue := ds, decDue := s.clk.raw + d.cycles }) s

/-- DECODE_DONE (R382). -/
def decodeDone (e : Fin 2) (s : State) : State :=
  match s.radio[e].decoding with
  | none => s
  | some d => atCycle s.radio[e].decDue s fun s => nextDecode e (match d with
    | .header soft => headerDone e soft s
    | .data slot learned soft => dataDone e slot learned soft s
    | .own soft param => ownDone e soft param s)

/-- DECODE_DONE (R355, R356, R381 to R383). -/
def execDecodeDone (e : Fin 2) (s : State) : Host.Outcome State Fault Refusal := .next (decodeDone e s)

/-- The island's poll of the DSP's message word (R468): a message is forwarded as a DSP record and the word cleared. -/
def messagePoll (s : State) : State :=
  let n := (Cells.get 0 s.dsp.x 0x3E80).toNat
  if 1 ≤ n ∧ n ≤ 252 then
    let bs := ((Cells.gets 0 s.dsp.x 0x3E81 63).flatMap wordBytes).take n
    let s := { s with dsp := { s.dsp with x := Cells.put 0 s.dsp.x 0x3E80 0 } }
    emit { kind := 10 } bs s
  else s

/-- DSP_MESSAGE_POLL (R468, R472). -/
def execDspMessagePoll (s : State) : Host.Outcome State Fault Refusal := .next (messagePoll s)

end Sys2Proof.Machine
end

