-- ==== Sys2Proof/Machine/TimeSync.lean ====
section
/-! DEFINITION. IEEE 802.1AS and the time servo (R319 to R325). -/

namespace Sys2Proof.Machine

/-- The time base changed by f. -/
def modTime (f : TimeBase → TimeBase) (s : State) : State := { s with time := f s.time }

/-- Does port p, powered, carry 802.1AS (R324)? -/
def State.asPort (p : Fin 4) (s : State) : Bool := s.portOn p && !s.cfg.timeSource && s.cfg.timePorts.getLsbD p.1

/-- RATE held within 250 ppm (R320). (DESIGN CHOICE, log entry 44) -/
def clampRate (r : Int) : BitVec 32 := BitVec.ofInt 32 (max (-274877907) (min 274877907 r))

/-- TIME_ERR: stops at ±2,147,483,647 (R326). -/
def clampErr (e : Int) : BitVec 32 := BitVec.ofInt 32 (max (-2147483647) (min 2147483647 e))

/-- A rate change in raw cycle c (R320): the old rate's part is folded into OFFSET, ANCHOR becomes c. -/
def TimeBase.setRate (c : Nat) (r : BitVec 32) (t : TimeBase) : TimeBase :=
  { t with offset := t.at_ c - BitVec.ofNat 64 c, anchor := BitVec.ofNat 64 c, rate := r }

/-- The step (R320): OFFSET makes corrected time in raw cycle c equal to the master's. -/
def TimeBase.stepTo (c : Nat) (master : Quad) (r : BitVec 32) (t : TimeBase) : TimeBase :=
  { t with offset := master - BitVec.ofNat 64 c, anchor := BitVec.ofNat 64 c, rate := r, stepped := true, state := 1 }

/-- Entry to FAULT: RATE frozen, the fault TIME reported (R325, R408). -/
def timeFault (s : State) : State := raiseFault 0x0A 0 0 none (modTime (fun t => { t with state := 3 }) s)

/-- The rate the servo chooses for an error, from the old rate (R325): free within its bound. (DESIGN CHOICE, log entry 44) -/
def servo (err : Int) (s : State) : BitVec 32 := clampRate (Config.servoRate err s.time.rate.toInt s.free)

/-- A complete Sync on the slave port (R325): the grandmaster's time at ingress cycle c0, which reached the island in the
present cycle. -/
def feedSync (p : Fin 4) (gm : Quad) (master : Quad) (c0 : Nat) (s : State) : State :=
  let t := s.time
  let err := (master - t.at_ c0).toInt
  let big := decide (1000000 < err.natAbs)
  let s := modTime (fun t => { t with err := clampErr err }) s
  let rate := servo err s
  match t.state.toNat with
  | 0 =>
    if s.sens.ports[p].exchanges < 4 then s
    else if t.syncs + 1 < 16 then modTime (fun t => { t with syncs := t.syncs + 1, gm := some gm }) s
    else (modTime (fun t => ({ t with syncs := 16, gm := some gm }).stepTo s.clk.raw
      (master + BitVec.ofNat 64 (s.clk.raw - c0)) rate) s).takeFree
  | 1 =>
    if big then timeFault s
    else (modTime (fun t => { (t.setRate s.clk.raw rate) with gm := some gm }) s).takeFree
  | 2 =>
    if big || t.gm != some gm then timeFault s
    else (modTime (fun t => { (t.setRate s.clk.raw rate) with state := 1 }) s).takeFree
  | _ => s

/-- The port with the best master (R324): the lowest rank, then the lowest number, of the asCapable ports in use. -/
def bestPort (s : State) : Option (Fin 4) :=
  (List.finRange 4).foldl (fun best p =>
    let q := s.sens.ports[p]
    match q.master with
    | none => best
    | some (_, r) =>
      if !(s.asPort p) || !q.asCapable || q.barred then best
      else match best with
        | none => some p
        | some b => match s.sens.ports[b].master with
          | none => some p
          | some (_, rb) => if r < rb then some p else best) none

/-- The slave port is chosen again (R324): a change of port ends a row of consecutive Syncs. -/
def reselect (s : State) : State :=
  let b := bestPort s
  if s.time.slave = b then s else modTime (fun t => { t with slave := b, syncs := 0, twoStep := none }) s

/-- A Sync (R324): another domain is discarded, another interval than 2^-5 to 1 s bars its port, a port that is not the
slave port is passive; a two-step Sync waits for its Follow_Up. (DEDUCED, log entry 88) -/
def onSync (p : Fin 4) (m : SyncMsg) (s : State) : State :=
  if !(s.asPort p) || m.domain ≠ 0 then s
  else if m.logInt < -5 ∨ 0 < m.logInt then
    reselect (modPort p (fun q => { q with barred := true }) s)
  else if s.sens.ports[p].barred ∨ s.time.slave ≠ some p then s
  else if m.twoStep then modTime (fun t => { t with twoStep := some (p, m.seq, s.clk.raw) }) s
  else feedSync p m.gm m.time s.clk.raw s

/-- SYNC (R324, R325). -/
def execSync (p : Fin 4) (m : SyncMsg) (s : State) : Host.Outcome State Fault Refusal := .next (onSync p m s)

/-- A Follow_Up of the two-step Sync that waits (R324). -/
def onFollowUp (p : Fin 4) (m : SyncMsg) (s : State) : State :=
  match s.time.twoStep with
  | none => s
  | some (q, n, c0) =>
    if s.asPort p && m.domain == 0 && q == p && n == m.seq && s.time.slave == some p then
      feedSync p m.gm m.time c0 (modTime (fun t => { t with twoStep := none }) s)
    else s

/-- FOLLOW_UP (R324). -/
def execFollowUp (p : Fin 4) (m : SyncMsg) (s : State) : Host.Outcome State Fault Refusal := .next (onFollowUp p m s)

/-- PDELAY_REQ (R324): answered with Pdelay_Resp and Pdelay_Resp_Follow_Up. -/
def execPdelayReq (p : Fin 4) (domain : Nat) (s : State) : Host.Outcome State Fault Refusal :=
  .next (if s.asPort p && domain == 0 then modPort p (fun q => { q with sentResp := q.sentResp + 1 }) s else s)

/-- PDELAY_RESP (R324): the answer to the request that runs. -/
def execPdelayResp (p : Fin 4) (domain seq : Nat) (s : State) : Host.Outcome State Fault Refusal :=
  let q := s.sens.ports[p]
  .next (if s.asPort p && domain == 0 && q.pdelayWait == 1 && q.pdelaySeq == seq then
    modPort p (fun q => { q with pdelayWait := 2 }) s else s)

/-- PDELAY_RESP_FOLLOW_UP (R324): it completes an exchange; the port is asCapable below 800 ns. -/
def execPdelayRespFollowUp (p : Fin 4) (domain seq : Nat) (delay : Int) (s : State) : Host.Outcome State Fault Refusal :=
  let q := s.sens.ports[p]
  .next (if s.asPort p && domain == 0 && q.pdelayWait == 2 && q.pdelaySeq == seq then
    reselect (modPort p (fun q => { q with pdelayWait := 0, exchanges := q.exchanges + 1, asCapable := decide (delay < 800) }) s)
    else s)

/-- PDELAY_REQ_TIMER (R324): a new Pdelay_Req leaves each port that carries 802.1AS. -/
def execPdelayReqTimer (s : State) : Host.Outcome State Fault Refusal :=
  .next ((List.finRange 4).foldl (fun s p =>
    if s.asPort p then modPort p (fun q => { q with pdelaySeq := q.pdelaySeq + 1, pdelayWait := 1 }) s else s) s)

/-- ANNOUNCE (R324). -/
def execAnnounce (p : Fin 4) (m : AnnounceMsg) (s : State) : Host.Outcome State Fault Refusal :=
  .next (if s.asPort p && m.domain == 0 then reselect (modPort p (fun q => { q with master := some (m.gm, m.rank) }) s) else s)

/-- SIGNALING: received and ignored (R324). -/
def execSignaling (_p : Fin 4) (_domain : Nat) (s : State) : Host.Outcome State Fault Refusal := .next s

/-- SYNC_RECEIPT_TIMEOUT (R325): LOCKED becomes HOLDOVER; a row of consecutive Syncs ends. -/
def execSyncReceiptTimeout (s : State) : Host.Outcome State Fault Refusal :=
  .next (modTime (fun t => { t with
    syncs := 0, twoStep := none, state := if t.state = 1 then 2 else t.state }) s)

/-- ANNOUNCE_RECEIPT_TIMEOUT (R324): the port has no master. -/
def execAnnounceReceiptTimeout (p : Fin 4) (s : State) : Host.Outcome State Fault Refusal :=
  .next (reselect (modPort p (fun q => { q with master := none }) s))

end Sys2Proof.Machine
end

