-- ==== Sys2Proof/Machine/Dispatch.lean ====
section
/-! DEFINITION. The effect of a command on everything but the queue: one arm per row of the table. -/

namespace Sys2Proof.Machine

def exec (i : Instr) (s : State) : Host.Outcome State Fault Refusal :=
  match i with
  -- the card interface (R456 to R470)
  | .cmd0 => Sys2Proof.Machine.execCmd0 s
  | .cmd3 => Sys2Proof.Machine.execCmd3 s
  | .cmd5 => Sys2Proof.Machine.execCmd5 s
  | .cmd7 rca => Sys2Proof.Machine.execCmd7 rca s
  | .cmd11 => Sys2Proof.Machine.execCmd11 s
  | .cmd15 rca => Sys2Proof.Machine.execCmd15 rca s
  | .cmd19 => Sys2Proof.Machine.execCmd19 s
  | .cmd52 write fn addr data => Sys2Proof.Machine.execCmd52 write fn addr data s
  | .cmd53 write block incr fn addr count data => Sys2Proof.Machine.execCmd53 write block incr fn addr count data s
  | .ioAbortAs fn => Sys2Proof.Machine.execIoAbortAs fn s
  | .ioAbortRes => Sys2Proof.Machine.execIoAbortRes s
  | .streamPortRead => Sys2Proof.Machine.execStreamPortRead s
  | .goIgnored => Sys2Proof.Machine.execGoIgnored s
  | .commandReply => Sys2Proof.Machine.execCommandReply s
  -- the mailbox commands (R468)
  | .statusCmd f => Sys2Proof.Machine.execStatus f s
  | .readReg f => Sys2Proof.Machine.execReadReg f s
  | .writeReg f => Sys2Proof.Machine.execWriteReg f s
  | .resetCmd f => Sys2Proof.Machine.execReset f s
  | .journalRead f => Sys2Proof.Machine.execJournalRead f s
  | .certRead f => Sys2Proof.Machine.execCertRead f s
  | .memWrite f => Sys2Proof.Machine.execMemWrite f s
  | .memRead f => Sys2Proof.Machine.execMemRead f s
  | .storeWrite f => Sys2Proof.Machine.execStoreWrite f s
  | .load f => Sys2Proof.Machine.execLoad f s
  | .park f => Sys2Proof.Machine.execPark f s
  | .admitJob f => Sys2Proof.Machine.execAdmit f s
  | .jobStop f => Sys2Proof.Machine.execJobStop f s
  | .jobShares f => Sys2Proof.Machine.execJobShares f s
  | .radioAdmit f => Sys2Proof.Machine.execRadioAdmit f s
  | .dspMsg f => Sys2Proof.Machine.execDspMsg f s
  | .seqOpen f => Sys2Proof.Machine.execSeqOpen f s
  | .seqFeed f => Sys2Proof.Machine.execSeqFeed f s
  | .seqClose f => Sys2Proof.Machine.execSeqClose f s
  | .seqRebind f => Sys2Proof.Machine.execSeqRebind f s
  | .flashWrite f => Sys2Proof.Machine.execFlashWrite f s
  | .flashVerify f => Sys2Proof.Machine.execFlashVerify f s
  | .attest f => Sys2Proof.Machine.execAttest f s
  | .unknownOpcode opcode f => Sys2Proof.Machine.execUnknownOpcode opcode f s
  -- register accesses with a row of their own
  | .registerWrite addr value => Sys2Proof.Machine.execRegisterWrite addr value s
  | .latchingRead addr => Sys2Proof.Machine.execLatchingRead addr s
  | .rillBlockReset r => Sys2Proof.Machine.execRillBlockReset r s
  | .rillResetDone r => Sys2Proof.Machine.execRillResetDone r s
  | .coreBlockReset c => Sys2Proof.Machine.execCoreBlockReset c s
  | .coreResetDone => Sys2Proof.Machine.execCoreResetDone s
  | .fuseProgram key slot => Sys2Proof.Machine.execFuseProgram key slot s
  | .fuseRevoke key slot => Sys2Proof.Machine.execFuseRevoke key slot s
  | .fuseRaise key value => Sys2Proof.Machine.execFuseRaise key value s
  | .fuseOperationDone ok => Sys2Proof.Machine.execFuseOperationDone ok s
  | .ctlStrictWrite value => Sys2Proof.Machine.execCtlStrictWrite value s
  | .contextEnable n value => Sys2Proof.Machine.execContextEnable n value s
  | .contextDisable n value => Sys2Proof.Machine.execContextDisable n value s
  | .dspRun => Sys2Proof.Machine.execDspRun s
  | .dspStop => Sys2Proof.Machine.execDspStop s
  | .iqCfgWrite value => Sys2Proof.Machine.execIqCfgWrite value s
  | .txArm e delta start => Sys2Proof.Machine.execTxArm e delta start s
  | .txCancel e => Sys2Proof.Machine.execTxCancel e s
  -- events of the beat grid, power and temperature
  | .beatBoundary => Sys2Proof.Machine.execBeatBoundary s
  | .mr4Read ops => Sys2Proof.Machine.execMr4Read ops s
  | .zqCalibration => Sys2Proof.Machine.execZqCalibration s
  | .ownerChangeWake => Sys2Proof.Machine.execOwnerChangeWake s
  | .energyDecision => Sys2Proof.Machine.execEnergyDecision s
  | .tjSample readings => Sys2Proof.Machine.execTjSample readings s
  | .fastCurrentLimit => Sys2Proof.Machine.execFastCurrentLimit s
  | .throttleQuietEnd => Sys2Proof.Machine.execThrottleQuietEnd s
  | .supplyOutOfRange milliVolt => Sys2Proof.Machine.execSupplyOutOfRange milliVolt s
  | .hotSwapTrip => Sys2Proof.Machine.execHotSwapTrip s
  | .coldPlateCut => Sys2Proof.Machine.execColdPlateCut s
  | .coldPlateRestore => Sys2Proof.Machine.execColdPlateRestore s
  -- proofs and engine events
  | .proofTileSlot n => Sys2Proof.Machine.execProofTileSlot n s
  | .goldenTileDone c digestOk weirOk missed => Sys2Proof.Machine.execGoldenTileDone c digestOk weirOk missed s
  | .rerunOutcome c => Sys2Proof.Machine.execRerunOutcome c s
  -- the matrix engine
  | .engPass u e up => Sys2Proof.Machine.execEngPass u e up s
  | .engLoadCb u e => Sys2Proof.Machine.execEngLoadCb u e s
  | .passComplete u upset => Sys2Proof.Machine.execPassComplete u upset s
  | .weirVerdict c => Sys2Proof.Machine.execWeirVerdict c s
  | .hopParity c => Sys2Proof.Machine.execHopParity c s
  | .engineDrainDone u => Sys2Proof.Machine.execEngineDrainDone u s
  -- the vector engine
  | .vecCascade u e up => Sys2Proof.Machine.execVecCascade u e up s
  | .vecInsn u e up => Sys2Proof.Machine.execVecInsn u e up s
  | .vecCistern u e => Sys2Proof.Machine.execVecCistern u e s
  | .vecEntryCommit u => Sys2Proof.Machine.execVecEntryCommit u s
  | .vadd u o w => Sys2Proof.Machine.execVadd u o w s
  | .vsub u o w => Sys2Proof.Machine.execVsub u o w s
  | .vmul u o w => Sys2Proof.Machine.execVmul u o w s
  | .vdiv u o w => Sys2Proof.Machine.execVdiv u o w s
  | .vmax u o w => Sys2Proof.Machine.execVmax u o w s
  | .vmin u o w => Sys2Proof.Machine.execVmin u o w s
  | .vrelu u o w => Sys2Proof.Machine.execVrelu u o w s
  | .vcvt u o w => Sys2Proof.Machine.execVcvt u o w s
  | .vfunc u o w => Sys2Proof.Machine.execVfunc u o w s
  | .vquant u o w => Sys2Proof.Machine.execVquant u o w s
  | .vbcast u o w => Sys2Proof.Machine.execVbcast u o w s
  | .vldt u o w => Sys2Proof.Machine.execVldt u o w s
  | .vldb u o w => Sys2Proof.Machine.execVldb u o w s
  | .vstb u o w => Sys2Proof.Machine.execVstb u o w s
  | .vldc u o w => Sys2Proof.Machine.execVldc u o w s
  | .vstc u o w => Sys2Proof.Machine.execVstc u o w s
  | .vrelt u o w => Sys2Proof.Machine.execVrelt u o w s
  | .vredmax u o w => Sys2Proof.Machine.execVredmax u o w s
  | .vredsum u o w => Sys2Proof.Machine.execVredsum u o w s
  | .vhad u o w => Sys2Proof.Machine.execVhad u o w s
  -- the sequencer, basins and banks
  | .basinDef u e => Sys2Proof.Machine.execBasinDef u e s
  | .basinPop u e => Sys2Proof.Machine.execBasinPop u e s
  | .basinFree u e => Sys2Proof.Machine.execBasinFree u e s
  | .bankSleep u e => Sys2Proof.Machine.execBankSleep u e s
  | .bankWake u e => Sys2Proof.Machine.execBankWake u e s
  | .bankWakeDone u b => Sys2Proof.Machine.execBankWakeDone u b s
  | .seqPut u e => Sys2Proof.Machine.execSeqPut u e s
  | .seqMark u e => Sys2Proof.Machine.execSeqMark u e s
  | .contextFetch c k => Sys2Proof.Machine.execContextFetch c k s
  -- rills
  | .rillIn r slot => Sys2Proof.Machine.execRillIn r slot s
  | .rillOut r slot => Sys2Proof.Machine.execRillOut r slot s
  | .rillNop r slot => Sys2Proof.Machine.execRillNop r slot s
  | .completionArrival ch idx => Sys2Proof.Machine.execCompletionArrival ch idx s
  | .basinLanding c => Sys2Proof.Machine.execBasinLanding c s
  | .rillOutReadout r slot block blocks up => Sys2Proof.Machine.execRillOutReadout r slot block blocks up s
  | .rillRetire r slot => Sys2Proof.Machine.execRillRetire r slot s
  | .descriptorFetch r g => Sys2Proof.Machine.execDescriptorFetch r g s
  | .fetchLanded k => Sys2Proof.Machine.execFetchLanded k s
  | .arbRequest q => Sys2Proof.Machine.execArbRequest q s
  | .arbiterGrant ch => Sys2Proof.Machine.execArbiterGrant ch s
  | .rillTimeout r slot => Sys2Proof.Machine.execRillTimeout r slot s
  -- memory channels
  | .chRead ch e => Sys2Proof.Machine.execChRead ch e s
  | .chWrite ch e => Sys2Proof.Machine.execChWrite ch e s
  | .chRefresh ch e => Sys2Proof.Machine.execChRefresh ch e s
  | .chRetry ch e => Sys2Proof.Machine.execChRetry ch e s
  | .eccCheckDone ch idx errs => Sys2Proof.Machine.execEccCheckDone ch idx errs s
  | .controllerRetry ch => Sys2Proof.Machine.execControllerRetry ch s
  | .controllerRefresh ch => Sys2Proof.Machine.execControllerRefresh ch s
  | .patrolScrub ch errs => Sys2Proof.Machine.execPatrolScrub ch errs s
  | .loadRecordDone rec => Sys2Proof.Machine.execLoadRecordDone rec s
  | .ufsError rec => Sys2Proof.Machine.execUfsError rec s
  -- sensors
  | .frameStart rx vc fn ecc => Sys2Proof.Machine.execFrameStart rx vc fn ecc s
  | .longPacket rx vc dt ecc crcOk payload => Sys2Proof.Machine.execLongPacket rx vc dt ecc crcOk payload s
  | .frameEnd rx vc ecc => Sys2Proof.Machine.execFrameEnd rx vc ecc s
  | .ethernetFrame p fcsOk bytes => Sys2Proof.Machine.execEthernetFrame p fcsOk bytes s
  | .frameDigestDone n => Sys2Proof.Machine.execFrameDigestDone n s
  | .frameComplete n => Sys2Proof.Machine.execFrameComplete n s
  | .frameTimeout n => Sys2Proof.Machine.execFrameTimeout n s
  -- IEEE 802.1AS
  | .sync p m => Sys2Proof.Machine.execSync p m s
  | .followUp p m => Sys2Proof.Machine.execFollowUp p m s
  | .pdelayReq p domain => Sys2Proof.Machine.execPdelayReq p domain s
  | .pdelayResp p domain seq => Sys2Proof.Machine.execPdelayResp p domain seq s
  | .pdelayRespFollowUp p domain seq delayNs => Sys2Proof.Machine.execPdelayRespFollowUp p domain seq delayNs s
  | .pdelayReqTimer => Sys2Proof.Machine.execPdelayReqTimer s
  | .announce p m => Sys2Proof.Machine.execAnnounce p m s
  | .signaling p domain => Sys2Proof.Machine.execSignaling p domain s
  | .syncReceiptTimeout => Sys2Proof.Machine.execSyncReceiptTimeout s
  | .announceReceiptTimeout p => Sys2Proof.Machine.execAnnounceReceiptTimeout p s
  -- the baseband DSP
  | .cmac o => Sys2Proof.Machine.execCmac o s
  | .cmacj o => Sys2Proof.Machine.execCmacj o s
  | .cmul o => Sys2Proof.Machine.execCmul o s
  | .mac2 o => Sys2Proof.Machine.execMac2 o s
  | .sqmag o => Sys2Proof.Machine.execSqmag o s
  | .adda o => Sys2Proof.Machine.execAdda o s
  | .suba o => Sys2Proof.Machine.execSuba o s
  | .shra o => Sys2Proof.Machine.execShra o s
  | .shla o => Sys2Proof.Machine.execShla o s
  | .clra o => Sys2Proof.Machine.execClra o s
  | .movda o => Sys2Proof.Machine.execMovda o s
  | .movs o => Sys2Proof.Machine.execMovs o s
  | .movsd o => Sys2Proof.Machine.execMovsd o s
  | .ld o => Sys2Proof.Machine.execLd o s
  | .st o => Sys2Proof.Machine.execSt o s
  | .str o => Sys2Proof.Machine.execStr o s
  | .br target => Sys2Proof.Machine.execBr target s
  | .brneg reg target => Sys2Proof.Machine.execBrneg reg target s
  | .call target => Sys2Proof.Machine.execCall target s
  | .ret => Sys2Proof.Machine.execRet s
  | .reti => Sys2Proof.Machine.execReti s
  | .loop count len => Sys2Proof.Machine.execLoop count len s
  | .setag reg v => Sys2Proof.Machine.execSetag reg v s
  | .setm reg v brev => Sys2Proof.Machine.execSetm reg v brev s
  | .setl reg v => Sys2Proof.Machine.execSetl reg v s
  | .di => Sys2Proof.Machine.execDi s
  | .ei => Sys2Proof.Machine.execEi s
  | .wait mask => Sys2Proof.Machine.execWait mask s
  | .halt => Sys2Proof.Machine.execHalt s
  | .illegalInstruction why => Sys2Proof.Machine.execIllegalInstruction why s
  | .dspInterrupt => Sys2Proof.Machine.execDspInterrupt s
  -- the IQ port and the PA control
  | .iqRxSample e d => Sys2Proof.Machine.execIqRxSample e d s
  | .iqTxSample e => Sys2Proof.Machine.execIqTxSample e s
  | .txArmDecision e => Sys2Proof.Machine.execTxArmDecision e s
  | .paRampStep e => Sys2Proof.Machine.execPaRampStep e s
  | .iqPllLock => Sys2Proof.Machine.execIqPllLock s
  | .rclkLockChange locked => Sys2Proof.Machine.execRclkLockChange locked s
  -- the learned receivers
  | .train e => Sys2Proof.Machine.execTrain e s
  | .header e => Sys2Proof.Machine.execHeader e s
  | .endSlot e => Sys2Proof.Machine.execEndSlot e s
  | .classic e => Sys2Proof.Machine.execClassic e s
  | .decode e => Sys2Proof.Machine.execDecode e s
  | .bridgeCopyDone e => Sys2Proof.Machine.execBridgeCopyDone e s
  | .phaseStart e => Sys2Proof.Machine.execPhaseStart e s
  | .phaseComplete e => Sys2Proof.Machine.execPhaseComplete e s
  | .phaseDeadline e => Sys2Proof.Machine.execPhaseDeadline e s
  | .radioExit e w => Sys2Proof.Machine.execRadioExit e w s
  | .classicLate e => Sys2Proof.Machine.execClassicLate e s
  | .decodeDone e => Sys2Proof.Machine.execDecodeDone e s
  | .dspMessagePoll => Sys2Proof.Machine.execDspMessagePoll s
  -- reset, power and boot
  | .powerOn => Sys2Proof.Machine.execPowerOn s
  | .powerGood => Sys2Proof.Machine.execPowerGood s
  | .mrstAssert => Sys2Proof.Machine.execMrstAssert s
  | .mrstRelease => Sys2Proof.Machine.execMrstRelease s
  | .resetGlitch => Sys2Proof.Machine.execResetGlitch s
  | .prsntAssert => Sys2Proof.Machine.execPrsntAssert s
  | .prsntRelease => Sys2Proof.Machine.execPrsntRelease s
  | .removalPowerOn => Sys2Proof.Machine.execRemovalPowerOn s
  | .watchdogTimeout => Sys2Proof.Machine.execWatchdogTimeout s
  | .bootTimeout => Sys2Proof.Machine.execBootTimeout s
  | .resetRequestTimer => Sys2Proof.Machine.execResetRequestTimer s
  | .watchdogRelease => Sys2Proof.Machine.execWatchdogRelease s
  | .lockstepMismatch => Sys2Proof.Machine.execLockstepMismatch s
  | .lockstepReset => Sys2Proof.Machine.execLockstepReset s
  | .clockFault => Sys2Proof.Machine.execClockFault s
  | .refclkLoss => Sys2Proof.Machine.execRefclkLoss s
  | .refclkReturn => Sys2Proof.Machine.execRefclkReturn s
  | .pllLockTimeout => Sys2Proof.Machine.execPllLockTimeout s
  | .resetRelease norOk => Sys2Proof.Machine.execResetRelease norOk s
  | .bootInterval => Sys2Proof.Machine.execBootInterval s
  | .dramTrainingDone ok badExtents => Sys2Proof.Machine.execDramTrainingDone ok badExtents s
  | .selfTestDone dirty => Sys2Proof.Machine.execSelfTestDone dirty s
  | .enterReady => Sys2Proof.Machine.execEnterReady s
  | .backupSupplyLoss => Sys2Proof.Machine.execBackupSupplyLoss s
  | .mainInputReturn => Sys2Proof.Machine.execMainInputReturn s
  | .journalProgramDone => Sys2Proof.Machine.execJournalProgramDone s
  | .journalEraseDone => Sys2Proof.Machine.execJournalEraseDone s
  | .bootFlashDone => Sys2Proof.Machine.execBootFlashDone s
  -- reported holds, energy, links (rows at the end of the table)
  | .entryHold u cause => Sys2Proof.Machine.execEntryHold u cause s
  | .beatEnergy microJoule => Sys2Proof.Machine.execBeatEnergy microJoule s
  | .blockLockChange p locked => Sys2Proof.Machine.execBlockLockChange p locked s
  -- the serial monitor
  | .monitorSt => Sys2Proof.Machine.execMonitorSt s
  | .rr args => Sys2Proof.Machine.execRr args s
  | .wr args => Sys2Proof.Machine.execWr args s
  | .mr args => Sys2Proof.Machine.execMr args s
  | .sr args => Sys2Proof.Machine.execSr args s
  | .sw args => Sys2Proof.Machine.execSw args s
  | .log args => Sys2Proof.Machine.execLog args s
  | .jr args => Sys2Proof.Machine.execJr args s
  | .fw args => Sys2Proof.Machine.execFw args s
  | .fwDataByte b => Sys2Proof.Machine.execFwDataByte b s
  | .fwDataTimeout => Sys2Proof.Machine.execFwDataTimeout s
  | .fv => Sys2Proof.Machine.execFv s
  | .monitorReset => Sys2Proof.Machine.execMonitorReset s
  | .lineTooLong => Sys2Proof.Machine.execLineTooLong s
  | .uartBreak => Sys2Proof.Machine.execUartBreak s
  | .uartFramingError => Sys2Proof.Machine.execUartFramingError s
  | .unknownCommandWord => Sys2Proof.Machine.execUnknownCommandWord s

end Sys2Proof.Machine
end

