-- ==== Sys2Proof/Machine/Step.lean ====
section
/-! DEFINITION. The step: the command at the front of the queue, or one cycle of the clock when none waits; and the host's way
to put a command in front. -/

namespace Sys2Proof.Machine

/-- One step: the front command is carried out with the rest of the queue left waiting; on an empty queue the clock ticks. (DESIGN CHOICE, log entry 1) (DESIGN CHOICE, log entry 3) -/
def step (s : State) : Host.Outcome State Fault Refusal :=
  match s.pending with
  | [] => .next (tick s)
  | c :: rest => exec c { s with pending := rest }

/-- The command that a word spells put at the front of the queue. (DESIGN CHOICE, log entry 6) (DESIGN CHOICE, log entry 1) -/
def State.withFetchWord (s : State) (nbits w : Nat) : State :=
  match Sys2Proof.decodeTableWord nbits w with
  | none => s
  | some c => { s with pending := c :: s.pending }

end Sys2Proof.Machine
end

