-- ==== Sys2Proof/Safety.lean ====
section
/-! DEFINITION. What a sound state is, in the terms the claims use: the beat grid (R36), the fuses (R482 to R484), the canonical
form of every memory. -/

namespace Sys2Proof.Machine

/-! ### Fuses (R482 to R484) -/

/-- The fuses stand as fuses can: SECVER_MIN counts at most 64, a VALID slot is burnt, and an operation in progress is one that a
write could have started: on a slot not burnt, or to a version above the present one. -/
def Security.fuseOk (x : Security) : Prop :=
  x.secverMin ≤ 64 ∧ (∀ k : Fin 4, (x.slots[k]).valid = true → (x.slots[k]).burnt = true) ∧
  (∀ k h, x.fuseOp = some (.program k h) → (x.slots[k]).burnt = false) ∧
  (∀ v, x.fuseOp = some (.raise v) → x.secverMin ≤ v ∧ v ≤ 64)

/-- No fuse of a is undone in b: identity and serial are the same, a burnt slot holds what it held, a revoked key stays revoked,
the smallest version allowed is no lower. -/
def Security.noneUndone (a b : Security) : Prop :=
  b.seed = a.seed ∧ b.serial = a.serial ∧ (∀ k : Fin 4, (a.slots[k]).burnt = true → b.slots[k] = a.slots[k]) ∧
  (∀ i, a.revoked.getLsbD i = true → b.revoked.getLsbD i = true) ∧ a.secverMin ≤ b.secverMin

/-! ### Memories -/

/-- The memories of a core in canonical form: scratchpad, tiles, stage buffer, cistern. -/
def Core.memWf (c : Core) : Prop :=
  Memory.wf 0 c.pad = true ∧ (∀ t : Fin 4, Cells.wf 0 (c.eng.tiles[t]).el = true) ∧ Cells.wf 0 c.vec.stage = true ∧
  Cells.wf 0 c.vec.cistern = true

/-- Every memory of the device in canonical form: DRAM, model store, boot flash, the buffers of function 1, the latches of the
64-bit registers, the memories of the DSP, those of the cores. -/
def State.memWf (s : State) : Prop :=
  Memory.wf 0 s.mem.dram = true ∧ (∀ i : Fin 2, Memory.wf 0 s.mem.store[i] = true) ∧ Memory.wf 0xFF s.boot.flash = true ∧
  Memory.wf 0 s.host.cmdBuf = true ∧ Memory.wf 0 s.host.replyBuf = true ∧ Memory.wf 0 s.host.window = true ∧
  Memory.wf 0 s.host.stage = true ∧ Cells.wf 0 s.latch = true ∧ Cells.wf 0 s.dsp.prog = true ∧ Cells.wf 0 s.dsp.x = true ∧
  Cells.wf 0 s.dsp.y = true ∧ Cells.wf 0 s.dsp.c = true ∧ ∀ u : UnitIdx, (s.cores[u]).memWf

/-! ### Sound states -/

/-- The cycle lies in its beat (R36), the fuses stand as fuses can, every memory is in canonical form. -/
def State.Sound (s : State) : Prop := s.clk.cyc < beatCycles ∧ s.sec.fuseOk ∧ s.memWf

end Sys2Proof.Machine
end

