-- ==== Sys2Proof/Certificates/Slice0/Obligations.lean ====
section
/-! DEFINITION. The statements about this model, each a proposition for the provers; the words of the spec they rest on stand in
OBLIGATIONS.json. -/

open Sys2Proof Sys2Proof.Machine

namespace Sys2Proof.Machine

/-- Command c answers a next state, of which P holds. -/
def Completes (c : Instr) (s : State) (P : State → Prop) : Prop := ∃ t, exec c s = .next t ∧ P t

end Sys2Proof.Machine

/-- For every command c, every queue rest and every state s, the step of s with c in front of rest is exec of c on s with rest
left waiting. The queue is the model's own way of giving the block its commands (log entry 1). -/
def Obligations.StepRunsFrontCommand : Prop :=
  ∀ (c : Instr) (rest : List Instr) (s : State), step { s with pending := c :: rest } = exec c { s with pending := rest }

/-- No command of the model ends in a fault or a refusal: in every state every command answers a next state. What a command does
where its own conditions do not hold is said by the other statements. -/
def Obligations.EveryCommandAnswersNext : Prop :=
  ∀ (c : Instr) (s : State), ∃ t, exec c s = .next t

/-- On an empty queue a step is one cycle: in a reset episode nothing changes; out of one RAW_TIME counts one cycle, and while the
grid runs the cycle of the beat counts too, up to 249,999; in cycle 249,999 the step does what the command BEAT_BOUNDARY does, of
which its own statement says more. Where nothing waits for the cycle to pass, only the clock moves; where a job has ended, a period
has completed or lists are due in the cycle, none of them waits after the step: jobs that ended are free, sequences have stepped,
RUN_ONCE jobs of completed periods have ended. That the tick is what a step does on an empty
queue is the model's choice (log entry 3). -/
def Obligations.IdleStepTicks : Prop :=
  ∀ s : State, s.pending = [] →
    (s.rst.episode ≠ none → step s = .next s) ∧
    (s.rst.episode = none → s.clk.running = false → s.settled = true →
      step s = .next { s with clk := { s.clk with raw := s.clk.raw + 1 } }) ∧
    (s.rst.episode = none → s.clk.running = true → s.clk.cyc < 249999 → s.settled = true →
      step s = .next { s with clk := { s.clk with raw := s.clk.raw + 1, cyc := s.clk.cyc + 1 } }) ∧
    (s.rst.episode = none → (s.clk.running = true → s.clk.cyc < 249999) → ∃ t, step s = .next t ∧
      t.jobs.stepping = [] ∧ t.jobs.once = [] ∧ t.jobs.listing = false ∧ (s.jobs.once = [] → t.jobs.leaving = []) ∧
      t.clk = { s.clk with raw := s.clk.raw + 1, cyc := if s.clk.running then s.clk.cyc + 1 else s.clk.cyc }) ∧
    (s.rst.episode = none → s.clk.running = true → s.clk.cyc = 249999 → step s = exec .beatBoundary s)

/-- At reset the cycle lies in its beat, the fuses stand as fuses can, and every memory of the model is in canonical form; no
command waits. -/
def Obligations.ResetStateIsSound : Prop :=
  State.reset.Sound ∧ State.reset.pending = []

/-- Whatever command is in front, from every state in which the cycle lies in its beat, the fuses stand as fuses can and every
memory is in canonical form, a step that answers a next state answers one of which the same holds. -/
def Obligations.EveryStepKeepsSoundness : Prop :=
  ∀ s t : State, s.Sound → step s = .next t → t.Sound

/-- From every sound state, whatever command is in front, resets and power loss among them, a step leaves the identity seed, the
serial and every burnt key slot as they are, leaves every revoked key revoked, never lowers SECVER_MIN, and never changes which
part the device is. -/
def Obligations.NoStepUndoesAFuse : Prop :=
  ∀ s t : State, s.Sound → step s = .next t → s.sec.noneUndone t.sec ∧ t.part = s.part

/-- At reset the grid stands still in beat 0, the device is BOOTING in its power-on episode of reach 0, the configuration holds
the factory defaults, no job is admitted and JOB_ID 1 is the next, every core power domain is off and of the hub domains only BKP
and ISLAND are on, the card answers nothing, the result stream is empty and its next RSEQ is 1, PWR_TJ_SHED is 0x67, the learned
receivers have their thresholds 0xC0, and DRAM lists nothing. The values of memory that nothing has written are the model's choice
(log entry 5). -/
def Obligations.ResetValues : Prop :=
  let s := State.reset
  s.clk = { raw := 0, running := false, beat := 0, cyc := 0 } ∧ s.dev = .booting ∧
  s.rst.episode = some { reach := 0, seenPor := true, seenMrst := false, seenWdt := false, wdtCause := 0 } ∧
  s.cfg.frameBeats = 80 ∧ s.cfg.proofBeats = 2 ∧ s.cfg.reserveKcyc = 5 ∧ s.cfg.strict = false ∧ s.cfg.timePorts = 1 ∧
  (∀ k : Fin 12, s.job k = none) ∧ s.jobs.nextId = 1 ∧ (∀ i : Fin 256, (s.jobs.seqs[i]).state = .free) ∧
  s.dom.core = 0 ∧ s.dom.hub = 3 ∧ s.cardOn = false ∧ s.host.stream = [] ∧ s.host.rseq = 1 ∧ s.host.busy = false ∧
  s.pwr.tjShed = 0x67 ∧ (∀ e : Fin 2, (s.radio[e]).ceThr = 0xC0 ∧ (s.radio[e]).dmThr = 0xC0) ∧ s.mem.dram = [] ∧ s.sec.revoked = 0

/-- A card whose pins are driven and which no CMD15 made inactive answers CMD5 and is initialised. Initialised, it switches to 1.8
V on CMD11, publishes a relative address that is not zero on CMD3, is selected by CMD7 with its own address and deselected with
any other, and goes inactive on CMD15 with its address; selected at 1.8 V in SDR50 or SDR104 it completes CMD19. Each changes the
card alone (CMD3 also uses one free value, the address). CMD0 has no response. The states in which each is answered follow the SD
family (log entry 71). On a selected card IO_ABORT_RES clears the enables, the interrupt enables, the bus width, E4MI, the speed
select, EAI and the three block sizes, and nothing else of the device; IO_ABORT_AS finds no CMD53 in progress, since every CMD53
of the model ends in its own step (log entry 72), and changes nothing. -/
def Obligations.CardCommands : Prop :=
  ∀ s : State,
    Completes .cmd0 s (fun t => t = s) ∧
    (s.pins.sdio = true → s.card.inactive = false →
      Completes .cmd5 s (fun t => t = { s with card := { s.card with init := true, resp := [], respOk := true } })) ∧
    (s.cardOn = true → s.card.init = true →
      Completes .cmd11 s (fun t => t = { s with card := { s.card with v18 := true, resp := [], respOk := true } }) ∧
      (s.card.selected = false → Completes .cmd3 s (fun t => t.card.rca ≠ 0 ∧
        t = { s with card := { s.card with rca := t.card.rca, resp := [], respOk := true }, free := s.free + 1 })) ∧
      (s.card.rca ≠ 0 → ∀ rca, Completes (.cmd7 rca) s (fun t =>
        t = { s with card := { s.card with selected := decide (s.card.rca = rca), resp := [], respOk := true } })) ∧
      (s.card.rca ≠ 0 → Completes (.cmd15 s.card.rca) s (fun t =>
        t = { s with card := { s.card with inactive := true, selected := false, resp := [], respOk := true } })) ∧
      (s.card.selected = true → s.card.v18 = true → (s.card.bss = 2 ∨ s.card.bss = 3) → Completes .cmd19 s (fun t =>
        t = { s with card := { s.card with tuned := true, resp := [], respOk := true } }))) ∧
    (s.cardBusy = true →
      Completes .ioAbortRes s (fun t => t = { s with card := { s.card with
        ioe1 := false, ioe2 := false, ienm := false, ien1 := false, ien2 := false, width4 := false, e4mi := false
        bss := 0, eai := false, blk0 := 0, blk1 := 0, blk2 := 0 } }) ∧
      ∀ fn, Completes (.ioAbortAs fn) s (fun t => t = s))

/-- On a selected card CMD52 reads a byte of the CCCR, the FBR and the CIS as they stand and changes only the response; the block-
size bytes store values above 512 as 512, the I/O enable byte sets IOE1 and IOE2, a read-only CCCR byte ignores a write. A CMD52
write into the command buffer makes that byte read back and leaves every other byte of the buffer as it was. A byte-mode CMD53
write of up to 512 bytes to rising addresses of the command buffer leaves those bytes there, and a block-mode CMD53 with block
count 0 is refused. -/
def Obligations.CardByteAccess : Prop :=
  ∀ s : State, s.cardBusy = true → Memory.wf 0 s.host.cmdBuf = true →
    (∀ a b, Completes (.cmd52 false 0 a b) s (fun t =>
      t = { s with card := { s.card with resp := [s.f0Byte a.toNat], respOk := true } })) ∧
    (∀ b : Byte, Completes (.cmd52 true 0 0x02 b) s (fun t => t = { s with card := { s.card with
      ioe1 := b.getLsbD 1, ioe2 := b.getLsbD 2, resp := [b], respOk := true } })) ∧
    (∀ b : Byte, Completes (.cmd52 true 0 0x111 b) s (fun t => t.card.blk1.toNat ≤ 512 ∧
      (b.toNat * 256 + s.card.blk1.toNat % 256 ≤ 512 → t.card.blk1.toNat = b.toNat * 256 + s.card.blk1.toNat % 256) ∧
      (512 < b.toNat * 256 + s.card.blk1.toNat % 256 → t.card.blk1 = 512) ∧
      t = { s with card := { s.card with blk1 := t.card.blk1, resp := [b], respOk := true } })) ∧
    (∀ a b, a ∈ [0x00, 0x01, 0x03, 0x05, 0x12, 0x14] → Completes (.cmd52 true 0 a b) s (fun t =>
      t = { s with card := { s.card with resp := [b], respOk := true } })) ∧
    (∀ (a : BitVec 17) (b : Byte), a.toNat < 4096 → Completes (.cmd52 true 1 a b) s (fun t =>
      Cells.get 0 t.host.cmdBuf a.toNat = b ∧ (∀ x, x ≠ a.toNat → Cells.get 0 t.host.cmdBuf x = Cells.get 0 s.host.cmdBuf x) ∧
      t = { s with host := { s.host with cmdBuf := t.host.cmdBuf }, card := { s.card with resp := [b], respOk := true } })) ∧
    (∀ (a : BitVec 17) (n : BitVec 9) (bs : List Byte), n ≠ 0 → bs.length = n.toNat → a.toNat + n.toNat ≤ 4096 →
      Completes (.cmd53 true false true 1 a n bs) s (fun t =>
        Cells.gets 0 t.host.cmdBuf a.toNat n.toNat = bs ∧
        t = { s with host := { s.host with cmdBuf := t.host.cmdBuf }, card := { s.card with resp := [], respOk := true } })) ∧
    (∀ w incr a bs, Completes (.cmd53 w true incr 1 a 0 bs) s (fun t =>
      t = { s with card := { s.card with resp := [], respOk := false } }))

/-- With function 2 ready, a read of the stream port returns the first byte of the record at the head and removes it; a record
leaves the stream with its last byte; a read with the stream empty returns zero and removes nothing. -/
def Obligations.StreamPortTakesOneByte : Prop :=
  ∀ s : State, s.cardBusy = true → s.ior2 = true →
    (s.host.stream = [] → Completes .streamPortRead s (fun t => t = { s with host := { s.host with portByte := 0 } })) ∧
    (∀ b rest, s.host.stream = [b] :: rest → Completes .streamPortRead s (fun t =>
      t = { s with host := { s.host with portByte := b, stream := rest } })) ∧
    (∀ b c r rest, s.host.stream = (b :: c :: r) :: rest → Completes .streamPortRead s (fun t =>
      t = { s with host := { s.host with portByte := b, stream := (c :: r) :: rest } }))

namespace Sys2Proof.Machine

/-- A GO of a frame is taken and passes checks 1 to 5 of R464: function 1 listens, no command is carried out, the state is one of
those listed, the device is not parked, CRC and the zero bits of the header hold, LEN is the one required. -/
def Takes (legal : List DevState) (len : Nat) (f : Frame) (s : State) : Prop :=
  s.mailboxOn = true ∧ s.host.busy = false ∧ s.dev ∈ legal ∧ s.parked = false ∧ f.crcOk = true ∧ f.hdrZero = true ∧ f.len = len

/-- The same of a command that is legal while parked. -/
def TakesParked (legal : List DevState) (len : Nat) (f : Frame) (s : State) : Prop :=
  s.mailboxOn = true ∧ s.host.busy = false ∧ s.dev ∈ legal ∧ f.crcOk = true ∧ f.hdrZero = true ∧ f.len = len

/-- What a GO that is taken does by itself (R463): BUSY set, REPLY_READY cleared, the command counted. -/
def State.begun (s : State) : State :=
  { s with host := { s.host with busy := true, replyReady := false, commands := s.host.commands + 1, header := [] } }

/-- The reply of a command that the device has decided in state s, waiting to be written. -/
def replyTo (op status : Nat) (f : Frame) (s : State) (payload : List Byte) : Option (List Byte) :=
  some (replyBytes (replyHead op f.tag status s.dev.code) payload)

/-- The state with a reply waiting. -/
def State.withReply (s : State) (r : Option (List Byte)) : State := { s with host := { s.host with reply := r } }

/-- The stop that the host asks for a job (R269, R272): a SAFETY job stops at the end of the window it is in, or at the next boundary
outside it; another job at the first boundary at which it is idle. -/
def stopAsked (s : State) (j : Job) : StopReq :=
  if j.hdr.cls ≠ 0 then { cause := 1, at_ := .idleBoundary }
  else if j.startBeat ≤ s.clk.beat ∧ j.hdr.windowFirst ≤ s.beatInFrame ∧ s.beatInFrame < j.hdr.windowFirst + j.hdr.windowBeats then
    { cause := 1, at_ := .windowEnd }
  else { cause := 1, at_ := .boundary }

/-- The mailbox commands with their rows of R468. -/
def mailboxRows : List ((Frame → Instr) × CmdRow) :=
  [(.statusCmd, statusRow), (.readReg, readRegRow), (.writeReg, writeRegRow), (.resetCmd, resetRow), (.journalRead, journalRow),
   (.certRead, certRow), (.memWrite, memWriteRow), (.memRead, memReadRow), (.storeWrite, storeRow), (.load, loadRow),
   (.park, parkRow), (.jobStop, jobStopRow), (.jobShares, sharesRow), (.dspMsg, dspMsgRow), (.seqOpen, seqOpenRow),
   (.seqFeed, seqFeedRow), (.seqClose, seqCloseRow), (.seqRebind, seqRebindRow), (.flashWrite, flashWriteRow),
   (.flashVerify, flashVerifyRow), (.attest, attestRow)]

end Sys2Proof.Machine

/-- For every mailbox command but the two admissions, with function 1 listening and no command being carried out. A LEN above
4,080 is refused with BAD_LENGTH, otherwise a wrong CRC with BAD_CRC, otherwise a state not listed (or a parked device and a
command not marked) with STATE_REFUSED, which SDIO_MBOX_CNT counts; otherwise a wrong LEN with BAD_LENGTH, otherwise a header or
reserved payload bit that is not zero with BAD_ARG, otherwise an operation to wait for with BUSY, otherwise a wrong argument with
BAD_ARG. The reply of a refusal has an empty payload and waits; nothing else of the device changes. While a command is carried
out, a GO only sets GO_IGNORED, which a clear in the same cycle leaves set. -/
def Obligations.MailboxRefusalOrder : Prop :=
  ∀ mr ∈ mailboxRows, ∀ (f : Frame) (s : State), s.mailboxOn = true →
    (s.host.busy = true → Completes (mr.1 f) s (fun t => t = note 0x2004 10 { s with host := { s.host with goIgnored := true } })) ∧
    (s.host.busy = false → ∀ st, 
      (st = 0x13 ∧ 4080 < f.len) ∨
      (st = 0x12 ∧ f.len ≤ 4080 ∧ f.crcOk = false) ∨
      (st = 0x10 ∧ f.len ≤ 4080 ∧ f.crcOk = true ∧ (s.dev ∉ mr.2.legal ∨ (s.parked = true ∧ mr.2.parked = false))) ∨
      (f.len ≤ 4080 ∧ f.crcOk = true ∧ s.dev ∈ mr.2.legal ∧ (s.parked = false ∨ mr.2.parked = true) ∧
        ((st = 0x13 ∧ mr.2.lenOk f.len = false) ∨
         (mr.2.lenOk f.len = true ∧
           ((st = 0x14 ∧ (f.hdrZero && mr.2.zero (frameBody f)) = false) ∨
            ((f.hdrZero && mr.2.zero (frameBody f)) = true ∧
              ((st = 0x15 ∧ mr.2.busy s = true) ∨
               (mr.2.busy s = false ∧ st = 0x14 ∧ mr.2.args (frameBody f) s = false))))))) →
      Completes (mr.1 f) s (fun t => t = { s.begun with host := { s.begun.host with
        refused := if st = 0x10 then satInc s.host.refused else s.host.refused
        reply := replyTo mr.2.op st f s [] } }))

/-- A command whose opcode R468 does not list is refused with BAD_LENGTH, BAD_CRC or UNKNOWN, in this order, and has no effect. A
GO while BUSY only sets GO_IGNORED. A reply that waits is written to the reply buffer: it stands there from its first byte on, the
bytes behind it are unchanged, REPLY_READY is set and BUSY cleared in the same step; the reply to a RESET also arms the reset of
R431. That a reply is written by a command of its own is the model's way of timing it. -/
def Obligations.UnknownOpcodeAndIgnoredGo : Prop :=
  ∀ s : State,
    (s.mailboxOn = true → s.host.busy = true →
      Completes .goIgnored s (fun t => t = note 0x2004 10 { s with host := { s.host with goIgnored := true } })) ∧
    (∀ (op : BitVec 16) (f : Frame), s.mailboxOn = true → s.host.busy = false → op.toNat ∉ knownOps →
      Completes (.unknownOpcode op f) s (fun t => t = s.begun.withReply
        (replyTo op.toNat (if 4080 < f.len then 0x13 else if f.crcOk then 0x11 else 0x12) f s []))) ∧
    (∀ bs : List Byte, s.host.reply = some bs → Memory.wf 0 s.host.replyBuf = true →
      Completes .commandReply s (fun t =>
        Cells.gets 0 t.host.replyBuf 0 bs.length = bs ∧
        (∀ a, bs.length ≤ a → Cells.get 0 t.host.replyBuf a = Cells.get 0 s.host.replyBuf a) ∧
        t.host.replyReady = true ∧ t.host.busy = false ∧ t.host.reply = none ∧
        (t.rst.hostReset = true ↔ s.rst.hostReset = true ∨ wordOf bs 0 % 2 ^ 24 = 4) ∧
        t = note 0x2004 8 { s with host := { s.host with
                replyBuf := t.host.replyBuf, reply := none, replyReady := true, busy := false, storing := none, header := [] }
                                   rst := { s.rst with hostReset := t.rst.hostReset } }))

/-- Taken and with the arguments R468 requires, STATUS answers DONE with the seven status words and changes nothing else; READ_REG
answers the words read one after the other from ADDR upward and leaves what those reads leave; WRITE_REG writes the register and
answers an empty payload; RESET answers an empty payload and changes nothing else before its reply is written; JOURNAL_READ
answers committed records from FIRST_SEQ on, at most COUNT; CERT_READ answers LENGTH certificate bytes from OFFSET; ATTEST answers
the signed report, or BUSY when every signing attempt failed. -/
def Obligations.MailboxReadsAndRegisters : Prop :=
  ∀ (f : Frame) (s : State),
    (TakesParked allStates 0 f s → Completes (.statusCmd f) s (fun t => t = s.begun.withReply (replyTo 1 0 f s
      (wordBytes s.bootStatus ++ wordBytes (s.boot.tally.setWidth 32) ++ wordBytes s.admitState ++ wordBytes s.safeStatus ++
       wordBytes s.pwrStatus ++ wordBytes s.memPark ++ wordBytes s.memLoadStatus)))) ∧
    (let a := payAddr (frameBody f) 0
     let n := bits (wordOf (frameBody f) 1) 17 8
     TakesParked allStates 8 f s → bits (wordOf (frameBody f) 1) 31 18 = 0 → 1 ≤ n → n ≤ 1020 → 0xF000000000 ≤ a →
       a + 4 * n ≤ 2 ^ 40 → Completes (.readReg f) s (fun t =>
         t = (regReads n a s.begun).2.withReply (replyTo 2 0 f s ((regReads n a s.begun).1.flatMap wordBytes)))) ∧
    (let a := payAddr (frameBody f) 0
     Takes notBooting 12 f s → bits (wordOf (frameBody f) 1) 31 8 = 0 → 0xF000000000 ≤ a → a + 4 ≤ 2 ^ 40 →
       Completes (.writeReg f) s (fun t =>
         t = (regWrite a (BitVec.ofNat 32 (wordOf (frameBody f) 2)) s.begun).withReply (replyTo 3 0 f s []))) ∧
    (TakesParked allStates 0 f s → Completes (.resetCmd f) s (fun t => t = s.begun.withReply (replyTo 4 0 f s []))) ∧
    (let n := wordOf (frameBody f) 1
     TakesParked notBooting 8 f s → 1 ≤ n → n ≤ 63 → Completes (.journalRead f) s (fun t => t = s.begun.withReply (replyTo 5 0 f s
       (readJournal s.boot.flash (BitVec.ofNat 32 (wordOf (frameBody f) 0)) n).flatten))) ∧
    (let o := wordOf (frameBody f) 0
     let n := wordOf (frameBody f) 1
     TakesParked notBooting 8 f s → 1 ≤ n → n ≤ 4080 → o + n ≤ 65536 → Completes (.certRead f) s (fun t =>
       t = s.begun.withReply (replyTo 6 0 f s ((List.range n).map fun i => Config.certByte (o + i))))) ∧
    (Takes [.ready, .running, .degraded, .safeStop] 32 f s → Completes (.attest f) s (fun t =>
       t = { s.begun with free := s.free + 1 }.withReply (match s.signed (frameBody f) with
         | none => replyTo 0x50 0x15 f s []
         | some r => replyTo 0x50 0 f s r)))

/-- Taken, with LENGTH 64 to 65,536 a multiple of 64, an aligned range in usable DRAM and (MEM_WRITE) nothing there that must not
change, MEM_WRITE makes DRAM byte ADDR + i read as window byte i for every i below LENGTH and leaves every other byte of DRAM;
MEM_READ makes window byte i read as DRAM byte ADDR + i and leaves the rest of the window. STORE_WRITE, with LENGTH a multiple of
4,096 up to 65,536, blocks that the device has and no load running, makes byte i of the named blocks of the named device read as
window byte i, leaves every other byte of the store, and holds the range as being written until its reply. Each answers DONE with
an empty payload and changes nothing else. -/
def Obligations.MailboxMovesMemory : Prop :=
  ∀ (f : Frame) (s : State), Memory.wf 0 s.mem.dram = true → Memory.wf 0 s.host.window = true → (∀ i : Fin 2, Memory.wf 0 s.mem.store[i] = true) →
    (let a := payAddr (frameBody f) 0
     let n := wordOf (frameBody f) 2
     bits (wordOf (frameBody f) 1) 31 8 = 0 → 64 ≤ n → n ≤ 65536 → n % 64 = 0 → a % 64 = 0 → a + n ≤ s.part.dramBytes →
      (Takes workStates 12 f s → s.memHeld a n = false → Completes (.memWrite f) s (fun t =>
        (∀ i < n, Cells.get 0 t.mem.dram (a + i) = Cells.get 0 s.host.window i) ∧
        (∀ x, x < a ∨ a + n ≤ x → Cells.get 0 t.mem.dram x = Cells.get 0 s.mem.dram x) ∧
        t = { s.begun with mem := { s.mem with dram := t.mem.dram } }.withReply (replyTo 0x10 0 f s []))) ∧
      (Takes [.ready, .running, .degraded, .safeStop] 12 f s → Completes (.memRead f) s (fun t =>
        (∀ i < n, Cells.get 0 t.host.window i = Cells.get 0 s.mem.dram (a + i)) ∧
        (∀ x, n ≤ x → Cells.get 0 t.host.window x = Cells.get 0 s.host.window x) ∧
        t = { s.begun with host := { s.begun.host with window := t.host.window } }.withReply (replyTo 0x11 0 f s [])))) ∧
    (let w := frameBody f
     let n := wordOf w 3
     let b := wordOf w 1 + 2 ^ 32 * wordOf w 2
     let d : Fin 2 := if wordOf w 0 = 1 then 1 else 0
     Takes [.ready] 16 f s → wordOf w 0 < 2 → 4096 ≤ n → n ≤ 65536 → n % 4096 = 0 → b + n / 4096 ≤ Config.storeBlocks (wordOf w 0) →
      s.mem.loadState ≠ 1 → Completes (.storeWrite f) s (fun t =>
        (∀ i < n, Cells.get 0 (t.mem.store[d]) (4096 * b + i) = Cells.get 0 s.host.window i) ∧
        (∀ x, x < 4096 * b ∨ 4096 * b + n ≤ x → Cells.get 0 (t.mem.store[d]) x = Cells.get 0 (s.mem.store[d]) x) ∧
        t.mem.store[1 - d] = s.mem.store[1 - d] ∧ t.host.storing = some (decide (d = 1), 4096 * b, n) ∧
        t = { s.begun with mem := { s.mem with store := t.mem.store }
                           host := { s.begun.host with storing := t.host.storing } }.withReply (replyTo 0x12 0 f s [])))

/-- Taken with COUNT 1 to 512 and no load running, LOAD answers STARTED. Where no case of R220 applies, the load starts: STATE 1,
CAUSE 0, RECORD 0, no byte moved and all still to be written, LOAD_ACTIVE set, the list taken from the window, no record done, and
the image extents that meet a record leave the extent table. Where one applies, STATE is 3 with that cause and RECORD 0, a LOAD record is formed, and neither
list nor extent table change. Taken with no load running, no context enabled and no radio manifest copy, PARK sets PARK_VALID and
retains the extent table, counts the REFab of both ranks of every channel of the part, and does nothing else. -/
def Obligations.LoadAndPark : Prop :=
  ∀ (f : Frame) (s : State),
    (let n := wordOf (frameBody f) 0
     let rs := parseLoads n (Cells.gets 0 s.host.window 0 (32 * n))
     let recs : List LoadRec := rs.map (·.1)
     Takes workStates 4 f s → s.mem.loadState ≠ 1 → 1 ≤ n → n ≤ 512 →
      (loadCause s rs = 0 → Completes (.load f) s (fun t =>
        let m : MemSys := { s.mem with
          loadState := 1, loadCause := 0, loadRecord := 0, parkRecord := 0, loadBytes := 0, loadActive := true
          loadList := recs, loadDone := List.replicate n false, loadLeft := recs.map fun r => r.len
          extents := s.mem.extents.filter fun x => !recs.any fun r => meets x.base x.len r.base r.len }
        let cs : Vector Chan 128 := s.chans.map fun c => { c with loadPos := [] }
        t = { s.begun with chans := cs, mem := m }.withReply (replyTo 0x13 1 f s []))) ∧
      (loadCause s rs ≠ 0 → Completes (.load f) s (fun t =>
        t.mem = { s.mem with loadState := 3, loadCause := BitVec.ofNat 4 (loadCause s rs), loadRecord := 0 } ∧
        t.host.reply = replyTo 0x13 1 f s [] ∧ t.host.records = s.host.records + 1 ∧ t.host.rseq = s.host.rseq + 1 ∧
        t = { s with mem := t.mem, host := t.host }))) ∧
    (Takes [.ready] 0 f s → s.canPark = true → Completes (.park f) s (fun t =>
      (∀ c : Fin 128, t.chans[c] = if c.1 < s.part.channels then { s.chans[c] with refCnt := (s.chans[c]).refCnt + 2 } else s.chans[c]) ∧
      t = { s.begun with chans := t.chans, mem := { s.mem with parkValid := true, retained := s.mem.extents } }.withReply
        (replyTo 0x14 0 f s [])))

/-- Taken, with a result area that passes R469, with a slot free and a manifest that no check of R70 turns away, ADMIT replies in
its own step (the model's choice: a decision is made in the cycle of its reply) with code 0, the JOB_ID, the base cluster,
START_BEAT two frames on, the completion beat and the period. A job that ends in the same cycle still has its slot, its number and
what it holds, and a change of CTL_STRICT in that cycle does not count. The job stands in the lowest free slot under the next
number of the rotation that no admitted job bears; the stop register of the slot reads 0; every other slot and every other stop
register is unchanged; a READY device is RUNNING, a RUNNING or DEGRADED one stays. -/
def Obligations.AdmitPlacesAJob : Prop :=
  ∀ (f : Frame) (s : State) (k : Fin 12),
    let b := frameBody f
    let m := s.readMan (payAddr b 0)
    let p := (replyCycle s.begun).published
    let start := (s.frame + 2) * s.cfg.frameBeats
    Takes workStates 20 f s → bits (wordOf b 1) 31 9 = 0 → bits (wordOf b 3) 31 8 = 0 → payAddr b 0 + 0x80 ≤ s.part.dramBytes →
    s.resultOk (payAddr b 0) (payAddr b 2) (wordOf b 4) = true → m.code p = 0 → p.job k = none → (∀ i < k, p.job i ≠ none) →
    Memory.wf 0 s.host.replyBuf = true →
    Completes (.admitJob f) s (fun t => ∃ j : Job,
      t.job k = some j ∧ j.hdr = m.hdr ∧ j.image = payAddr b 0 ∧ j.startBeat = start ∧ some j.base = m.place p ∧
      j.id = freeNumber p 12 s.jobs.nextId ∧ j.prov = bitOf (wordOf b 1) 8 ∧ j.resBase = payAddr b 2 ∧ j.resLen = wordOf b 4 ∧
      j.extents = m.extents ∧ t.jobs.nextId = (if j.id = 255 then 1 else j.id + 1) ∧ t.jobs.stops[k] = 0 ∧
      (∀ i : Fin 12, i ≠ k → t.job i = s.job i ∧ t.jobs.stops[i] = s.jobs.stops[i]) ∧ t.jobs.seqs = s.jobs.seqs ∧
      t.dev = (if s.dev = .ready then .running else s.dev) ∧
      t.host.replyReady = true ∧ t.host.busy = false ∧
      Cells.gets 0 t.host.replyBuf 0 48 = replyBytes (replyHead 0x20 f.tag 0 s.dev.code)
        (admitReply 0 j.id.toNat j.base [start, start / 2 ^ 32, start + m.hdr.completeBeat, (start + m.hdr.completeBeat) / 2 ^ 32,
          m.hdr.periodFrames * m.hdr.frameBeats]))

/-- Taken, with a manifest that no check of R367 turns away, RADIO_ADMIT replies in its own step with code 0 and the engine; the
manifest is the next one of that engine, with the lengths, energy, digest, extents and timetable it states, its copy not yet begun; the
active manifest and the other engine are as they were; the admission counter of the measurements counts. A refusing code is
replied and changes no engine. -/
def Obligations.RadioAdmitTakesAManifest : Prop :=
  ∀ (f : Frame) (s : State),
    let b := frameBody f
    let m := s.readMan (payAddr b 0)
    let e := m.engine
    Takes workStates 8 f s → bits (wordOf b 1) 31 8 = 0 → payAddr b 0 + 0x80 ≤ s.part.dramBytes → Memory.wf 0 s.host.replyBuf = true →
    (m.radioCode s.published = 0 → Completes (.radioAdmit f) s (fun t =>
      (t.radio[e]).next = some { image := payAddr b 0, lenCe := m.word 3, lenDm := m.word 4, energy := m.word 5, digest := m.hdr.digest,
                                 extents := m.extents.map fun x => (x.base, x.len)
                                 timetable := (m.ofType 1).flatMap fun x => (x.entries m.img).getD [] } ∧
      (t.radio[e]).copying = false ∧ (t.radio[e]).active = (s.radio[e]).active ∧ t.radio[1 - e] = s.radio[1 - e] ∧
      t.sec.admissions = s.sec.admissions + 1 ∧ t.host.replyReady = true ∧ t.host.busy = false ∧
      Cells.gets 0 t.host.replyBuf 0 20 = replyBytes (replyHead 0x23 f.tag 0 s.dev.code) (natLE 4 (256 * e.1)) ∧
      t = { s with radio := t.radio, sec := t.sec, host := t.host, fresh := t.fresh })) ∧
    (m.radioCode s.published ≠ 0 → Completes (.radioAdmit f) s (fun t => t.radio = s.radio ∧ t.sec = s.sec ∧
      t = { s with host := t.host, fresh := t.fresh }))

/-- Taken, JOB_STOP answers DONE; a job of that number that no stop is scheduled for is to stop with cause 1, a SAFETY job inside
its window at the end of the window and outside it at the next boundary, another at the first boundary at which it is idle; a stop
already scheduled stays (the model's choice, log entry 76); a number that no job bears has no effect. Taken with a SERVICE or
BACKGROUND job and SHARES 1 to 1,000, JOB_SHARES answers both words, which wait for the next frame boundary. Both change nothing
else. -/
def Obligations.JobCommands : Prop :=
  ∀ (f : Frame) (s : State),
    let w := wordOf (frameBody f) 0
    (Takes [.running, .degraded] 4 f s → bits w 31 8 = 0 →
      (s.slotOf (bits w 7 0) = none → Completes (.jobStop f) s (fun t => t = s.begun.withReply (replyTo 0x21 0 f s []))) ∧
      (∀ k j, s.slotOf (bits w 7 0) = some k → s.job k = some j → Completes (.jobStop f) s (fun t =>
        (∀ x, j.stop = some x → t.job k = some j) ∧
        (j.stop = none → t.job k = some { j with stop := some (stopAsked s j) }) ∧
        (∀ i, i ≠ k → t.job i = s.job i) ∧
        t = { s.begun with jobs := { s.jobs with slots := t.jobs.slots } }.withReply (replyTo 0x21 0 f s [])))) ∧
    (∀ k j, Takes [.running, .degraded] 12 f s → bits w 31 8 = 0 → s.slotOf (bits w 7 0) = some k → s.job k = some j → j.hdr.cls ≠ 0 →
      1 ≤ wordOf (frameBody f) 1 → wordOf (frameBody f) 1 ≤ 1000 → Completes (.jobShares f) s (fun t =>
        (∃ j', t.job k = some j' ∧
          j' = { j with pendShares := some (BitVec.ofNat 10 (wordOf (frameBody f) 1), BitVec.ofNat 32 (wordOf (frameBody f) 2)) }) ∧
        (∀ i, i ≠ k → t.job i = s.job i) ∧
        t = { s.begun with jobs := { s.jobs with slots := t.jobs.slots } }.withReply
          (replyTo 0x22 0 f s (natLE 4 (wordOf (frameBody f) 1) ++ natLE 4 (wordOf (frameBody f) 2)))))

/-- Taken with the arguments R468 requires: SEQ_OPEN opens the lowest FREE entry as WAITING with the fields of its payload and
returns its number; SEQ_FEED sets NEXT_TOKENS of a WAITING entry and makes it READY since the next period to be listed; SEQ_CLOSE
frees an entry that is neither FREE nor LISTED at once; a LISTED one keeps its state, and closes with the period that lists it;
SEQ_REBIND gives an ORPHANED entry to the job in the state kept when its own job ended. Every other entry of the table and every
other part of the device is unchanged. -/
def Obligations.SequenceCommands : Prop :=
  ∀ (f : Frame) (s : State) (i : Fin 256),
    let b := frameBody f
    let others (t : State) : Prop := ∀ x : Fin 256, x ≠ i → t.jobs.seqs[x] = s.jobs.seqs[x]
    let only (t : State) (r : Option (List Byte)) : Prop := t = { s.begun with jobs := { s.jobs with seqs := t.jobs.seqs } }.withReply r
    (∀ j, Takes [.running, .degraded] 24 f s → seqOpenRow.zero b = true → (s.jobs.seqs[i]).state = .free →
      (∀ x < i, (s.jobs.seqs[x]).state ≠ .free) → s.jobOf (bits (wordOf b 0) 7 0) = some j →
      s.cacheOk none (payAddr b 3) (wordOf b 5) j = true → Completes (.seqOpen f) s (fun t =>
        t.jobs.seqs[i] = { id := BitVec.ofNat 32 (wordOf b 1), job := BitVec.ofNat 8 (bits (wordOf b 0) 7 0), state := .waiting
                           auto := bitOf (wordOf b 0) 11, kvBasin := BitVec.ofNat 4 (bits (wordOf b 0) 15 12)
                           lenMax := BitVec.ofNat 24 (wordOf b 2), kvBase := BitVec.ofNat 40 (payAddr b 3)
                           pages := BitVec.ofNat 16 (wordOf b 5) } ∧ others t ∧ only t (replyTo 0x30 0 f s (natLE 4 i.1)))) ∧
    (wordOf b 0 = i.1 →
      (Takes [.running, .degraded] 8 f s → (s.jobs.seqs[i]).state = .waiting → 1 ≤ wordOf b 1 → wordOf b 1 ≤ 65535 →
        Completes (.seqFeed f) s (fun t =>
          t.jobs.seqs[i] = { s.jobs.seqs[i] with next := BitVec.ofNat 16 (wordOf b 1), state := .ready,
                                                 readySince := (t.jobs.seqs[i]).readySince } ∧
          (∀ j, s.jobOf (s.jobs.seqs[i]).job.toNat = some j →
            (t.jobs.seqs[i]).readySince = BitVec.ofNat 32 (s.nextList j)) ∧
          others t ∧ only t (replyTo 0x31 0 f s []))) ∧
      (Takes workStates 4 f s → (s.jobs.seqs[i]).state ≠ .free → (s.jobs.seqs[i]).state ≠ .listed → Completes (.seqClose f) s (fun t =>
        t.jobs.seqs[i] = {} ∧ others t ∧ only t (replyTo 0x32 0 f s []))) ∧
      (Takes workStates 4 f s → (s.jobs.seqs[i]).state = .listed → Completes (.seqClose f) s (fun t =>
        t.jobs.seqs = s.jobs.seqs ∧
        (∀ k j p, s.job k = some j → j.id = (s.jobs.seqs[i]).job → p ∈ j.run → i ∈ p.list →
          ∃ j', t.job k = some j' ∧ ∃ q ∈ j'.run, q.index = p.index ∧ q.list = p.list ∧ i ∈ q.closing) ∧
        t = { s.begun with jobs := { s.jobs with slots := t.jobs.slots } }.withReply (replyTo 0x32 0 f s []))) ∧
      (∀ j, Takes [.running, .degraded] 8 f s → bits (wordOf b 1) 31 8 = 0 → (s.jobs.seqs[i]).state = .orphaned →
        s.jobOf (bits (wordOf b 1) 7 0) = some j →
        s.cacheOk (some i) (s.jobs.seqs[i]).kvBase.toNat (s.jobs.seqs[i]).pages.toNat j = true → Completes (.seqRebind f) s (fun t =>
          t.jobs.seqs[i] = { s.jobs.seqs[i] with state := (s.jobs.seqs[i]).kept, kept := .free,
                                                 job := BitVec.ofNat 8 (bits (wordOf b 1) 7 0) } ∧
          others t ∧ only t (replyTo 0x33 0 f s []))))

/-- Taken with 1 to 252 bytes and X word 0x3EC0 zero, DSP_MSG writes the byte count into X word 0x3EC0 and the bytes into the
words that follow, raises source 5, and answers DONE. Taken with no flash operation in progress, FLASH_WRITE of a block of the
image or the configuration block, and FLASH_VERIFY, begin the operation; their reply waits for its end. At the end of a block
write for the host, byte i of the block reads as window byte i below LENGTH and as 0xFF from LENGTH on, every other byte of the
flash is as it was, and the reply is DONE; the end of a check for the host gives its reply too, and no operation is in progress.
-/
def Obligations.DspMessageAndFlash : Prop :=
  ∀ (f : Frame) (s : State),
    (let b := frameBody f
     s.mailboxOn = true → s.host.busy = false → s.dev ∈ workStates → s.parked = false → f.crcOk = true → f.hdrZero = true →
     1 ≤ f.len → f.len ≤ 252 → Cells.get 0 s.dsp.x 0x3EC0 = 0 → Cells.wf 0 s.dsp.x = true → Completes (.dspMsg f) s (fun t =>
      Cells.get 0 t.dsp.x 0x3EC0 = BitVec.ofNat 32 f.len ∧
      (∀ i < (f.len + 3) / 4, (Cells.get 0 t.dsp.x (0x3EC1 + i)).toNat = wordOf (b ++ [0, 0, 0]) i) ∧
      (∀ a, a < 0x3EC0 ∨ 0x3EC1 + (f.len + 3) / 4 ≤ a → Cells.get 0 t.dsp.x a = Cells.get 0 s.dsp.x a) ∧
      t.dsp.irqPend = s.dsp.irqPend ||| 0x20 ∧ t.host.reply = replyTo 0x24 0 f s [])) ∧
    (let b := frameBody f
     Takes [.moored, .ready] 8 f s → s.boot.flashOp = none → wordOf b 0 % 65536 = 0 → wordOf b 0 < 0x1010000 → 1 ≤ wordOf b 1 →
     wordOf b 1 ≤ 65536 → Completes (.flashWrite f) s (fun t =>
      t = { s.begun with
            boot := { s.boot with flashOp := some { forHost := true, isCheck := false, offset := wordOf b 0, length := wordOf b 1 } }
            host := { s.begun.host with header := replyHead 0x40 f.tag 0 s.dev.code } })) ∧
    (Takes [.moored, .ready] 0 f s → s.boot.flashOp = none → Completes (.flashVerify f) s (fun t =>
      t = { s.begun with
            boot := { s.boot with flashOp := some { forHost := true, isCheck := true } }
            host := { s.begun.host with header := replyHead 0x41 f.tag 0 s.dev.code } })) ∧
    (∀ o n d, s.boot.flashOp = some { forHost := true, isCheck := false, offset := o, length := n, data := d } → o % 65536 = 0 →
      n ≤ 65536 → s.host.busy = true → s.host.header ≠ [] → Memory.wf 0xFF s.boot.flash = true → Completes .bootFlashDone s (fun t =>
        (∀ i < n, Cells.get 0xFF t.boot.flash (o + i) = Cells.get 0 s.host.window i) ∧
        (∀ i, n ≤ i → i < 65536 → Cells.get 0xFF t.boot.flash (o + i) = 0xFF) ∧
        (∀ a, a < o ∨ o + 65536 ≤ a → Cells.get 0xFF t.boot.flash a = Cells.get 0xFF s.boot.flash a) ∧
        t.boot.flashOp = none ∧ t.host.reply = some (replyBytes s.host.header []))) ∧
    (∀ o n d, s.boot.flashOp = some { forHost := true, isCheck := true, offset := o, length := n, data := d } → s.host.busy = true →
      s.host.header ≠ [] → Completes .bootFlashDone s (fun t =>
        t.boot.flashOp = none ∧ t.boot.flash = s.boot.flash ∧ ∃ c, t.host.reply = some (replyBytes s.host.header (natLE 4 c))))

/-- Out of reset, a read of ISL_BEAT_LO gives the low half of the beat number and latches the high half, which ISL_BEAT_HI then
shows, and nothing else changes. A write of ISL_STATUS clears exactly the bits written as one that no event has set in the same
cycle: an event takes its own bit, and no other, from every write of its cycle. PWR_TJ_SHED takes a value of 90 to
103 and ignores every other; a write to a read-only register of the island, and a write outside the register region or at an
address that is no multiple of 4, change nothing; in a reset episode neither a write nor a latching read has an effect. -/
def Obligations.RegisterAccessAndLatches : Prop :=
  ∀ s : State,
    (s.rst.episode = none → Cells.wf 0 s.latch = true →
      Completes (.latchingRead 0xF000000104) s (fun t =>
        (regRead 0xF000000104 s).1 = BitVec.ofNat 32 s.clk.beat ∧
        (regRead 0xF000000108 t).1 = BitVec.ofNat 32 (s.clk.beat / 2 ^ 32) ∧ t = { s with latch := t.latch } ∧
        (∀ a, a ≠ 0xF000000108 → Cells.get 0 t.latch a = Cells.get 0 s.latch a))) ∧
    (s.rst.episode = none → ∀ v : Word,
      Completes (.registerWrite 0xF000000114 v) s (fun t =>
        t = { s with con := { s.con with status := s.con.status &&& ~~~((s.unset 0xF000000114 v).setWidth 7) } }) ∧
      Completes (.registerWrite 0xF070000008 v) s (fun t => t = { s with pwr := { s.pwr with
        tjShed := if 90 ≤ v.toNat % 256 ∧ v.toNat % 256 ≤ 103 then v.setWidth 8 else s.pwr.tjShed } }) ∧
      (∀ a : BitVec 40, a.toNat < 0xF000000000 ∨ a.toNat % 4 ≠ 0 → Completes (.registerWrite a v) s (fun t => t = s)) ∧
      Completes (.registerWrite 0xF000000104 v) s (fun t => t = s)) ∧
    (∀ (a : Nat) (v : Word), (s.fresh.1 ≠ s.clk.raw → s.unset a v = v) ∧
      ∀ b < 32, ((eventBits a).getLsbD b = true → ((note a b s).unset a v).getLsbD b = false) ∧
        ∀ a' b', b' < 32 → (a', b') ≠ (a, b) → ((note a b s).unset a' v).getLsbD b' = (s.unset a' v).getLsbD b') ∧
    (s.rst.episode ≠ none → ∀ a v, Completes (.registerWrite a v) s (fun t => t = s) ∧ Completes (.latchingRead a) s (fun t => t = s))

/-- Out of reset, a read of ISL_BEAT_LO at 0xF0_0000_0104 gives bits 31:0 of the number of the current beat and latches bits
63:32, which a read of ISL_BEAT_HI at 0xF0_0000_0108 gives until the next read of ISL_BEAT_LO, whatever the beat has become since.
Right after reset both read zero. -/
def Obligations.BeatNumberReads : Prop :=
  (∀ s : State, s.rst.episode = none → ∀ beat : Nat,
    (regRead 0xF000000104 s).1 = BitVec.ofNat 32 s.clk.beat ∧
    ∃ t, exec (.latchingRead 0xF000000104) s = .next t ∧ t.clk = s.clk ∧
      (regRead 0xF000000108 { t with clk := { t.clk with beat := beat } }).1 = BitVec.ofNat 32 (s.clk.beat / 2 ^ 32)) ∧
  (regRead 0xF000000104 State.reset).1 = 0 ∧ (regRead 0xF000000108 State.reset).1 = 0

/-- When BOOTING ends CTL_STRICT takes its value from the boot configuration. Out of reset, a write of the value the bit holds
leaves the bit and sets nothing; a write of the other value takes effect when the device is READY, no job is admitted and no
admission has its reply in the same cycle, and otherwise leaves the bit and sets STRICT_REFUSED. The reply of an admission takes a
change made earlier in its cycle back and refuses it. PROV_ALL takes the written value, a written one clears STRICT_REFUSED where
nothing sets it in the cycle, and nothing else changes. -/
def Obligations.StrictControl : Prop :=
  ∀ s : State,
    (s.booting 9 = true → Completes .enterReady s (fun t => t.det.strict = s.cfg.strict)) ∧
    (s.rst.episode = none → ∀ v : Word,
      let clr : Bool := v.getLsbD 2 && !decide (s.fresh.1 = s.clk.raw ∧ (0xF000000130, 2) ∈ s.fresh.2)
      let ok : Prop := s.dev = .ready ∧ s.published.jobCount = 0 ∧ s.det.replyAt ≠ some s.clk.raw
      (v.getLsbD 0 = s.det.strict → Completes (.ctlStrictWrite v) s (fun t =>
        t = { s with det := { s.det with provAll := v.getLsbD 1, refused := s.det.refused && !clr } })) ∧
      (v.getLsbD 0 ≠ s.det.strict → ok → Completes (.ctlStrictWrite v) s (fun t =>
        t = { s with det := { s.det with
          strict := v.getLsbD 0, provAll := v.getLsbD 1, refused := s.det.refused && !clr, turned := t.det.turned } } ∧
        (replyCycle t).det.strict = (match s.det.turned with
          | none => s.det.strict
          | some (c, was) => if c = s.clk.raw then was else s.det.strict) ∧
        ((replyCycle t).det.strict ≠ t.det.strict → (replyCycle t).det.refused = true))) ∧
      (v.getLsbD 0 ≠ s.det.strict → ¬ ok → Completes (.ctlStrictWrite v) s (fun t =>
        t = note 0xF000000130 2 { s with det := { s.det with provAll := v.getLsbD 1, refused := true } })))

/-- With its fabric on, an idle rill accepts a block reset, which is complete 32 cycles after the write: every field but
RILL_TMO_CFG has its reset value, and descriptors that an admission has filled in since stay; a rill that is not idle sets RILL_STATUS[21] and is otherwise unchanged. Out of a reset episode,
with what is due on the core taken into account, an idle core accepts a block reset, which is complete 300 cycles after the write,
the core as at reset; otherwise BLOCK_REFUSED is set and nothing else. The other rills and cores are unchanged. The completions
are stated for a clock that can reach their cycle in the present beat while nothing else waits for a cycle to pass. -/
def Obligations.BlockResets : Prop :=
  ∀ s : State,
    (∀ r : Fin 32, s.dom.fabric.getLsbD (r.1 / 4) = true →
      (s.rillIdle r = true → Completes (.rillBlockReset r) s (fun t =>
        t.rills[r] = { s.rills[r] with resetAt := some s.clk.raw } ∧ (∀ q : Fin 32, q ≠ r → t.rills[q] = s.rills[q]) ∧
        t = { s with rills := t.rills })) ∧
      (s.rillIdle r = false → Completes (.rillBlockReset r) s (fun t =>
        t.rills[r] = { s.rills[r] with refused := true } ∧ (∀ q : Fin 32, q ≠ r → t.rills[q] = s.rills[q]) ∧
        t = note (rillStatusAt r) 21 { s with rills := t.rills }))) ∧
    (∀ (r : Fin 32) (c : Nat), (s.rills[r]).resetAt = some c → c + 32 ≤ s.clk.raw ∨ s.clk.cyc + 32 < 250000 → c ≤ s.clk.raw →
      s.settled = true → Completes (.rillResetDone r) s (fun t =>
        t.rills[r] = { tmo := (s.rills[r]).tmo, descs := (s.rills[r]).descs.filter (fun d => !d.retired) } ∧ (∀ q : Fin 32, q ≠ r → t.rills[q] = s.rills[q]) ∧ c + 32 ≤ t.clk.raw ∧
        t = { s with rills := t.rills, latch := t.latch, clk := t.clk })) ∧
    (s.rst.episode = none → ∀ c : Fin 64,
      ((settleCore (coreUnit c) s).coreIdle c = true → Completes (.coreBlockReset c) s (fun t =>
        let s := settleCore (coreUnit c) s
        t = { s with boot := { s.boot with coreRst := s.boot.coreRst ++ [(c, s.clk.raw)] } })) ∧
      ((settleCore (coreUnit c) s).coreIdle c = false → Completes (.coreBlockReset c) s (fun t =>
        let s := settleCore (coreUnit c) s
        t = note 0xF080000000 8 { s with boot := { s.boot with blockRefused := true } }))) ∧
    (∀ (c : Fin 64) (b : Nat) (rest : List (Fin 64 × Nat)), s.boot.coreRst = (c, b) :: rest → b ≤ s.clk.raw →
      b + 300 ≤ s.clk.raw ∨ s.clk.cyc + 300 < 250000 → s.settled = true → Completes .coreResetDone s (fun t =>
        t.cores[coreUnit c] = {} ∧ (∀ u : UnitIdx, u ≠ coreUnit c → t.cores[u] = s.cores[u]) ∧ b + 300 ≤ t.clk.raw ∧
        t = { s with cores := t.cores, latch := t.latch, clk := t.clk, boot := { s.boot with coreRst := rest } }))

/-- Out of reset, a fuse write with another key leaves the state unchanged. With the key, in a state that is not READY, with a job
admitted or an operation running, RESULT is 2; otherwise, where a rule of its operation is broken, RESULT is 3; otherwise the
operation runs. A programming ends with the slot burnt and VALID holding the hash of the data words and RESULT 1, or, where VALID
fails, DAMAGED and RESULT 4; a revocation burns its bit and a raise sets SECVER_MIN, RESULT 1. Nothing else changes; a reset
clears the running operation and its RESULT. -/
def Obligations.FuseWrites : Prop :=
  ∀ s : State, s.rst.episode = none →
    let x := s.sec
    let busy : Prop := s.dev ≠ .ready ∨ s.published.jobCount ≠ 0 ∨ x.fuseOp ≠ none
    let good (i : Fin 4) : Prop := (x.slots[i]).valid = true ∧ x.revoked.getLsbD i.1 = false
    let asked (c : BitVec 16 → Instr) (broken : Prop) (op : FuseOp) : Prop :=
      (∀ key, key ≠ 0x4B46 → Completes (c key) s (fun t => t = s)) ∧
      (busy → Completes (c 0x4B46) s (fun t => t = { s with sec := { x with result := 2 } })) ∧
      (¬ busy → broken → Completes (c 0x4B46) s (fun t => t = { s with sec := { x with result := 3 } })) ∧
      (¬ busy → ¬ broken → Completes (c 0x4B46) s (fun t => t = { s with sec := { x with fuseOp := some op } }))
    (∀ k : Fin 4, asked (fun key => .fuseProgram key k)
      ((x.slots[k]).valid = true ∨ (x.slots[k]).burnt = true ∨ ∀ i : Fin 8, x.fuseData[i] = 0) (.program k (x.fuseData.toList.flatMap wordBytes))) ∧
    (∀ k : Fin 4, asked (fun key => .fuseRevoke key k)
      ((x.slots[k]).valid = false ∨ x.revoked.getLsbD k.1 = true ∨ x.runSlot.toNat = k.1 ∨ ∀ i, i ≠ k → ¬ good i) (.revoke k)) ∧
    (∀ v : BitVec 7, asked (fun key => .fuseRaise key v)
      (v.toNat ≤ x.secverMin ∨ 64 < v.toNat ∨ x.secVersion.toNat < v.toNat) (.raise v.toNat)) ∧
    (∀ k h, x.fuseOp = some (.program k h) → ∀ ok, Completes (.fuseOperationDone ok) s (fun t =>
      (t.sec.slots[k]).burnt = true ∧ (t.sec.slots[k]).valid = ok ∧ (ok = true → (t.sec.slots[k]).hash = h) ∧
      (∀ i, i ≠ k → t.sec.slots[i] = x.slots[i]) ∧
      t = { s with sec := { x with slots := t.sec.slots, result := if ok then 1 else 4, fuseOp := none }, free := t.free })) ∧
    (∀ k ok, x.fuseOp = some (.revoke k) → Completes (.fuseOperationDone ok) s (fun t => t.sec.revoked.getLsbD k.1 = true ∧
      (∀ i, i ≠ k.1 → t.sec.revoked.getLsbD i = x.revoked.getLsbD i) ∧
      t = { s with sec := { x with revoked := t.sec.revoked, result := 1, fuseOp := none } })) ∧
    (∀ v ok, x.fuseOp = some (.raise v) → Completes (.fuseOperationDone ok) s (fun t =>
      t = { s with sec := { x with secverMin := v, result := 1, fuseOp := none } })) ∧
    Completes .watchdogTimeout { s with rst := { s.rst with refclk := true } } (fun t => t.sec.fuseOp = none ∧ t.sec.result = 0)

/-- With the sensor domain on: a context that is not enabled starts on a write of ENABLE where the configuration so written keeps
the rules of the chapter and the device is not parked, and otherwise stays disabled with CFG_REFUSED; on an enabled one the write
has no effect. Clearing ENABLE of an enabled context is refused with CFG_REFUSED while an admitted job names it; otherwise its
frame in progress, its newest complete one and its current frame are gone, and no line of them is written any more. The other
contexts and the rest of the device are unchanged. -/
def Obligations.SensorContextControl : Prop :=
  ∀ (s : State) (n : Fin 24) (w : Word), s.hubOn 2 = true →
    let c := s.sens.ctxs[n]
    let d := c.withCfg w
    let rest (t : State) : Prop := (∀ m : Fin 24, m ≠ n → t.sens.ctxs[m] = s.sens.ctxs[m]) ∧
      t = { s with sens := { s.sens with ctxs := t.sens.ctxs }, fresh := t.fresh }
    let named : Prop := ∃ k j, s.published.job k = some j ∧ ∃ b ∈ j.streams, b.1 = n
    (w.getLsbD 0 = true → 
      (c.enable = true → Completes (.contextEnable n w) s (fun t => t = s)) ∧
      (c.enable = false → d.legal n s = true → s.mem.parkValid = false → Completes (.contextEnable n w) s (fun t =>
        t.sens.ctxs[n] = { d with enable := true, timer := s.clk.raw } ∧ rest t)) ∧
      (c.enable = false → (d.legal n s = false ∨ s.mem.parkValid = true) → Completes (.contextEnable n w) s (fun t =>
        t.sens.ctxs[n] = { d with status := d.status ||| 0x80 } ∧ rest t))) ∧
    (w.getLsbD 0 = false →
      (c.enable = false → Completes (.contextDisable n w) s (fun t => t.sens.ctxs[n] = d ∧ rest t)) ∧
      (c.enable = true → named → Completes (.contextDisable n w) s (fun t =>
        t.sens.ctxs[n] = { c with status := c.status ||| 0x80 } ∧ rest t)) ∧
      (c.enable = true → ¬ named → Completes (.contextDisable n w) s (fun t =>
        (t.sens.ctxs[n]).enable = false ∧ (t.sens.ctxs[n]).frame = none ∧ (t.sens.ctxs[n]).current = none ∧
        (t.sens.ctxs[n]).landed = none ∧ (t.sens.ctxs[n]).edge = none ∧ (∀ x ∈ (t.sens.ctxs[n]).writes, x.void = true) ∧
        (c.frame ≠ none → c.discarded.toNat < 65535 → c.discarded.toNat < (t.sens.ctxs[n]).discarded.toNat) ∧
        (t.sens.ctxs[n]).base = c.base ∧ rest t)))

/-- With the baseband domain on. RUN makes a stopped DSP run from address 0 with no trap; RUN 0 stops it. A write of BB_IQ_CFG
with a mode its rate does not allow is ignored and sets CFG_REFUSED; an allowed one waits for the next boundary, unless a
transmission is armed or running, when it is ignored. A transmission armed before cycle 249,999, or for a beat after the next,
replaces the one armed; one for the next beat in cycle 249,999 sets ARM_LATE and the arm before it is decided first. DELTA 0
cancels. In SAFE_STOP TX_ARM arms nothing and changes nothing (log 84). With the domain off none has an effect. -/
def Obligations.DspAndIqControl : Prop :=
  ∀ s : State,
    (s.hubOn 4 = false → ∀ c, c ∈ [.dspRun, .dspStop, .iqCfgWrite 1, .txArm 0 1 0, .txCancel 0] → Completes c s (fun t => t = s)) ∧
    (s.hubOn 4 = true →
      (s.dsp.run = .stopped → Completes .dspRun s (fun t => t.dsp.run = .running ∧ t.dsp.pc = 0 ∧ t.dsp.trap = 0 ∧ t.dsp.ctrlRun = true ∧
        t.dsp.acc = s.dsp.acc ∧ t.dsp.d = s.dsp.d ∧ t.dsp.x = s.dsp.x ∧ t.dsp.y = s.dsp.y ∧ t = { s with dsp := t.dsp })) ∧
      Completes .dspStop s (fun t => t.dsp.run = .stopped ∧ t.dsp.ctrlRun = false ∧ t.dsp.x = s.dsp.x ∧ t.dsp.y = s.dsp.y ∧
        t = { s with dsp := t.dsp }) ∧
      (∀ w : Word,
        let r := bits w.toNat 1 0
        let m0 := bits w.toNat 5 4
        let m1 := bits w.toNat 7 6
        let ok (m : Nat) : Prop := m = 0 ∨ m = 3 ∨ (r = 0 ∧ m = 2) ∨ (r = 1 ∧ m = 1) ∨ (r = 2 ∧ (m = 1 ∨ m = 2))
        (¬ (ok m0 ∧ ok m1) → Completes (.iqCfgWrite w) s (fun t =>
          t = note iqStatusAt 14 { s with iq := { s.iq with refused := true } })) ∧
        (ok m0 → ok m1 → s.iq.busy = true → Completes (.iqCfgWrite w) s (fun t => t = s)) ∧
        (ok m0 → ok m1 → s.iq.busy = false → Completes (.iqCfgWrite w) s (fun t => ∃ v : Word,
          bits v.toNat 1 0 = r ∧ bits v.toNat 5 4 = m0 ∧ bits v.toNat 7 6 = m1 ∧ t = { s with iq := { s.iq with pendCfg := some v } }))) ∧
      (∀ (e : Fin 2) (d : BitVec 8) (c : BitVec 18), d ≠ 0 →
        (s.dev = .safeStop → Completes (.txArm e d c) s (fun t => t = s)) ∧
        (s.dev ≠ .safeStop → s.clk.cyc < 249999 → Completes (.txArm e d c) s (fun t =>
          t.iq.pairs[e] = { s.iq.pairs[e] with arm := some (s.clk.beat + d.toNat, c.toNat) } ∧
          t.iq.pairs[1 - e] = s.iq.pairs[1 - e] ∧ t = { s with iq := { s.iq with pairs := t.iq.pairs } })) ∧
        (s.dev ≠ .safeStop → s.clk.cyc = 249999 → d = 1 → Completes (.txArm e d c) s (fun t =>
          (t.iq.pairs[e]).armLate = true ∧ (∀ a b, (s.iq.pairs[e]).arm = some (a, b) → a ≠ s.clk.beat + 1 →
            (t.iq.pairs[e]).arm = some (a, b)) ∧ t = note iqStatusAt (12 + e.1) { s with iq := { s.iq with pairs := t.iq.pairs } }))) ∧
      (∀ e : Fin 2, s.clk.cyc < 249999 → Completes (.txCancel e) s (fun t =>
        t.iq.pairs[e] = { s.iq.pairs[e] with arm := none } ∧ t.iq.pairs[1 - e] = s.iq.pairs[1 - e] ∧
        t = { s with iq := { s.iq with pairs := t.iq.pairs } })))

/-- With the grid running and the cycle in its beat, no job admitted and the device not RUNNING, no core about to be fenced, no
stop for the refresh need, no thermal limit and nothing waiting for a cycle to pass: BEAT_BOUNDARY takes the clock to cycle 0 of the next beat, RAW_TIME counting every
cycle up to it, and the device state, the job slots, the fences and the memory are unchanged. A configuration that waits for the
IQ port is in force, source 4 of the DSP interrupts is pending, a frame that was the newest complete one is the current one, and
one that landed as the boundary passed is the newest complete one.
Before the grid runs there is no boundary and nothing changes. -/
def Obligations.BeatBoundaryBeginsTheNextBeat : Prop :=
  ∀ s : State,
    (s.clk.running = false → Completes .beatBoundary s (fun t => t = s)) ∧
    (s.clk.running = true → s.clk.cyc < 250000 → (∀ k, s.job k = none) → (∀ c : Fin 64, (s.safe.cores[c]).persistent = none) → s.dev ≠ .running →
      s.con.refreshStop = false → s.pwr.thermal = false → s.settled = true → Completes .beatBoundary s (fun t =>
        t.clk = { raw := s.clk.raw + (250000 - s.clk.cyc), running := true, beat := s.clk.beat + 1, cyc := 0 } ∧
        t.dev = s.dev ∧ (∀ k, t.job k = none) ∧ t.safe.fence = s.safe.fence ∧ t.mem = s.mem ∧ t.sec = s.sec ∧ t.boot = s.boot ∧
        t.iq.pendCfg = none ∧ (∀ w, s.iq.pendCfg = some w → t.iq.rate = w.setWidth 2) ∧
        t.dsp.irqPend.getLsbD 4 = true ∧
        (∀ n : Fin 24, ∀ f, (s.sens.ctxs[n]).landed = some f →
          (t.sens.ctxs[n]).current = some f ∧ (t.sens.ctxs[n]).landed = (s.sens.ctxs[n]).edge)))

/-- With the grid running and nothing waiting for a cycle to pass, and the device not parked, an MR4 read not yet made in this beat takes the clock to cycle 245,000 where
that lies ahead, notes the higher of the two ranks' rates and the need it maps to for every channel of the part, and leaves the
other channels. Where the largest need exceeds REFRESH_NEED, REFRESH_NEED is that at once and every job whose REFRESH_MULT is
below it is to stop at the next boundary with cause 2; where it is equal, REFRESH_NEED stays. In a beat whose number is a multiple
of 1,024, ZQ calibration keeps every channel of the part busy up to cycle 247,100. OWNER_CHANGE_WAKE begins the wake of every bank
that is asleep on the cores that another owns in the next beat, in cycle 249,800 (a later one acts in the present cycle, the
model's choice), and changes no other core. -/
def Obligations.MemoryTemperature : Prop :=
  ∀ s : State, s.clk.running = true → s.settled = true →
    (∀ ops : List (BitVec 3 × BitVec 3), s.parked = false → s.mem.mr4Beat ≠ some s.clk.beat → s.part.channels ≤ ops.length →
      Completes (.mr4Read ops) s (fun t =>
        t.clk = (toCycle 245000 s).clk ∧ t.mem.mr4Beat = some s.clk.beat ∧
        (∀ (c : Fin 128) x, c.1 < s.part.channels → ops[c.1]? = some x →
          (t.chans[c]).rate.toNat = max x.1.toNat x.2.toNat ∧ (t.chans[c]).needNow = needOf (t.chans[c]).rate) ∧
        (∀ c : Fin 128, s.part.channels ≤ c.1 → (t.chans[c]).rate = (s.chans[c]).rate ∧ (t.chans[c]).needNow = (s.chans[c]).needNow) ∧
        (s.con.need < t.needAll → t.con.need = t.needAll ∧
          ∀ k j, s.job k = some j → j.hdr.refreshMult < t.needAll.toNat → ∃ j', t.job k = some j' ∧
            j'.stop = some { cause := 2, code := 3, at_ := .boundary }) ∧
        (t.needAll = s.con.need → t.con = s.con ∧ t.jobs = s.jobs))) ∧
    (s.parked = false → s.clk.beat % 1024 = 0 → s.clk.cyc < 247100 → Completes .zqCalibration s (fun t =>
      (∀ c : Fin 128, c.1 < s.part.channels → s.clk.raw + 247100 - s.clk.cyc ≤ (t.chans[c]).busFree) ∧
      (∀ c : Fin 128, s.part.channels ≤ c.1 → t.chans[c] = s.chans[c]) ∧
      t = { s with clk := (toCycle 246000 s).clk, chans := t.chans })) ∧
    Completes .ownerChangeWake s (fun t =>
      (∀ u : UnitIdx, u.1 < 64 → s.ownerChanges u.1 = true → ∀ b : Fin 32, ((t.cores[u]).banks[b]).asleep t.clk.raw = false) ∧
      (∀ u : UnitIdx, (64 ≤ u.1 ∨ s.ownerChanges u.1 = false) → t.cores[u] = s.cores[u]) ∧
      t = { s with clk := (toCycle 249800 s).clk, cores := t.cores })

/-- The energy of the beat before is measured once in a beat, by cycle 10,000; that of the last beat of a frame ends the frame's
sum, which is written with the frame's budget. Once in beat 0 of a frame that is not frame 0, after that measurement: a frame
within its budget clears the run of frames over it; one over it counts, and the third in a row sets the ladder with an ENERGY
event; then, where the hottest reading reached TJ_SHED, TJ_SHED's event is set. Of the readings of a sample the hottest, and the
lowest sensor of equals, is shown; from 105 °C on the TJ_LIMIT event and THERMAL_LIMIT are set, from 115 °C on TJ_TRIP takes the
device to SAFE_STOP; below 105 °C nothing but the readings changes. -/
def Obligations.EnergyAndTemperature : Prop :=
  ∀ s : State,
    (s.clk.running = true → s.settled = true → s.pwr.measured < s.clk.beat → ∀ uj : Word, Completes (.beatEnergy uj) s (fun t =>
      t.pwr.beatUj = uj ∧ t.pwr.measured = s.clk.beat ∧
      (s.beatInFrame ≠ 0 → t.pwr.acc = s.pwr.acc + uj.toNat ∧ t.pwr.frameUj = s.pwr.frameUj) ∧
      (s.beatInFrame = 0 → t.pwr.acc = 0 ∧ t.pwr.frameUj = satAdd 0 (s.pwr.acc + uj.toNat) ∧ t.pwr.budgetUj = satAdd 0 s.pwr.budget) ∧
      t = { s with clk := (toCycle 10000 s).clk, pwr := t.pwr })) ∧
    (s.clk.running = true → s.settled = true → s.beatInFrame = 0 → 0 < s.frame → s.pwr.measured = s.clk.beat → s.pwr.decided < s.frame →
      (s.pwr.frameUj.toNat ≤ s.pwr.budgetUj.toNat → s.pwr.tjMax.toInt < 16 * s.pwr.tjShed.toNat → Completes .energyDecision s (fun t =>
        t = { s with clk := (toCycle 10000 s).clk, pwr := { s.pwr with decided := s.frame, overRun := 0, ladder := false } })) ∧
      (s.pwr.budgetUj.toNat < s.pwr.frameUj.toNat → s.pwr.ladder = false → s.pwr.overRun ≠ 2 → s.pwr.overRun ≠ 15 →
        s.pwr.tjMax.toInt < 16 * s.pwr.tjShed.toNat → Completes .energyDecision s (fun t =>
          t = { s with clk := (toCycle 10000 s).clk, pwr := { s.pwr with decided := s.frame, overRun := s.pwr.overRun + 1 } })) ∧
      (s.pwr.budgetUj.toNat < s.pwr.frameUj.toNat → s.pwr.ladder = false → s.pwr.overRun = 2 → Completes .energyDecision s (fun t =>
          t.pwr.ladder = true ∧ t.con.energyCnt = satInc s.con.energyCnt ∧ t.con.status.getLsbD 4 = true)) ∧
      ((16 * s.pwr.tjShed.toNat : Int) ≤ s.pwr.tjMax.toInt → Completes .energyDecision s (fun t => t.pwr.event.getLsbD 3 = true))) ∧
    (s.rst.episode = none → ∀ (pre post : List (BitVec 12)) (x : BitVec 12), pre.length + 1 + post.length ≤ 36 →
      (∀ y ∈ pre, y.toInt < x.toInt) → (∀ y ∈ post, y.toInt ≤ x.toInt) →
      (x.toInt < 1680 → Completes (.tjSample (pre ++ x :: post)) s (fun t => t = { s with pwr := { s.pwr with
        tjNow := x, sensor := BitVec.ofNat 6 pre.length, hot := if s.pwr.hot.toInt < x.toInt then x else s.pwr.hot } })) ∧
      (1680 ≤ x.toInt → x.toInt < 1840 → Completes (.tjSample (pre ++ x :: post)) s (fun t =>
        t.pwr.tjNow = x ∧ t.pwr.event.getLsbD 4 = true ∧ t.pwr.thermal = true ∧
        (∀ k j, s.job k = some j → j.hdr.cls ≠ 0 → ∃ j', t.job k = some j' ∧ j'.stop = some { cause := 4, at_ := .boundary }) ∧
        t = { s with pwr := t.pwr, jobs := { s.jobs with slots := t.jobs.slots }, fresh := t.fresh })) ∧
      (1840 ≤ x.toInt → (s.dev = .ready ∨ s.dev = .running ∨ s.dev = .degraded) → Completes (.tjSample (pre ++ x :: post)) s (fun t =>
        t.dev = .safeStop ∧ t.pwr.tjNow = x ∧ t.pwr.event.getLsbD 5 = true ∧ ∀ k, t.job k = none)))

/-- Out of reset, the fast current limit sets OVERCURRENT and counts the throttle. In a beat that neither a window nor the proof
slot owns, every other job with an entry outstanding ends and one with none goes on; in a beat of a SAFETY window, the first
throttle of the window in the frame leaves every job admitted and begins a quiet time of 2,241 cycles, and a second takes the
device to SAFE_STOP with every job killed. When the quiet time is over the engines of the cores may ramp up from then on, and no
quiet time stands. -/
def Obligations.Throttles : Prop :=
  ∀ s : State,
    (s.rst.episode = none →
      (s.clk.running = false → Completes .fastCurrentLimit s (fun t =>
        t = note 0xF070000004 2 { s with pwr := { s.pwr with event := s.pwr.event ||| 4, throttles := satInc s.pwr.throttles } })) ∧
      (s.clk.running = true → s.windowJob s.clk.beat = none → s.proofBeat s.clk.beat = false → Completes .fastCurrentLimit s (fun t =>
        t.pwr.event = s.pwr.event ||| 4 ∧ t.pwr.throttles = satInc s.pwr.throttles ∧
        (∀ k j, s.job k = some j → j.hdr.cls ≠ 0 → s.outstanding k s.clk.beat = true → t.job k = none) ∧
        (∀ k j, s.job k = some j → j.hdr.cls = 0 → t.job k = some j))) ∧
      (∀ k, s.clk.running = true → s.windowJob s.clk.beat = some k → s.pwr.windowHit ≠ some (k, s.frame) →
        Completes .fastCurrentLimit s (fun t => t.jobs = s.jobs ∧ t.dev = s.dev ∧ t.pwr.event = s.pwr.event ||| 4 ∧
          t.pwr.windowHit = some (k, s.frame) ∧ t.pwr.quietTo = some (s.clk.raw + 2241))) ∧
      (∀ k, s.clk.running = true → s.windowJob s.clk.beat = some k → s.pwr.windowHit = some (k, s.frame) →
        (s.dev = .running ∨ s.dev = .degraded) → Completes .fastCurrentLimit s (fun t => t.dev = .safeStop ∧ ∀ i, t.job i = none))) ∧
    (∀ c, s.pwr.quietTo = some c → c ≤ s.clk.raw → Completes .throttleQuietEnd s (fun t =>
      t.pwr.quietTo = none ∧
      (∀ u : UnitIdx, u.1 < 64 → t.cores[u] = { s.cores[u] with eng := { (s.cores[u]).eng with rampFrom := s.clk.raw } }) ∧
      (∀ u : UnitIdx, 64 ≤ u.1 → t.cores[u] = s.cores[u]) ∧ t = { s with pwr := t.pwr, cores := t.cores }))

/-- Out of reset in READY, RUNNING or DEGRADED, an input below 36 V or above 58 V is noted with its event and takes the device to
SAFE_STOP with every job killed; one inside the limits changes nothing. A trip of the hot-swap controller and a cut by the cold
plate open the input switch and begin a power-on episode of reach 0, in which the device is BOOTING, no job is admitted, the grid
stands and no job register holds anything; burnt fuses, DRAM and the model store of a device that writes nothing are as they were.
The switch that the cold plate opened closes again when it has cooled. -/
def Obligations.SupplyAndInputSwitch : Prop :=
  ∀ s : State,
    (s.rst.episode = none → ∀ mv : BitVec 16,
      (36000 ≤ mv.toNat → mv.toNat ≤ 58000 → Completes (.supplyOutOfRange mv) s (fun t => t = s)) ∧
      ((mv.toNat < 36000 ∨ 58000 < mv.toNat) → (s.dev = .ready ∨ s.dev = .running ∨ s.dev = .degraded) →
        Completes (.supplyOutOfRange mv) s (fun t => t.dev = .safeStop ∧ (∀ k, t.job k = none) ∧ t.pwr.voltMv = mv ∧
          t.pwr.input = (if mv.toNat < 36000 then 1 else 2) ∧
          t.pwr.event = s.pwr.event ||| (if mv.toNat < 36000 then 1 else 2)))) ∧
    (∀ c, c = .hotSwapTrip ∨ c = .coldPlateCut → Completes c s (fun t =>
      t.pins.inputOn = false ∧ (c = .coldPlateCut → t.pins.plateHot = true) ∧ t.rst.supplyLow = true ∧
      (∃ e, t.rst.episode = some e ∧ e.reach = 0 ∧ e.seenPor = true) ∧ t.dev = .booting ∧ (∀ k, t.job k = none) ∧
      t.clk = {} ∧ t.jobs = {} ∧ t.mem.dram = s.mem.dram ∧ (s.host.storing = none → t.mem.store = s.mem.store) ∧
      (∀ k : Fin 4, (s.sec.slots[k]).burnt = true → (∀ h, s.sec.fuseOp ≠ some (.program k h)) → t.sec.slots[k] = s.sec.slots[k]))) ∧
    (s.pins.plateHot = true → Completes .coldPlateRestore s (fun t =>
      t = { s with pins := { s.pins with plateHot := false, inputOn := true } }))

/-- In a proof beat with no core at work (the radio engines may be) and nothing waiting for a cycle to pass, a tile slot at or after the present cycle begins the cursor's tile on every core of the
cursor's die that is not fenced, has no rerun and has no tile in flight, when the frame still has slots, and on no core of the
other die without a rerun. A tile that ends clean on a core that is not in a rerun leaves no tile in flight and raises no fault;
one that ends with a wrong digest raises the GOLDEN fault and opens an event of kind 2 on a core without one. The outcome of a
rerun that went through clean is transient unless it is the third of its core in 1,000 frames: the event closes and the core is
proven; otherwise it is persistent: the core is to be fenced with the kind of its event. -/
def Obligations.ProofSlotAndReruns : Prop :=
  ∀ s : State,
    (∀ n : Fin 29, s.settled = true → s.proving = true → s.safe.cutBeat ≠ some s.clk.beat → s.clk.cyc ≤ 128 + 8192 * n.1 →
      (∀ u : UnitIdx, u.1 < 64 → (s.cores[u]).owes s.clk.beat = false) → s.safe.slotAt = none → s.safe.slots.toNat < 48 →
      Completes (.proofTileSlot n) s (fun t =>
        t.clk = (toCycle (128 + 8192 * n.1) s).clk ∧ t.safe.slotAt = some t.clk.raw ∧
        (∀ c : Fin 64, (s.safe.cores[c]).rerun = none → (s.safe.cores[c]).golden = none →
          (t.safe.cores[c]).golden =
            if (c.1 / 32 = 1) = (s.safe.die = true) ∧ s.safe.fence.getLsbD c.1 = false then some (s.safe.tile, t.clk.raw) else none) ∧
        t = { s with clk := t.clk, safe := t.safe })) ∧
    (∀ (c : Fin 64) n r, (s.safe.cores[c]).golden = some (n, r) → r + 8192 ≤ s.clk.raw →
      (n ≠ 23 → (s.safe.cores[c]).rerun = none → Completes (.goldenTileDone c true true false) s (fun t =>
        (t.safe.cores[c]).golden = none ∧ (∀ d : Fin 64, d ≠ c → t.safe.cores[d] = s.safe.cores[d]) ∧
        t.safe.faults = s.safe.faults ∧ t.host = s.host ∧ t.safe.ages = s.safe.ages)) ∧
      (n ≠ 23 → s.safe.fence.getLsbD c.1 = false → (s.safe.cores[c]).persistent = none → (s.safe.cores[c]).event = none →
        Completes (.goldenTileDone c false true false) s (fun t =>
          (t.safe.cores[c]).golden = none ∧ (t.safe.cores[c]).event = some (s.frame, 2) ∧ t.safe.faults.getLsbD 2 = true ∧
          t.safe.lastFault = 2 ∧ t.safe.evKind = 2 ∧ t.safe.evCore.toNat = c.1 ∧ t.safe.evOutcome = 0))) ∧
    (∀ (c : Fin 64) f kind, (s.safe.cores[c]).event = some (f, kind) → (s.safe.cores[c]).rerun = some 24 →
      let recent := ((s.safe.cores[c]).log.filter fun x => decide (f ≤ x + 999)).length
      ((s.safe.cores[c]).rerunDirty = false → recent < 2 → Completes (.rerunOutcome c) s (fun t =>
        (t.safe.cores[c]).event = none ∧ (t.safe.cores[c]).rerun = none ∧ t.safe.ages[c] = 0 ∧
        t.safe.transient = satInc s.safe.transient ∧ f ∈ (t.safe.cores[c]).log ∧ t = { s with safe := t.safe })) ∧
      (((s.safe.cores[c]).rerunDirty = true ∨ 2 ≤ recent) → Completes (.rerunOutcome c) s (fun t =>
        (t.safe.cores[c]).event = none ∧ (t.safe.cores[c]).persistent = some kind.toNat ∧
        t.safe.persistent = satInc s.safe.persistent ∧ t.safe.fence = s.safe.fence ∧ t = { s with safe := t.safe })))

namespace Sys2Proof.Machine

/-- Entry e of class op can issue on unit u from s (R56, R101, R184, R185, R188): s1 is the state in the cycle in which it is due; there
the unit is on, no quiet time or stop holds it, it is the entry that issues next, and no carried work runs ahead of it. -/
def Issues (u : UnitIdx) (op : Nat) (e : Entry) (s s1 : State) : Prop :=
  (toEntry u op e s).map (takeOver u op e) = some s1 ∧ s1.mayIssue u op e = true

/-- The entry commands of unit u but SEQ_PUT, each with its class and what the sequencer finds of the entry. -/
def entryRows (u : UnitIdx) (e : Entry) (up : SramUpset) : List (Instr × Nat × (State → Ready)) :=
  [(.engPass u e up, 1, passCheck u e), (.engLoadCb u e, 2, loadCheck u e), (.vecCascade u e up, 8, cascCheck u e),
   (.vecInsn u e up, 9, insnCheck u e), (.vecCistern u e, 10, moveCheck u e),
   (.basinDef u e, 0x10, fun s => must (defRules u e s)), (.basinPop u e, 0x11, fun s => must (popRules s.cores[u] e s.clk.raw)),
   (.basinFree u e, 0x12, fun s => must (freeRules u e s)),
   (.bankSleep u e, 0x13, fun _ => must (headerOk e && bits (wordAt e.words 1) 31 1 == 0)),
   (.bankWake u e, 0x14, fun _ => must (headerOk e)), (.seqMark u e, 0x16, fun _ => must (headerOk e))]

end Sys2Proof.Machine

/-- For every entry command of a core or radio engine but SEQ_PUT: while its cycle lies beyond the next boundary, while it is not its
turn, or while the sequencer holds it, nothing changes. Where it breaks its rule, it leaves its context, is counted as issued and
does not run; on a core, for a job that is not a SAFETY job, the MANIFEST event is set, the manifest digest is refused, the job has
ended with cause 3, the other jobs stay admitted, and the core's scratchpad, basins, V0 to V31 and cistern and all of DRAM are
unchanged; on a radio engine MAN_FAULT is set and no radio manifest of it is active any more. An entry found on the core of another
job is the MANIFEST event of its own job, and does not run. -/
def Obligations.EntriesHoldOrBreakTheirRule : Prop :=
  ∀ (u : UnitIdx) (e : Entry) (up : SramUpset) (s : State), ∀ r ∈ entryRows u e up,
    (toEntry u r.2.1 e s = none → Completes r.1 s (fun t => t = s)) ∧
    (∀ s1, (toEntry u r.2.1 e s).map (takeOver u r.2.1 e) = some s1 → s1.mayIssue u r.2.1 e = false →
      (s1.intruder u r.2.1 e = none → Completes r.1 s (fun t => t = s)) ∧
      (∀ k j, s1.intruder u r.2.1 e = some k → s1.job k = some j → j.isSafety = false → Completes r.1 s (fun t =>
        t.con.status.getLsbD 5 = true ∧ t.con.refused = s1.con.refused ++ [j.hdr.digest] ∧ t.job k = none ∧
        (∀ x, x ≠ k → t.job x = s1.job x) ∧ (t.cores[u]).pad = (s1.cores[u]).pad ∧ (t.cores[u]).basins = (s1.cores[u]).basins ∧
        (t.cores[u]).eng.passes = (s1.cores[u]).eng.passes ∧ t.mem.dram = s1.mem.dram ∧ t.clk = s1.clk))) ∧
    (∀ s1, Issues u r.2.1 e s s1 →
      (∀ c, r.2.2 s1 = .hold c → Completes r.1 s (fun t => t = s)) ∧
      (r.2.2 s1 = .bad → u.1 < 64 → ∀ k p j, s1.workOf u r.2.1 e = { job := some k, period := p } → s1.job k = some j →
        j.isSafety = false → Completes r.1 s (fun t =>
          t.con.status.getLsbD 5 = true ∧ t.con.refused = s1.con.refused ++ [j.hdr.digest] ∧ t.job k = none ∧
          (∃ x ∈ t.jobs.leaving, x.slot = k ∧ x.job = j ∧ x.cause = 3) ∧ (∀ x, x ≠ k → t.job x = s1.job x) ∧
          (t.cores[u]).seq.issued = (s1.cores[u]).seq.issued + 1 ∧ (t.cores[u]).pad = (s1.cores[u]).pad ∧
          (t.cores[u]).basins = (s1.cores[u]).basins ∧ (t.cores[u]).vec.v = (s1.cores[u]).vec.v ∧
          (t.cores[u]).vec.cistern = (s1.cores[u]).vec.cistern ∧ t.mem.dram = s1.mem.dram ∧ t.clk = s1.clk)) ∧
      (r.2.2 s1 = .bad → 64 ≤ u.1 → Completes r.1 s (fun t =>
        (t.radio[Fin.ofNat 2 u.1]).manFault = true ∧ (t.radio[Fin.ofNat 2 u.1]).active = none ∧
        (t.radio[Fin.ofNat 2 u.1]).phase = none ∧ t.jobs = s1.jobs)))

/-- A pass that may issue enters in the present cycle: it takes I + STEPS + OUTLIERS cycles, I the INIT cycles, its tile is
FILLING from this cycle, its result is formed of the bytes its basins give at their read positions, every STREAM basin it reads
has its read position moved by the bytes read, HEAD and TAIL of every basin stay, and so do the other tiles, the vector engine,
scratchpad and every other unit; what SEC-DED found of its reads is applied first. ENG_LOAD_CB fills its slot with the bytes at
the HEAD of its basin, consumed at once where that is a STREAM basin; the other slot, every tile and the passes stay. -/
def Obligations.PassEntersTheEngine : Prop :=
  ∀ (u : UnitIdx) (e : Entry) (s s1 : State),
    (∀ (up : SramUpset) d fp, Issues u 1 e s s1 → passCheck u e s1 = .go → passDepth (passFields e).act (passFields e).wgt = some (d, fp) →
      Completes (.engPass u e up) s (fun t =>
        let w := s1.workOf u 1 e
        let f := passFields e
        let c := (upsetPad u w up (popNext u 1 e s1)).cores[u]
        (∃ p : Pass, (t.cores[u]).eng.passes = (s1.cores[u]).eng.passes ++ [p] ∧ p.entry = e ∧ p.entered = s1.clk.raw ∧
          p.init = (if f.init = 1 then 1 else if f.init = 2 then 4 else 0) ∧ p.len = p.init + f.steps + f.outl ∧ p.target = f.tile ∧
          p.fp = fp ∧ p.job = w.job ∧ p.period = w.period ∧ p.result = (passData c f d fp).tile.map (·.1)) ∧
        ((t.cores[u]).eng.tiles[f.tile]).st = .filling ∧ ((t.cores[u]).eng.tiles[f.tile]).since = s1.clk.raw ∧
        (∀ x, x ≠ f.tile → (t.cores[u]).eng.tiles[x] = (s1.cores[u]).eng.tiles[x]) ∧
        (∀ n : Fin 16, ((t.cores[u]).basin n).head = ((s1.cores[u]).basin n).head ∧
          ((t.cores[u]).basin n).tail = ((s1.cores[u]).basin n).tail ∧
          ((t.cores[u]).basin n).cursor = ((s1.cores[u]).basin n).cursor +
            (if ((s1.cores[u]).basin n).hold then 0 else (((f.reads d).filter fun x => x.1 == n).map (·.2)).sum)) ∧
        (t.cores[u]).pad = c.pad ∧ (t.cores[u]).vec = c.vec ∧ (∀ v, v ≠ u → t.cores[v] = s1.cores[v]) ∧
        t.clk = s1.clk ∧ t.mem = s1.mem ∧ t.rills = s1.rills ∧ t.chans = s1.chans)) ∧
    (Issues u 2 e s s1 → loadCheck u e s1 = .go → Completes (.engLoadCb u e) s (fun t =>
      let w := wordAt e.words 0
      let k : Fin 2 := Fin.ofNat 2 (bits w 0 0)
      let n := basinNo (bits w 7 4)
      let c := s1.cores[u]
      let len := if bitOf w 8 then 256 else 16
      (t.cores[u]).eng.books[k] = { valid := true, big := bitOf w 8, fmt := BitVec.ofNat 2 (bits w 11 10),
                                    bytes := c.bytes (c.basin n) (c.basin n).head len } ∧
      (∀ x, x ≠ k → (t.cores[u]).eng.books[x] = c.eng.books[x]) ∧ (t.cores[u]).eng.tiles = c.eng.tiles ∧
      (t.cores[u]).eng.passes = c.eng.passes ∧
      ((c.basin n).hold = true → (t.cores[u]).basins = c.basins) ∧
      ((c.basin n).hold = false → ((t.cores[u]).basin n).head = ((c.basin n).head + len) % (c.basin n).size) ∧
      (∀ m, m ≠ n → (t.cores[u]).basin m = c.basin m) ∧ (t.cores[u]).pad = c.pad ∧ (∀ v, v ≠ u → t.cores[v] = s1.cores[v]) ∧
      t.mem = s1.mem ∧ t.clk = s1.clk))

/-- The oldest pass, not interrupted by a stop and none of whose reads met a bank that is not ON, completes in the cycle of its last
accumulation: the tile is FULL from the cycle
after and holds the result with the errors that arose in its accumulators, ENG_PASS_CNT counts one, HEAD of every STREAM basin
read moves by the bytes read, and the other tiles and the other units stay. That holds for a pass that did not issue in its stated
cycle, for one of a radio engine, and for any that completes before the reserve. ENGINE_DRAIN_DONE, 64 cycles after the stop,
discards every pass whose last accumulation was still to come: its tile is FREE and holds zeros; the other tiles stay. An
interrupted vector entry is gone, V0 to V31 hold what they held at its issue, VEC_STATUS shows that one was interrupted. -/
def Obligations.PassCompletesOrIsInterrupted : Prop :=
  ∀ (u : UnitIdx) (s s1 : State),
    (∀ (p : Pass) rest upset, (s.cores[u]).eng.passes = p :: rest → (s.cores[u]).eng.completes p = true → p.bad = none → reach p.last s = some s1 →
      (p.slipless = false ∨ 64 ≤ u.1 ∨ s1.clk.cyc < s1.reserveAt) → Completes (.passComplete u upset) s (fun t =>
        let c := (settleCore u s1).cores[u]
        (t.cores[u]).eng.tiles[p.target] =
          { st := .full, since := p.entered + p.len + 14, el := Cells.puts 0 [] 0 (upsetTile p.result upset) } ∧
        (∀ x, x ≠ p.target → (t.cores[u]).eng.tiles[x] = c.eng.tiles[x]) ∧ (t.cores[u]).eng.passes = c.eng.passes.drop 1 ∧
        (t.cores[u]).eng.passCnt = c.eng.passCnt + 1 ∧ (t.cores[u]).eng.books = c.eng.books ∧
        (∀ n, (t.cores[u]).basin n = (p.reads.filter fun r => r.1 == n).foldl
          (fun b r => { b.take p.last r.2 with cursor := b.cursor - r.2 }) (c.basin n)) ∧
        (t.cores[u]).pad = c.pad ∧ (t.cores[u]).vec = c.vec ∧ (∀ v, v ≠ u → t.cores[v] = s1.cores[v]) ∧
        t.clk = s1.clk ∧ t.mem = s1.mem)) ∧
    (∀ ts, (s.cores[u]).stopCycle = some ts → reach (ts + 64) s = some s1 → Completes (.engineDrainDone u) s (fun t =>
      let c := (settleCore u s1).cores[u]
      (t.cores[u]).eng.passes = c.eng.passes.filter (fun p => decide (p.last ≤ ts)) ∧
      (∀ p ∈ c.eng.passes, ts < p.last →
        ((t.cores[u]).eng.tiles[p.target]).st = .free ∧ ((t.cores[u]).eng.tiles[p.target]).el = []) ∧
      (∀ x, (∀ p ∈ c.eng.passes, ts < p.last → p.target ≠ x) → (t.cores[u]).eng.tiles[x] = c.eng.tiles[x]) ∧
      (t.cores[u]).vec.draining = none ∧
      (∀ v x, c.vec.entry = some v → c.vec.draining = some x →
        (t.cores[u]).vec.entry = none ∧ (t.cores[u]).vec.v = v.saved ∧ (t.cores[u]).vec.interrupted = true ∧
        (t.cores[u]).vec.cistern = c.vec.cistern) ∧
      (t.cores[u]).pad = c.pad ∧ (∀ v, v ≠ u → t.cores[v] = s1.cores[v]) ∧ t.clk = s1.clk ∧ t.mem = s1.mem))

/-- For every accumulator word and every exact contribution of a step: a contribution of zero, of either sign, leaves an FP32
accumulator and an INT32 accumulator as they are; a step turns no FP32 accumulator that is not -0 into -0; and so an element of a
floating-point pass whose start value is not -0 is not -0 at its end. -/
def Obligations.AccumulatorNeverBecomesMinusZero : Prop :=
  (∀ (acc : Word) (neg : Bool), accFp acc (.zero neg) = acc) ∧
  (∀ (acc : Word × Bool) (neg : Bool), (accInt acc (.zero neg)).1 = acc.1) ∧
  (∀ (acc : Word) (c : Sys2Proof.Machine.Num), acc ≠ 0x80000000 → accFp acc c ≠ 0x80000000) ∧
  (∀ (p : PassData) (i j : Nat), p.fp = true → p.start i j ≠ 0x80000000 → (p.element i j).1 ≠ 0x80000000)

/-- In the cycle in which the verdict of the oldest tile of a core is due, for a job whose period still has work: with an
UNCHECKED weir the period becomes UNPROVEN; otherwise agreement changes only the count of verdicts to come, and disagreement makes
the period DISPUTED, counts one for the weir of the cluster and reports fault 1; on a core that is neither fenced nor about to be
it opens an engine event. A hop parity error reports fault 3 and opens an engine event in the same way; a job of the newest pass
that is not a SAFETY job ends with cause 5, the others stay; a SAFETY job stays admitted, and the passes still FILLING drain with
stop cause 1, unless an earlier stop drains them. -/
def Obligations.WeirAndHopParity : Prop :=
  ∀ (c : Fin 64) (s : State),
    (∀ w rest s1 k j, (s.cores[coreUnit c]).eng.weir = w :: rest → reach w.due s = some s1 → w.job = some k → s1.job k = some j →
      (∀ p ∈ j.run, p.index = w.period → p.workDone = false) → Completes (.weirVerdict c) s (fun t =>
        (t.cores[coreUnit c]).eng.weir = rest ∧ (∀ v, v ≠ coreUnit c → t.cores[v] = s1.cores[v]) ∧ t.mem = s1.mem ∧ t.clk = s1.clk ∧
        (∀ x, x ≠ k → t.job x = s1.job x) ∧
        (w.unchecked = true → t.safe = s1.safe ∧
          t.job k = some (j.modPeriod w.period fun p => { p with unproven := true, weirPend := p.weirPend - 1 })) ∧
        (w.unchecked = false → w.agree = true → t.safe = s1.safe ∧
          t.job k = some (j.modPeriod w.period fun p => { p with weirPend := p.weirPend - 1 })) ∧
        (w.unchecked = false → w.agree = false → t.safe.lastFault = 1 ∧ t.safe.faults.getLsbD 1 = true ∧
          (t.safe.weirs[Fin.ofNat 8 (c.1 / 8)]).disagree = satInc (s1.safe.weirs[Fin.ofNat 8 (c.1 / 8)]).disagree ∧
          (s1.fenced c.1 = false → (s1.safe.cores[c]).persistent = none → (t.safe.cores[c]).event ≠ none) ∧
          t.job k = some (j.modPeriod w.period fun p => { p with disputed := true, weirPend := p.weirPend - 1 })))) ∧
    (∀ p k j, (s.cores[coreUnit c]).eng.passes.getLast? = some p → p.job = some k → s.job k = some j →
      Completes (.hopParity c) s (fun t =>
        t.safe.lastFault = 3 ∧ t.safe.faults.getLsbD 3 = true ∧ t.mem.dram = s.mem.dram ∧ t.clk = s.clk ∧
        (s.clk.raw < p.last → (s.cores[coreUnit c]).eng.stopping = false → (t.cores[coreUnit c]).eng.draining = some s.clk.raw ∧ (t.cores[coreUnit c]).eng.stopCause = 1) ∧
        (s.fenced c.1 = false → (s.safe.cores[c]).persistent = none → (s.safe.cores[c]).hopRerun ≠ some p.entry →
          (t.safe.cores[c]).event ≠ none) ∧
        (j.isSafety = false → t.job k = none ∧ (∃ x ∈ t.jobs.leaving, x.slot = k ∧ x.job = j ∧ x.cause = 5) ∧
          ∀ x, x ≠ k → t.job x = s.job x) ∧
        (j.isSafety = true → t.jobs = s.jobs ∧ ((s.safe.cores[c]).hopRerun ≠ some p.entry →
          (t.safe.cores[c]).hopRerun = some p.entry))))

/-- ENTRY_HOLD, for the entry that issues next on a core or radio engine, in the cycle in which it is due and holds with that cause, for
a hold already permitted or one that traces to a root cause: the slip of the unit is one more, CORE_SEQ_STATUS shows the hold and
its cause, the entry stays where it is, the vector engine, basins and scratchpad of the unit and every other unit are unchanged, and
of the matrix engine at most a RAMP_UP that has begun is noted. A descriptor or a landing that holds on a rill and an entry that
holds on a channel add one to the slip of that rill or channel in the same way, and to no other. A hold that is not permitted is the
MANIFEST event of its job, on a radio engine MAN_FAULT. Which holds trace to a root cause is partly the model's own reading (log
entry 41). -/
def Obligations.HoldsAddToTheSlip : Prop :=
  ∀ (s : State) (cause : BitVec 3),
    (∀ (u : UnitIdx) op e ok s1, s.pausing u = none → s.nextEntry u = some (op, e, ok) →
      toEntry u op e s = some s1 → s1.holdCause u op e ok = some cause.toNat →
      let free : Bool := (s1.cores[u]).seq.permitted || s1.corePermitted u op cause.toNat e (s1.workOf u op e)
      (free = true → Completes (.entryHold (.core u) cause) s (fun t =>
          (t.cores[u]).seq = { (s1.cores[u]).seq with
            slip := (s1.cores[u]).seq.slip + 1, holding := true, holdCause := cause, permitted := true,
            held := (s1.cores[u]).seq.held + (if cause = 6 then 0 else 1) } ∧
          (t.cores[u]).eng = { (s1.cores[u]).eng with rampAt := (t.cores[u]).eng.rampAt } ∧
          (∀ x, (s1.cores[u]).eng.rampAt = some x → (t.cores[u]).eng.rampAt = some x) ∧
          (t.cores[u]).vec = (s1.cores[u]).vec ∧ (t.cores[u]).basins = (s1.cores[u]).basins ∧
          (t.cores[u]).pad = (s1.cores[u]).pad ∧ (∀ v, v ≠ u → t.cores[v] = s1.cores[v]) ∧ t.clk = s1.clk ∧ t.mem = s1.mem ∧
          t.rills = s1.rills ∧ t.chans = s1.chans)) ∧
      (free = false → u.1 < 64 → ∀ k p j, s1.workOf u op e = { job := some k, period := p } → s1.job k = some j → j.isSafety = false →
          Completes (.entryHold (.core u) cause) s (fun t => t.con.status.getLsbD 5 = true ∧ t.job k = none)) ∧
      (free = false → 64 ≤ u.1 → Completes (.entryHold (.core u) cause) s (fun t =>
          (t.radio[Fin.ofNat 2 u.1]).manFault = true ∧ t.jobs = s1.jobs))) ∧
    (∀ (r : Fin 32) d j s1, s.heldDesc r = some (d, j, s1) →
      ((s1.rills[r]).permitted = true ∨ s1.rillPermitted r d j ((s1.rills[r]).descs.any (· == d)) = true) →
      Completes (.entryHold (.rill r) cause) s (fun t =>
        t.rills[r] = { s1.rills[r] with slip := (s1.rills[r]).slip + 1, holding := true, permitted := true } ∧
        (∀ q, q ≠ r → t.rills[q] = s1.rills[q]) ∧ t.cores = s1.cores ∧ t.chans = s1.chans ∧ t.mem = s1.mem ∧ t.clk = s1.clk)) ∧
    (∀ (r : Fin 32) d l, s.heldDesc r = none → s.heldLanding r = some (d, l) → (l.permitted = true ∨ s.landPermitted r d l = true) →
      Completes (.entryHold (.rill r) cause) s (fun t =>
        t.rills[r] = { s.rills[r] with slip := (s.rills[r]).slip + 1, holding := true, landing := (t.rills[r]).landing } ∧
        (∀ q, q ≠ r → t.rills[q] = s.rills[q]) ∧ t = { s with rills := t.rills })) ∧
    (∀ (c : Fin 128) k j x s1, s.heldChan c = some (k, j, x, s1) → ((s1.chans[c]).permitted = true ∨ s1.chanPermitted c k j x = true) →
      Completes (.entryHold (.chan c) cause) s (fun t =>
        t = { s1 with chans := t.chans } ∧ (∀ y, y ≠ c → t.chans[y] = s1.chans[y]) ∧
        t.chans[c] = { s1.chans[c] with slip := (s1.chans[c]).slip + 1, holding := true, permitted := true }))

namespace Sys2Proof.Machine

/-- Instruction (o, w) of OPC opc is the next one of the block v on unit u, no stop drains it, it keeps the rules of R138 and R139;
s1 is the state in the cycle in which it issues. -/
def InsnIssues (opc : Nat) (u : UnitIdx) (o : VOp) (w : Word) (v : VecEntry) (s s1 : State) : Prop :=
  (s.cores[u]).vec.entry = some v ∧ v.op = 9 ∧ v.left.head? = some (vopWord o opc, w) ∧ (s.cores[u]).vec.draining = none ∧
  (reach v.issueAt s).map (settleCore u) = some s1 ∧ insnRules (vopWord o opc, w) = true

/-- What every instruction that writes no register but `vd` and stores nothing leaves: unit u's other registers, its cistern,
scratchpad and basins, every other unit, DRAM; the instruction has left its block. -/
def InsnFrame (u : UnitIdx) (vd : Option (Fin 32)) (s1 t : State) : Prop :=
  (∀ r, vd ≠ some r → (t.cores[u]).vec.v[r] = (s1.cores[u]).vec.v[r]) ∧
  (t.cores[u]).vec.entry.map (·.left) = (s1.cores[u]).vec.entry.map (·.left.drop 1) ∧
  (t.cores[u]).vec.cistern = (s1.cores[u]).vec.cistern ∧ (t.cores[u]).pad = (s1.cores[u]).pad ∧
  (t.cores[u]).basins = (s1.cores[u]).basins ∧ (∀ x, x ≠ u → t.cores[x] = s1.cores[x]) ∧
  t.clk = s1.clk ∧ t.mem = s1.mem ∧ t.jobs = s1.jobs ∧ t.con = s1.con

/-- An exact value rounded once to a format. -/
def once (d : Fmt) (x : Num) : Num := d.value (d.round x).code

/-- The instructions that compute lane by lane, with their OPC and the value of a lane. -/
def laneRows (u : UnitIdx) (o : VOp) (w : Word) : List (Instr × Nat × (Fmt → Num → Num → Num)) :=
  [(.vadd u o w, 0x01, fun d x y => once d (x.add y)), (.vsub u o w, 0x02, fun d x y => once d (x.add y.neg)),
   (.vmul u o w, 0x03, fun d x y => once d (x.mul y)), (.vdiv u o w, 0x04, fun d x y => once d (x.div y)),
   (.vmax u o w, 0x05, fun d x y => once d (vmaxNum x y)), (.vmin u o w, 0x06, fun d x y => once d (vminNum x y)),
   (.vrelu u o w, 0x07, fun d x _ => once d (if x.isNeg then .zero false else x)), (.vcvt u o w, 0x08, fun d x _ => once d x),
   (.vfunc u o w, 0x09, fun d x _ => match funcOf (bits w.toNat 2 0) with
     | none => x
     | some g => d.value (g.eval d.round x).code),
   (.vquant u o w, 0x0A, fun d x _ => match codeFmt (bits w.toNat 1 0) with
     | none => x
     | some q => once d (once q x)),
   (.vbcast u o w, 0x0B, fun d _ _ => once d (if o.dfmt = 2 then ofI32 w else ofF32 w))]

/-- The instructions that compute over each half of 32 lanes, with their OPC and the 32 values of a half. -/
def halfRows (u : UnitIdx) (o : VOp) (w : Word) : List (Instr × Nat × (Fmt → List Num → List Num)) :=
  [(.vredmax u o w, 0x12, fun d l => once d (maxAll l) :: List.replicate 31 (.zero false)),
   (.vredsum u o w, 0x13, fun d l => (treeSum d l).1 :: List.replicate 31 (.zero false)),
   (.vhad u o w, 0x14, fun _ l => (hadamard l).1)]

end Sys2Proof.Machine

/-- A vector entry that may issue begins in the present cycle: a cascade lasts 16 cycles a stage position, an instruction block a
cycle an instruction, a transfer of N words N/64 cycles rounded up; VEC_STATUS shows its mode; what it will write is held back: V0
to V31, cistern, scratchpad, HEAD and TAIL of every basin stay. A cascade's tile is READING. VEC_ENTRY_COMMIT, in the last cycle
of an entry that no stop drains, whose instructions have all issued and whose reads met no bank that is not ON, with the banks it
writes ON: the cistern words, newest
last, the bytes of its stores and the flags it found take effect, its counter counts, the engine is idle, V0 to V31 stay. That
holds for an entry that issued late, one of a radio engine, and one that ends before the reserve. -/
def Obligations.VectorEntriesIssueAndCommit : Prop :=
  ∀ (u : UnitIdx) (s s1 : State),
    (∀ (e : Entry) (up : SramUpset), Issues u 8 e s s1 → cascCheck u e s1 = .go → Completes (.vecCascade u e up) s (fun t =>
      let c := (upsetPad u (s1.workOf u 8 e) up (popNext u 8 e s1)).cores[u]
      let h := cascHead e
      let src := cascSource c h ((s.cores[u]).rereads e)
      let r := runStages c.vec.cistern h.seq h.nm1 (cascStages e) { x := src.1, xint := src.2 }
      (∃ v, (t.cores[u]).vec.entry = some v ∧ v.op = 8 ∧ v.entry = e ∧ v.issued = s1.clk.raw ∧ v.len = 16 * cascPositions e ∧
        v.reserved = cascNeeds e ∧ v.saved = (s1.cores[u]).vec.v ∧ v.left = [] ∧ v.writes.stores = r.1.stores ∧
        v.writes.cistern = r.1.cist ∧ v.flags = r.2) ∧
      (t.cores[u]).vec.mode = .cascade ∧ (t.cores[u]).vec.v = (s1.cores[u]).vec.v ∧ (t.cores[u]).vec.cistern = c.vec.cistern ∧
      (t.cores[u]).pad = c.pad ∧ (h.src = 0 → (s.cores[u]).rereads e = false → ((t.cores[u]).eng.tiles[h.tile]).st = .reading) ∧
      (∀ x, x ≠ h.tile → (t.cores[u]).eng.tiles[x] = c.eng.tiles[x]) ∧
      (∀ n : Fin 16, ((t.cores[u]).basin n).head = (c.basin n).head ∧ ((t.cores[u]).basin n).tail = (c.basin n).tail) ∧
      (∀ x, x ≠ u → t.cores[x] = s1.cores[x]) ∧ t.mem = s1.mem ∧ t.clk = s1.clk)) ∧
    (∀ (e : Entry) (up : SramUpset), Issues u 9 e s s1 → insnCheck u e s1 = .go → Completes (.vecInsn u e up) s (fun t =>
        (∃ v, (t.cores[u]).vec.entry = some v ∧ v.op = 9 ∧ v.entry = e ∧ v.issued = s1.clk.raw ∧
          v.len = (insnPairs e.words).length ∧ v.left = insnPairs e.words ∧ v.reserved = insnNeeds (insnPairs e.words) ∧
          v.saved = (s1.cores[u]).vec.v ∧ v.writes = {}) ∧
        (t.cores[u]).vec.mode = .insn ∧ (t.cores[u]).vec.v = (s1.cores[u]).vec.v ∧ (t.cores[u]).eng.tiles = (s1.cores[u]).eng.tiles ∧
        (∀ n : Fin 16, ((t.cores[u]).basin n).head = ((s1.cores[u]).basin n).head ∧
          ((t.cores[u]).basin n).tail = ((s1.cores[u]).basin n).tail) ∧
        (∀ x, x ≠ u → t.cores[x] = s1.cores[x]) ∧ t.mem = s1.mem ∧ t.clk = s1.clk)) ∧
    (∀ e : Entry, Issues u 10 e s s1 → moveCheck u e s1 = .go → Completes (.vecCistern u e) s (fun t =>
      let a := wordAt e.words 0
      let b := (s1.cores[u]).basin (basinNo (bits a 7 4))
      let at_ := bits (wordAt e.words 1) 15 0
      let n := bits a 21 8
      (∃ v, (t.cores[u]).vec.entry = some v ∧ v.op = 10 ∧ v.entry = e ∧ v.issued = s1.clk.raw ∧ v.len = (n + 63) / 64 ∧ v.left = [] ∧
        (bitOf a 0 = true → v.writes =
          { stores := [(basinNo (bits a 7 4), (Cells.gets 0 (s1.cores[u]).vec.cistern at_ n).flatMap wordBytes)] }) ∧
        (bitOf a 0 = false → v.writes.cistern =
          ((bytesWords ((s1.cores[u]).bytes b b.head (4 * n))).zipIdx.map fun x => (at_ + x.2, x.1)))) ∧
      (t.cores[u]).vec.mode = .cistern ∧ (t.cores[u]).vec.v = (s1.cores[u]).vec.v ∧
      (t.cores[u]).vec.cistern = (s1.cores[u]).vec.cistern ∧ (t.cores[u]).pad = (s1.cores[u]).pad ∧
      (t.cores[u]).eng.tiles = (s1.cores[u]).eng.tiles ∧ (∀ x, x ≠ u → t.cores[x] = s1.cores[x]) ∧ t.mem = s1.mem ∧ t.clk = s1.clk)) ∧
    (∀ v, (s.cores[u]).vec.entry = some v → v.left = [] → v.bad = none → (s.cores[u]).vec.draining = none →
      (reach (v.issued + v.len - 1) s).map (settleCore u) = some s1 →
      (v.storeRuns (s1.cores[u])).all ((s1.cores[u]).banksOn s1.clk.raw) = true →
      (v.slipless = false ∨ 64 ≤ u.1 ∨ s1.clk.cyc < s1.reserveAt) → Completes (.vecEntryCommit u) s (fun t =>
        let k := (s1.cores[u]).vec
        (t.cores[u]).vec.entry = none ∧ (t.cores[u]).vec.mode = .idle ∧ (t.cores[u]).vec.v = k.v ∧
        (t.cores[u]).vec.cistern = writeCistern k.cistern v.writes.cistern ∧
        (t.cores[u]).vec.sat = (k.sat || v.flags.sat) ∧ (t.cores[u]).vec.nonfin = (k.nonfin || v.flags.nonfin) ∧
        (t.cores[u]).vec.satCnt = satAdd k.satCnt v.flags.count ∧
        (t.cores[u]).vec.cascCnt = (if v.op = 8 then k.cascCnt + 1 else k.cascCnt) ∧
        (t.cores[u]).vec.insnCnt = (if v.op = 9 then k.insnCnt + BitVec.ofNat 32 v.count else k.insnCnt) ∧
        (∀ x ∈ v.writes.tiles, ((t.cores[u]).eng.tiles[x]).st = .free) ∧
        (v.writes.stores = [] → (t.cores[u]).pad = (s1.cores[u]).pad) ∧
        (∀ n bs, v.writes.stores = [(n, bs)] → v.writes.releases = [] →
          (t.cores[u]).pad = putRuns (s1.cores[u]).pad (((s1.cores[u]).basin n).runs ((s1.cores[u]).basin n).tail bs.length) bs ∧
          ((t.cores[u]).basin n).tail = (((s1.cores[u]).basin n).tail + bs.length) % ((s1.cores[u]).basin n).size) ∧
        (∀ x, x ≠ u → t.cores[x] = s1.cores[x]) ∧ t.mem = s1.mem ∧ t.clk = s1.clk))

/-- VADD, VSUB, VMUL, VDIV, VMAX, VMIN, VRELU, VCVT, VFUNC, VQUANT and VBCAST write to every lane of VD the exact result of that
lane of VA and VB, read as INT32 or FP32 as AINT and BINT say, rounded once to the destination format (VQUANT: first to the code
format, then held in the destination format; VFUNC: the function's own rounding). VREDMAX and VREDSUM write lane 0 and lane 32
with the maximum and the tree sum of their half, the other lanes +0; VHAD writes the transform of each half. A BF16 lane is kept
as an FP32 word. Every other register of the unit, its cistern, scratchpad and basins, every other unit and DRAM stay. -/
def Obligations.VectorArithmetic : Prop :=
  ∀ (u : UnitIdx) (o : VOp) (w : Word) (v : VecEntry) (s s1 : State) (d : Fmt), laneFmt o.dfmt.toNat = some d →
    (∀ r ∈ laneRows u o w, InsnIssues r.2.1 u o w v s s1 → Completes r.1 s (fun t =>
      InsnFrame u (some o.vd) s1 t ∧ ∀ l : Fin 64, ((t.cores[u]).vec.v[o.vd])[l] = BitVec.ofNat 32 (d.lane
        (r.2.2 d (laneValue o.aint ((s1.cores[u]).vec.v[o.va])[l]) (laneValue o.bint ((s1.cores[u]).vec.v[o.vb])[l]))).code)) ∧
    (∀ r ∈ halfRows u o w, InsnIssues r.2.1 u o w v s s1 → Completes r.1 s (fun t =>
      let xs := ((s1.cores[u]).vec.v[o.va]).toList.map (laneValue o.aint)
      InsnFrame u (some o.vd) s1 t ∧ ∀ l : Fin 64, ((t.cores[u]).vec.v[o.vd])[l] = BitVec.ofNat 32 (d.lane
        ((r.2.2 d (xs.take 32) ++ r.2.2 d (xs.drop 32)).getD l.1 .nan)).code))

/-- VLDT writes to VD 64 elements of a tile that is FULL or READING, which is READING from then on, and pauses, changing nothing,
while the tile is neither. VLDB writes 64 elements from OFFSET behind the HEAD of a basin, the entry's own stores behind the
filled part, converted to the destination format; VLDC writes 64 cistern words, the entry's own pending words first. VSTB, VSTC
and VRELT write no register: the bytes, the cistern words and the tile are noted and take effect when the entry commits. Every
other register, the cistern, the scratchpad and the basins of the unit, every other unit and DRAM stay. -/
def Obligations.VectorLoadsAndStores : Prop :=
  ∀ (u : UnitIdx) (o : VOp) (w : Word) (v : VecEntry) (s s1 : State),
    let c := s1.cores[u]
    (InsnIssues 0x0C u o w v s s1 →
      let x : Fin 4 := Fin.ofNat 4 (bits w.toNat 1 0)
      ((c.eng.tiles[x]).readable s1.clk.raw = false → Completes (.vldt u o w) s (fun t => t = s)) ∧
      ((c.eng.tiles[x]).readable s1.clk.raw = true → Completes (.vldt u o w) s (fun t =>
        InsnFrame u (some o.vd) s1 t ∧ ((t.cores[u]).eng.tiles[x]).st = .reading ∧ (∀ y, y ≠ x → (t.cores[u]).eng.tiles[y] = c.eng.tiles[y]) ∧
        ∀ l : Fin 64, ((t.cores[u]).vec.v[o.vd])[l] = Cells.get 0 (c.eng.tiles[x]).el (64 * bits w.toNat 5 2 + l.1)))) ∧
    (∀ d, InsnIssues 0x0D u o w v s s1 → laneFmt o.dfmt.toNat = some d →
      let b := c.basin (basinNo (bits w.toNat 3 0))
      let f := (fmtOf (bits w.toNat 6 4)).getD .f32
      let off := bits w.toNat 31 7 * f.size
      let own := v.stored (basinNo (bits w.toNat 3 0))
      b.defined = true → 64 * f.size ≤ b.size → off + 64 * f.size ≤ b.usable s1.clk.raw + own.length →
      c.readable s1.clk.raw b (b.head + off) (min (64 * f.size) (b.fill - off)) = true → Completes (.vldb u o w) s (fun t =>
        InsnFrame u (some o.vd) s1 t ∧ ∀ l : Fin 64, ((t.cores[u]).vec.v[o.vd])[l] = BitVec.ofNat 32 (d.lane (once d ((elementsOf f 64
          (c.bytes b (b.head + off) (min (64 * f.size) (b.fill - off)) ++ own.drop (off - b.fill))).getD l.1 .nan))).code)) ∧
    (InsnIssues 0x0E u o w v s s1 → Completes (.vstb u o w) s (fun t =>
      InsnFrame u none s1 t ∧ (t.cores[u]).vec.entry.map (·.writes.stores) = c.vec.entry.map (fun v => v.writes.stores ++
        [(basinNo (bits w.toNat 3 0), (elementBytes ((fmtOf (bits w.toNat 6 4)).getD .f32) ((c.vec.v[o.va]).toList.map (laneValue o.aint))).1)]))) ∧
    (InsnIssues 0x0F u o w v s s1 → bits w.toNat 15 0 + 63 ≤ 65535 → Completes (.vldc u o w) s (fun t =>
      InsnFrame u (some o.vd) s1 t ∧ ∀ l : Fin 64, ((t.cores[u]).vec.v[o.vd])[l] =
        (match v.writes.cistern.find? (fun x => x.1 == bits w.toNat 15 0 + l.1) with
         | some x => x.2
         | none => Cells.get 0 c.vec.cistern (bits w.toNat 15 0 + l.1)))) ∧
    (InsnIssues 0x10 u o w v s s1 → bits w.toNat 15 0 + 63 ≤ 65535 → Completes (.vstc u o w) s (fun t =>
      InsnFrame u none s1 t ∧ ∀ v', (t.cores[u]).vec.entry = some v' → v'.writes.stores = v.writes.stores ∧
        (∀ l : Fin 64, cistAt c.vec.cistern v'.writes.cistern (bits w.toNat 15 0 + l.1) = (c.vec.v[o.va])[l]) ∧
        ∀ a, (a < bits w.toNat 15 0 ∨ bits w.toNat 15 0 + 64 ≤ a) →
          cistAt c.vec.cistern v'.writes.cistern a = cistAt c.vec.cistern v.writes.cistern a)) ∧
    (InsnIssues 0x11 u o w v s s1 → Completes (.vrelt u o w) s (fun t =>
      InsnFrame u none s1 t ∧ (t.cores[u]).eng.tiles = c.eng.tiles ∧ (t.cores[u]).vec.entry.map (·.writes.tiles) =
        c.vec.entry.map (fun v => v.writes.tiles ++ [Fin.ofNat 4 (bits w.toNat 1 0)])))

namespace Sys2Proof.Machine

/-- A pass but for what is known of reads of it that meet a bank that is not ON. -/
def Pass.bare (p : Pass) : Pass := { p with bad := none }

/-- The same of a vector entry. -/
def VecEntry.bare (v : VecEntry) : VecEntry := { v with bad := none }

/-- What the sequencer's own entries leave: pass and vector engine, every other unit, DRAM, jobs, the contract, the clock; the
entry is counted. A bank that goes to sleep is noted for the reads in progress that it will meet. -/
def SeqFrame (u : UnitIdx) (s1 t : State) : Prop :=
  (t.cores[u]).vec.v = (s1.cores[u]).vec.v ∧ (t.cores[u]).vec.cistern = (s1.cores[u]).vec.cistern ∧
  (t.cores[u]).vec.entry.map VecEntry.bare = (s1.cores[u]).vec.entry.map VecEntry.bare ∧
  (t.cores[u]).eng.tiles = (s1.cores[u]).eng.tiles ∧
  (t.cores[u]).eng.passes.map Pass.bare = (s1.cores[u]).eng.passes.map Pass.bare ∧
  (t.cores[u]).seq.issued = (s1.cores[u]).seq.issued + 1 ∧ (∀ x, x ≠ u → t.cores[x] = s1.cores[x]) ∧ t.mem = s1.mem ∧
  t.jobs = s1.jobs ∧ t.con = s1.con ∧ t.clk = s1.clk ∧ t.rills = s1.rills ∧ t.chans = s1.chans

end Sys2Proof.Machine

/-- Of an entry that issues and keeps its rules: BASIN_DEF defines its basin, empty, with both pointers zero, and no other;
BASIN_POP moves HEAD of its basin by its bytes and leaves TAIL; BASIN_FREE undefines the basins of its mask and no other; SEQ_MARK
writes CORE_SEQ_MARK; none of them writes the scratchpad. SEQ_PUT reserves its space and, its banks ON, writes its first word in its
cycle; one of several words writes the others a cycle later each, and TAIL waits for the last; one of one word moves TAIL at once
(for one that does not run into the reserve from its stated cycle on, which is the MANIFEST event of its job). The engines, every
other unit and DRAM stay. -/
def Obligations.BasinAndSequencerEntries : Prop :=
  ∀ (u : UnitIdx) (e : Entry) (s s1 : State),
    let w := wordAt e.words 0
    let n := basinNo (bits w 3 0)
    let c := s1.cores[u]
    (Issues u 0x10 e s s1 → defRules u e s1 = true → Completes (.basinDef u e) s (fun t =>
      SeqFrame u s1 t ∧ (t.cores[u]).pad = c.pad ∧ (t.cores[u]).banks = c.banks ∧ (∀ m, m ≠ n → (t.cores[u]).basin m = c.basin m) ∧
      (t.cores[u]).basin n = { defined := true, hold := bitOf w 4, baseKib := bits w 18 5, sizeKib := bits (wordAt e.words 1) 13 0,
                               consumer := (c.basin n).consumer, port := (c.basin n).port })) ∧
    (Issues u 0x11 e s s1 → popRules c e s1.clk.raw = true → Completes (.basinPop u e) s (fun t =>
      SeqFrame u s1 t ∧ (t.cores[u]).pad = c.pad ∧ (t.cores[u]).banks = c.banks ∧ (∀ m, m ≠ n → (t.cores[u]).basin m = c.basin m) ∧
      ((t.cores[u]).basin n).head = ((c.basin n).head + bits w 27 4) % (c.basin n).size ∧
      ((t.cores[u]).basin n).tail = (c.basin n).tail ∧ ((t.cores[u]).basin n).defined = true)) ∧
    (Issues u 0x12 e s s1 → freeRules u e s1 = true → Completes (.basinFree u e) s (fun t =>
      SeqFrame u s1 t ∧ (t.cores[u]).pad = c.pad ∧ (t.cores[u]).banks = c.banks ∧
      ∀ m : Fin 16, (bitOf w m.1 = true → ((t.cores[u]).basin m).defined = false) ∧
        (bitOf w m.1 = false → (t.cores[u]).basin m = c.basin m))) ∧
    (Issues u 0x16 e s s1 → headerOk e = true → Completes (.seqMark u e) s (fun t =>
      SeqFrame u s1 t ∧ (t.cores[u]).seq.mark = BitVec.ofNat 32 w ∧ (t.cores[u]).pad = c.pad ∧ (t.cores[u]).banks = c.banks ∧
      (t.cores[u]).basins = c.basins)) ∧
    (Issues u 0x15 e s s1 → putCheck u e s1 = .go → 1 < putWords e → s1.putLate u e = false → c.banksOn s1.clk.raw ((c.basin n).runs (c.basin n).tail 8) = true →
      Completes (.seqPut u e) s (fun t =>
      let bs := (e.words.drop 1).flatMap wordBytes
      SeqFrame u s1 t ∧ (t.cores[u]).pad = putRuns c.pad ((c.basin n).runs (c.basin n).tail 8) (bs.take 8) ∧
      (t.cores[u]).banks = c.banks ∧ (∀ m, m ≠ n → (t.cores[u]).basin m = c.basin m) ∧
      (t.cores[u]).seq.put = some { basin := n, start := (c.basin n).tail, bytes := bs, done := 1, next := s1.clk.raw + 1 } ∧
      ((t.cores[u]).basin n).tail = (c.basin n).tail ∧ ((t.cores[u]).basin n).reserved = (c.basin n).reserved + 8 * putWords e)) ∧
    (Issues u 0x15 e s s1 → putCheck u e s1 = .go → putWords e = 1 → s1.putLate u e = false →
      let bs := (e.words.drop 1).flatMap wordBytes
      bs.length = 8 → c.banksOn s1.clk.raw ((c.basin n).runs (c.basin n).tail 8) = true → Completes (.seqPut u e) s (fun t =>
        SeqFrame u s1 t ∧ (t.cores[u]).pad = putRuns c.pad ((c.basin n).runs (c.basin n).tail 8) bs ∧
        ((t.cores[u]).basin n).tail = ((c.basin n).tail + 8) % (c.basin n).size ∧ (t.cores[u]).seq.put = none)) ∧
    (∀ k p j, Issues u 0x15 e s s1 → putCheck u e s1 = .go → s1.putLate u e = true → s1.workOf u 0x15 e = { job := some k, period := p } →
      s1.job k = some j → j.isSafety = false → Completes (.seqPut u e) s (fun t => t.con.status.getLsbD 5 = true ∧ t.job k = none))

/-- With the scratchpad in canonical form: BANK_SLEEP takes the banks of its mask that are ON to SLEEP_RET or SLEEP_OFF, as RETAIN
says, from the next cycle on, and leaves the others; the scratchpad stays. BANK_WAKE begins in the next cycle the wake of the
banks of its mask that sleep; what a bank in SLEEP_OFF held reads as zero then, and every byte outside such banks is unchanged.
200 cycles after its wake began a bank is ON; with no write held for it nothing else changes. -/
def Obligations.BanksSleepAndWake : Prop :=
  ∀ (u : UnitIdx) (e : Entry) (s s1 : State),
    let w := wordAt e.words 0
    let c := s1.cores[u]
    let now := s1.clk.raw
    (Issues u 0x13 e s s1 → headerOk e = true → bits (wordAt e.words 1) 31 1 = 0 → Completes (.bankSleep u e) s (fun t =>
      SeqFrame u s1 t ∧ (t.cores[u]).pad = c.pad ∧ (t.cores[u]).basins = c.basins ∧ ∀ k : Fin 32,
        (bitOf w k.1 = true → (c.banks[k]).at_ now = .on → ((t.cores[u]).banks[k]).at_ now = .on ∧
          ((t.cores[u]).banks[k]).at_ (now + 1) = (if bitOf (wordAt e.words 1) 0 then .sleepRet else .sleepOff)) ∧
        (bitOf w k.1 = false ∨ (c.banks[k]).at_ now ≠ .on → (t.cores[u]).banks[k] = c.banks[k]))) ∧
    (Issues u 0x14 e s s1 → headerOk e = true → Memory.wf 0 c.pad = true → Completes (.bankWake u e) s (fun t =>
      SeqFrame u s1 t ∧ (t.cores[u]).basins = c.basins ∧
      (∀ k : Fin 32, (bitOf w k.1 = true → (c.banks[k]).asleep now = true → ((t.cores[u]).banks[k]).at_ (now + 1) = .waking) ∧
        (bitOf w k.1 = false ∨ (c.banks[k]).asleep now = false → (t.cores[u]).banks[k] = c.banks[k])) ∧
      (∀ k : Fin 32, bitOf w k.1 = true → (c.banks[k]).at_ now = .sleepOff → ∀ a, k.1 * 262144 ≤ a → a < (k.1 + 1) * 262144 →
        Cells.get 0 (t.cores[u]).pad a = 0) ∧
      (∀ a, (∀ k : Fin 32, k.1 * 262144 ≤ a → a < (k.1 + 1) * 262144 → bitOf w k.1 = false ∨ (c.banks[k]).at_ now ≠ .sleepOff) →
        Cells.get 0 (t.cores[u]).pad a = Cells.get 0 c.pad a))) ∧
    (∀ k : Fin 32, ((s.cores[u]).banks[k]).st = .waking → reach (((s.cores[u]).banks[k]).since + 200) s = some s1 →
      (∀ v, c.vec.entry = some v → v.late = false) → c.seq.put = none → c.narrow = [] → s1.waiting u = [] →
      Completes (.bankWakeDone u k) s (fun t =>
        ((t.cores[u]).banks[k]).at_ now = .on ∧ (∀ x, x ≠ k → (t.cores[u]).banks[x] = c.banks[x]) ∧
        t = { s1 with cores := t.cores } ∧ (∀ x, x ≠ u → t.cores[x] = s1.cores[x]) ∧
        t.cores[u] = { c with banks := (t.cores[u]).banks, eng := { c.eng with passes := (t.cores[u]).eng.passes },
                              vec := { c.vec with entry := (t.cores[u]).vec.entry } } ∧
        (t.cores[u]).eng.passes.map Pass.bare = c.eng.passes.map Pass.bare ∧
        (t.cores[u]).vec.entry.map VecEntry.bare = c.vec.entry.map VecEntry.bare))

/-- CONTEXT_FETCH, for a job of that context that marks the next beat, with no half yet for it and one that may receive it, names
the next beat in that half and empties it; DESCRIPTOR_FETCH asks for a group all of whose descriptors of a job have retired; either
request waits at the channels with its DUE, for a context the first cycle of its beat. FETCH_LANDED acts on a request all of whose
reads have landed, and without one changes nothing: that of a context fills every half that was asked for with the entries of its
beat as the reads delivered them, all at once, and completes it, and leaves the others; that of a group puts in the place of each
retired descriptor of the group the one 64 further on in the job's section, and the rest of the queue stays. None of them changes
the engines, DRAM, the jobs or another unit. -/
def Obligations.TimetableFetches : Prop :=
  ∀ s : State,
    (∀ (c : Fin 64) (k : Fin 5) x j (h : Fin 2), s.ctxJob c.1 k.1 = some x → s.job x = some j → j.marks (s.clk.beat + 1) = true →
      (∀ i : Fin 2, (((s.cores[coreUnit c]).seq.halves[k])[i]).beat ≠ s.clk.beat + 1) →
      freeHalf s.clk.beat ((s.cores[coreUnit c]).seq.halves[k]) = some h → Completes (.contextFetch c k) s (fun t =>
        (((t.cores[coreUnit c]).seq.halves[k])[h]) = { beat := s.clk.beat + 1, entries := [], complete := false } ∧
        (∀ i, i ≠ h → (((t.cores[coreUnit c]).seq.halves[k])[i]) = (((s.cores[coreUnit c]).seq.halves[k])[i])) ∧
        (∀ i, i ≠ k → ((t.cores[coreUnit c]).seq.halves[i]) = ((s.cores[coreUnit c]).seq.halves[i])) ∧
        (∃ f : Fetch, t.mem = { s.mem with fetches := s.mem.fetches ++ [f] } ∧ f.kind = .context c k ∧ f.job = x ∧ f.jid = j.id ∧
          f.due = (s.clk.beat + 1) * 250000 ∧ f.posted = s.grid ∧ f.left = f.lines.length ∧ f.got = []) ∧
        t = { s with cores := t.cores, mem := t.mem } ∧ (∀ v, v ≠ coreUnit c → t.cores[v] = s.cores[v]) ∧
        (t.cores[coreUnit c]).pad = (s.cores[coreUnit c]).pad ∧ (t.cores[coreUnit c]).basins = (s.cores[coreUnit c]).basins)) ∧
    (∀ k, s.mem.fetches.find? (fun x => x.kind == k && x.lines.isEmpty && x.left == 0) = none → Completes (.fetchLanded k) s (fun t => t = s)) ∧
    (∀ (c : Fin 64) (k : Fin 5) f j, s.mem.fetches.find? (fun x => x.kind == .context c k && x.lines.isEmpty && x.left == 0) = some f →
      s.job f.job = some j → Completes (.fetchLanded (.context c k)) s (fun t =>
      (∀ i : Fin 2, (((t.cores[coreUnit c]).seq.halves[k])[i]) =
        (let h := ((s.cores[coreUnit c]).seq.halves[k])[i]
         if h.asked then { h with entries := coreEntries (s.imageAs f.got j) j c.1 h.beat, complete := true } else h)) ∧
      (∀ i, i ≠ k → ((t.cores[coreUnit c]).seq.halves[i]) = ((s.cores[coreUnit c]).seq.halves[i])) ∧
      t = { s with cores := t.cores, mem := { s.mem with fetches := s.mem.fetches.erase f } } ∧
      (∀ v, v ≠ coreUnit c → t.cores[v] = s.cores[v]) ∧
      (t.cores[coreUnit c]).pad = (s.cores[coreUnit c]).pad ∧ (t.cores[coreUnit c]).basins = (s.cores[coreUnit c]).basins)) ∧
    (∀ (r : Fin 32) (g : Fin 4) k j, (s.rills[r]).refillJob g = some k → s.job k = some j → Completes (.descriptorFetch r g) s (fun t =>
      (∃ f : Fetch, t.mem = { s.mem with fetches := s.mem.fetches ++ [f] } ∧ f.kind = .group r g ∧ f.job = k ∧ f.jid = j.id ∧
        f.posted = s.grid ∧ f.left = f.lines.length ∧ f.got = []) ∧
      t = { s with rills := t.rills, mem := t.mem } ∧ (∀ q, q ≠ r → t.rills[q] = s.rills[q]) ∧
      t.rills[r] = { s.rills[r] with fetching := (s.rills[r]).fetching ++ [(k, g)] })) ∧
    (∀ (r : Fin 32) (g : Fin 4) f j, s.mem.fetches.find? (fun x => x.kind == .group r g && x.lines.isEmpty && x.left == 0) = some f →
      s.job f.job = some j → Completes (.fetchLanded (.group r g)) s (fun t =>
        t = { s with rills := t.rills, mem := { s.mem with fetches := s.mem.fetches.erase f } } ∧
        (∀ q, q ≠ r → t.rills[q] = s.rills[q]) ∧
        t.rills[r] = { s.rills[r] with
          fetching := (s.rills[r]).fetching.filter (· != (f.job, g)),
          descs := (s.rills[r]).descs.map fun d =>
            if d.job = f.job ∧ d.slot.1 / 16 = g.1 ∧ d.retired = true
            then (descAt f.job (unitEntries (s.imageAs f.got j) j 2 4 r.1) (d.seq + 64)).getD d else d }))

/-- The descriptor stated first among those of a slot that may go next, in its due cycle: RILL_IN and RILL_OUT open its window
there, behind the open windows of its kind on its basin but those that a higher rill has opened in the same cycle, none of its blocks
moved; one such window moves behind it; every other descriptor stays. A RILL_IN that must wait for an earlier window changes nothing;
one whose range lies in no extent of its job sets the extent flag and is the MANIFEST event of its job. RILL_NOP retires at once.
RILL_RETIRE of a RILL_IN that TAIL has passed counts it and frees its slot; of a RILL_OUT, in the cycle after its last burst, it takes
one off what its period still waits for, and the last one ends the work of the period, whose sequences then step. A read unanswered
for the timeout sets the timeout flag, reports fault 8, and kills its job with cause 3. Jobs named here are no SAFETY jobs where they
end. -/
def Obligations.RillDescriptors : Prop :=
  ∀ (r : Fin 32) (slot : Fin 64) (s s1 : State) (d : Desc) (j : Job),
    (∀ x ∈ [(Instr.rillIn r slot, 1), (Instr.rillOut r slot, 2)], s.nextDesc r slot x.2 = some (d, j) →
      reachGrid (d.dueAt j (s.rills[r]).slip) s = some s1 →
      let t0 := settleCore (d.core r) s1
      let b := (t0.cores[d.core r]).basin d.basin
      let ws := t0.windows (d.core r) d.basin d.op
      let later (y : Fin 32 × Desc) : Bool := y.2.since == s1.clk.raw && decide (r < y.1)
      (x.2 = 1 → s1.ordered d = true → s1.earlierWindow r d j = true → Completes x.1 s (fun t => t = s)) ∧
      ((x.2 = 1 → s1.ordered d = true → s1.earlierWindow r d j = false) → d.legal j = true →
        (t0.rangeOk j d = true → b.defined = true → Completes x.1 s (fun t =>
          (∀ y ∈ (t.rills[r]).descs, y.names d.job d.slot = true → y.active = true ∧ y.since = s1.clk.raw ∧
            y.done = List.replicate y.blocks false ∧
            y.winStart = ((if d.op = 1 then b.tail else b.head) +
              windowsAhead (d.op == 2 && b.hold) (ws.filter fun y => !later y)) % b.size) ∧
          (t.rills[r]).descs.filter (fun y => !y.names d.job d.slot) = (s1.rills[r]).descs.filter (fun y => !y.names d.job d.slot) ∧
          (t.rills[r]).holding = false ∧ (∀ q, q ≠ r → (∀ y ∈ ws, later y = true → y.1 ≠ q) → t.rills[q] = s1.rills[q]) ∧
          (∀ y, ws.filter later = [y] → ∀ z ∈ (s1.rills[y.1]).descs, z.names y.2.job y.2.slot = true →
            { z with winStart := (z.winStart + 64 * d.blocks) % b.size } ∈ (t.rills[y.1]).descs) ∧
          t.cores = t0.cores ∧ t.mem = t0.mem ∧ t.jobs = t0.jobs ∧ t.clk = s1.clk)) ∧
        (t0.rangeOk j d = false → (∃ h, t0.job d.job = some h ∧ h.isSafety = false) → Completes x.1 s (fun t =>
          (t.rills[r]).extent = true ∧ t.con.status.getLsbD 5 = true ∧ t.job d.job = none ∧ t.mem.dram = s1.mem.dram)))) ∧
    (s.nextDesc r slot 3 = some (d, j) → reachGrid (d.dueAt j (s.rills[r]).slip) s = some s1 → d.legal j = true →
      Completes (.rillNop r slot) s (fun t =>
        t = { s1 with rills := t.rills } ∧ (∀ q, q ≠ r → t.rills[q] = s1.rills[q]) ∧
        (t.rills[r]).retiredCnt = (s1.rills[r]).retiredCnt + 1 ∧ (∀ y ∈ (t.rills[r]).descs, y.names d.job d.slot = false))) ∧
    ((s.rills[r]).descs.find? (fun d => d.slot == slot && d.complete) = some d →
      (d.op = 1 → Completes (.rillRetire r slot) s (fun t =>
        t = { s with rills := t.rills } ∧ (∀ q, q ≠ r → t.rills[q] = s.rills[q]) ∧
        (t.rills[r]).retiredCnt = (s.rills[r]).retiredCnt + 1 ∧ (∀ y ∈ (t.rills[r]).descs, y.names d.job slot = false))) ∧
      (∀ p, d.op ≠ 1 → reach d.ends s = some s1 → s1.job d.job = some j → j.run.find? (·.index == d.period) = some p →
        j.isSafety = false → (∀ p ∈ j.run, p.index = d.period → p.weirPend ≠ 0) → Completes (.rillRetire r slot) s (fun t =>
          (t.rills[r]).retiredCnt = (s1.rills[r]).retiredCnt + 1 ∧ (∀ y ∈ (t.rills[r]).descs, y.names d.job slot = false) ∧
          t = { s1 with rills := t.rills, host := t.host,
                        jobs := { s1.jobs with slots := t.jobs.slots, stepping := t.jobs.stepping } } ∧
          (∀ k, k ≠ d.job → t.job k = s1.job k) ∧
          (p.outsLeft ≠ 1 → t.host = s1.host ∧ t.jobs.stepping = s1.jobs.stepping ∧
            t.job d.job = some (j.modPeriod d.period fun p => { p with outsLeft := p.outsLeft - 1 })) ∧
          (p.outsLeft = 1 → t.jobs.stepping = s1.jobs.stepping ++ [(d.job, j.id, d.period)] ∧
            ∃ h, t.job d.job = some h ∧ h.periods = j.periods + 1 ∧ h.lateRun = 0 ∧ h.id = j.id ∧ h.extents = j.extents ∧
              h.run = (j.modPeriod d.period fun p =>
                { p with outsLeft := p.outsLeft - 1, workDone := true, doneBeat := s1.clk.beat, doneCyc := s1.clk.cyc }).run)))) ∧
    (∀ f, s.unanswered r slot = some f → reach (f.issued + max 1024 (s.rills[r]).tmo.toNat) s = some s1 → s1.job f.job = some j →
      j.isSafety = false → Completes (.rillTimeout r slot) s (fun t =>
        (t.rills[r]).timeout = true ∧ (t.rills[r]).failed = true ∧ t.safe.lastFault = 8 ∧ t.safe.faults.getLsbD 8 = true ∧
        t.job f.job = none ∧ (∃ x ∈ t.jobs.leaving, x.slot = f.job ∧ x.job = j ∧ x.cause = 3) ∧
        (∀ k, k ≠ f.job → t.job k = s1.job k) ∧ t.mem.dram = s1.mem.dram ∧ t.clk = s1.clk))

/-- The data of a checked read whose token names a fitting descriptor wait in the landing buffer of its rill, its tag held, those of
an access that reaches no address from the cycle in which a read at LAT_MAX would arrive; one whose token names none sets the token
flag and is the MANIFEST event of its job. The first landing that may take a core's fabric port is carried out in the cycle of its
last byte, its banks ON: its bytes stand at their place in the window, TAIL passes over the blocks of the windows that have landed
without a gap, the tag is free (for one that may land in the reserve). A read-out of blocks of an open RILL_OUT within FILL begins
when the fabric read port is free, and in the cycle of its last byte it has taken their bytes and marked them, and HEAD of a STREAM
basin passes over them. ARB_REQUEST posts the next run of blocks of the oldest open arbitrated descriptor within one line, with its
NEED as DUE, a place granted in the same cycle not yet free, or the oldest piece of a stream; for a radio engine it changes nothing
(the model's choice, log entry 42). -/
def Obligations.RillDataMoves : Prop :=
  ∀ (s s1 : State),
    (∀ (ch : Fin 128) (i : Fin 64) f, (s.chans[ch]).slots[i] = some f → (if f.zero then reach f.maxArrival s else some s) = some s1 →
      (s1.chans[ch]).slots[i] = some f → f.write = false → f.kind = .rill → f.checked = true → f.arrived = false → s1.stands f = true →
      (∀ d, (s1.rills[f.rill]).desc f.job f.slot = some d → d.failed = false → f.fits d = true → (s1.rills[f.rill]).awaits f = false →
        (d.active = true ∨ (s1.rills[f.rill]).buffered + f.data.length ≤ 16384) → Completes (.completionArrival ch i) s (fun t =>
          t = { s1 with chans := t.chans, rills := t.rills } ∧ (∀ x, x ≠ ch → t.chans[x] = s1.chans[x]) ∧
          (t.chans[ch]).slots[i] = some { f with arrived := true } ∧ (∀ x, x ≠ f.rill → t.rills[x] = s1.rills[x]) ∧
          t.rills[f.rill] = { s1.rills[f.rill] with landing := (s1.rills[f.rill]).landing ++
            [{ job := f.job, slot := f.slot, block := f.block, bytes := f.data, timed := f.timed, chan := ch, tag := i }] })) ∧
      (∀ j, (s1.rills[f.rill]).desc f.job f.slot = none → s1.job f.job = some j → j.isSafety = false → (s1.chans[ch]).retrySlot = none →
        Completes (.completionArrival ch i) s (fun t =>
          (t.rills[f.rill]).token = true ∧ (t.chans[ch]).slots[i] = none ∧ t.con.status.getLsbD 5 = true ∧ t.job f.job = none))) ∧
    (∀ (c : Fin 64) r d l, (settleCore (coreUnit c) s).nextLanding (coreUnit c) = some (r, d, l) →
      landRules ((settleCore (coreUnit c) s).cores[coreUnit c]) d l = true → d.core r = coreUnit c →
      reach (max s.clk.raw ((s.cores[coreUnit c]).fabric) + (l.bytes.length + 255) / 256 - 1) (settleCore (coreUnit c) s) = some s1 →
      (s1.chans[l.chan]).retrySlot = none → (∀ f, (s1.chans[l.chan]).slots[l.tag] = some f → s1.landsLate f = false) →
      let k := s1.cores[coreUnit c]
      k.banksOn s1.clk.raw (landRuns (k.basin d.basin) d l) = true → Completes (.basinLanding c) s (fun t =>
        let n := 64 * (runOver ((modDesc r d.job d.slot (Desc.mark l.block (l.bytes.length / 64))
          (reserveLanding r d l s1)).windows (coreUnit c) d.basin 1)).1
        (t.cores[coreUnit c]).pad = putRuns k.pad ((k.basin d.basin).runs (d.winStart + 64 * l.block) l.bytes.length) l.bytes ∧
        (n = 0 → ((t.cores[coreUnit c]).basin d.basin).tail = (k.basin d.basin).tail) ∧
        (n ≠ 0 → ((t.cores[coreUnit c]).basin d.basin).tail = ((k.basin d.basin).tail + n) % (k.basin d.basin).size) ∧
        (∀ m, m ≠ d.basin → (t.cores[coreUnit c]).basin m = k.basin m) ∧ (t.chans[l.chan]).slots[l.tag] = none ∧
        (t.rills[r]).landing = (s1.rills[r]).landing.erase l ∧
        (t.rills[r]).bytes = (s1.rills[r]).bytes + BitVec.ofNat 64 l.bytes.length ∧ (t.cores[coreUnit c]).fabric = s1.clk.raw + 1 ∧
        (∀ x, x ≠ coreUnit c → t.cores[x] = s1.cores[x]) ∧ t.mem = s1.mem ∧ t.clk = s1.clk)) ∧
    (∀ (r : Fin 32) (slot : Fin 64) (block blocks : BitVec 10) d j g s2, (s.rills[r]).descs.find? (fun d => d.slot == slot && d.op == 2 && d.open_) = some d →
      s.job d.job = some j → s.readOutFrom r j d block.toNat blocks.toNat = some g →
      ((reachGrid g s).bind fun t => reach (t.cores[d.core r]).fabricOut t).map (settleCore (d.core r)) = some s1 →
      s1.canReadOut r d block.toNat blocks.toNat = true → outRules (s1.cores[d.core r]) d s1.clk.raw block.toNat blocks.toNat = true →
      let last := s1.clk.raw + (64 * blocks.toNat + 255) / 256 - 1
      (reach last (modCore (d.core r) (fun c => { c.modBasin d.basin (Basin.claim 2) with fabricOut := last + 1 }) s1)).map
        (settleCore (d.core r)) = some s2 →
      Completes (.rillOutReadout r slot block blocks .none) s (fun t =>
        let k := s2.cores[d.core r]
        let o : ReadOut := ReadOut.mk block.toNat s1.clk.raw (k.bytes (k.basin d.basin) (d.winStart + 64 * block.toNat) (64 * blocks.toNat))
        let n := 64 * (runOver ((modDesc r d.job d.slot (fun y => { y.mark block.toNat blocks.toNat with outs := y.outs ++ [o] })
          s2).windows (d.core r) d.basin 2)).1
        (∀ y ∈ (t.rills[r]).descs, y.names d.job d.slot = true → y.outs.getLast? = some o ∧
          ∀ i, block.toNat ≤ i → i < block.toNat + blocks.toNat → i < y.blocks → y.done[i]? = some true) ∧
        (t.rills[r]).bytes = (s2.rills[r]).bytes + BitVec.ofNat 64 (64 * blocks.toNat) ∧
        (t.cores[d.core r]).pad = k.pad ∧ ((t.cores[d.core r]).basin d.basin).tail = (k.basin d.basin).tail ∧
        ((k.basin d.basin).hold = true ∨ n = 0 → ((t.cores[d.core r]).basin d.basin).head = (k.basin d.basin).head) ∧
        ((k.basin d.basin).hold = false → n ≠ 0 →
          ((t.cores[d.core r]).basin d.basin).head = ((k.basin d.basin).head + n) % (k.basin d.basin).size) ∧
        (∀ x, x ≠ d.core r → t.cores[x] = s2.cores[x]) ∧ t.mem = s2.mem ∧ t.jobs = s2.jobs ∧ t.clk = s2.clk)) ∧
    (∀ (r : Fin 32) d j, (s.rills[r]).posting = some d → s.job d.job = some j →
      (s.rills[r]).posted.length + inCycle s.grid (s.rills[r]).grants < 16 → Completes (.arbRequest (.rill r)) s (fun t =>
        (t.rills[r]).posted = (s.rills[r]).posted ++ [{
          job := d.job, slot := d.slot, block := d.posted, blocks := min (lineLeft (d.addr + 64 * d.posted)) (d.blocks - d.posted),
          addr := d.addr + 64 * d.posted, chan := Fin.ofNat 128 (chanOf (d.addr + 64 * d.posted)), write := d.op == 2,
          due := d.need j, posted := s.grid }] ∧
        t = { s with rills := t.rills } ∧ ∀ x, x ≠ r → t.rills[x] = s.rills[x])) ∧
    (∀ (n : Fin 24) w, (s.sens.ctxs[n]).nextPost = some w → Completes (.arbRequest (.stream n)) s (fun t =>
      t = { s with sens := { s.sens with ctxs := t.sens.ctxs } } ∧ (∀ x, x ≠ n → t.sens.ctxs[x] = s.sens.ctxs[x]) ∧
      (t.sens.ctxs[n]).writes = (s.sens.ctxs[n]).writes.map fun x => if x = w then
        { x with posted := some (s.grid + (32768 - (s.sens.ctxs[n]).fill) * 1000 / (s.sens.ctxs[n]).rate.toNat, s.grid) } else x)) ∧
    (∀ e, Completes (.arbRequest (.radio e)) s (fun t => t = s))

namespace Sys2Proof.Machine

/-- Entry e of class op, of job j in slot k and its period per, issues on channel ch in s1 (R52, R56, R205): it is the entry of its
job's timetable that comes next, in its stated cycle plus slip, its memory-PHY group on and its fields as admission checks them; it
waits for no other job's entry, and what it needs is free. -/
def ChanIssues (ch : Fin 128) (op : Nat) (e : Entry) (k : Fin 12) (j : Job) (per : Nat) (s s1 : State) : Prop :=
  statedFirst ((s.chanHeads ch).filter fun x => x.2.2.1 == op && x.2.2.2.1 == e) = some (k, j, op, e, per) ∧
  (reachGrid (chanStated j (op, e, per) + (s.chans[ch]).slip) s).map (serveSlot ch) = some s1 ∧ s1.job k = some j ∧ s1.phyOn ch = true ∧
  chanFormOk ch.1 op e = true ∧ s1.chanWaits ch k (chanStated j (op, e, per)) = false ∧ s1.chanReady ch k j per op e = true

/-- An access that starts on channel ch in the present cycle with its data and the mark that it reaches no address. -/
def Flight.startedAt (s : State) (ch : Fin 128) (data : List Byte) (zero : Bool) (f : Flight) : Flight :=
  { f with issued := s.clk.raw, ends := (s.chans[ch]).endOf s.clk.raw f, data := data, zero := zero }

/-- What an access of channel ch leaves: everything but the channels, of these every other one and every tag but i. -/
def ChanFrame (ch : Fin 128) (i : Fin 64) (s1 t : State) : Prop :=
  t = { s1 with chans := t.chans } ∧ (∀ x, x ≠ ch → t.chans[x] = s1.chans[x]) ∧
  ∀ x, x ≠ i → (t.chans[ch]).slots[x] = (s1.chans[ch]).slots[x]

/-- Nothing goes before a dated request on a channel (R232): it is on and free, no retry is due, no fetch can be granted. -/
def ChanFree (ch : Fin 128) (s : State) : Prop :=
  s.phyOn ch = true ∧ s.busReady ch = true ∧ (s.toRetry ch).filter (fun f => !f.timed) = none ∧
  earliest ((s.fetchesAt ch).filter fun x => decide (x.2.1.posted < s.grid) && s.eligible ch none x.2.2.2) = none

end Sys2Proof.Machine

/-- With DRAM in canonical form, of a channel entry that may issue: it counts as issued of its job's timetable; CH_READ takes the
lowest free tag, its bank and the data bus for its blocks, with the bytes that its address reaches for its job's period, zeros where
it reaches none; CH_WRITE puts the bytes of its read-out into DRAM at the address it reaches, leaves every other byte, and has that
much less to write; where it reaches none DRAM stays. CH_REFRESH counts one refresh and keeps its bank for 140 cycles. CH_RETRY with
no failed read keeps the bus for 160 cycles; with one that fits it issues that again with a new tag, for the bytes first asked for,
and counts a retry. ARBITER_GRANT grants a timetable fetch before any dated request, and of those the one of earliest DUE that may
go: a stream's piece is written to DRAM and nowhere else, or nowhere when its frame is discarded; a rill's read takes bus and tag,
and the request is gone. Every other channel stays. -/
def Obligations.ChannelEntriesAndGrants : Prop :=
  ∀ (ch : Fin 128) (e : Entry) (k : Fin 12) (j : Job) (per : Nat) (i : Fin 64) (s s1 : State), (s1.chans[ch]).tag s1.clk.raw = some i →
    let f := chanFields e
    (ChanIssues ch 1 e k j per s s1 → Completes (.chRead ch e) s (fun t =>
      let x := Flight.startedAt s1 ch (s1.readPlace j per f.addr (64 * f.blocks)) (s1.place j per f.addr).isNone
        { accessOf e k j per false with slipless := (s1.chans[ch]).slip == 0 }
      ChanFrame ch i s1 t ∧ (t.chans[ch]).busFree = max (s1.chans[ch]).busFree (s1.clk.raw + busCycles f.blocks) ∧
      (t.chans[ch]).slots[i] = some x ∧ ((t.chans[ch]).banks[bankOf f.addr]).busyTo = x.ends ∧
      (t.chans[ch]).issuedBy j.id = (s1.chans[ch]).issuedBy j.id + 1)) ∧
    (∀ o, ChanIssues ch 2 e k j per s s1 → s1.outFor (accessOf e k j per true) = some o →
      Memory.wf 0 s1.mem.dram = true → Completes (.chWrite ch e) s (fun t =>
        (s1.place j per f.addr = none → t.mem = s1.mem) ∧
        (∀ a, s1.place j per f.addr = some a → t.mem = { s1.mem with dram := t.mem.dram } ∧
          Cells.gets 0 t.mem.dram a o.bytes.length = o.bytes ∧
          ∀ x, (x < a ∨ a + o.bytes.length ≤ x) → Cells.get 0 t.mem.dram x = Cells.get 0 s1.mem.dram x) ∧
        (∀ y ∈ (s1.rills[(accessOf e k j per true).rill]).descs, y.names k f.slot = true →
          { y with outs := y.outs.erase o, written := y.written + f.blocks,
                   ends := max y.ends ((s1.chans[ch]).endOf s1.clk.raw (accessOf e k j per true)) } ∈
            (t.rills[(accessOf e k j per true).rill]).descs) ∧
        (t.chans[ch]).busFree = max (s1.chans[ch]).busFree (s1.clk.raw + busCycles f.blocks) ∧
        (t.chans[ch]).issuedBy j.id = (s1.chans[ch]).issuedBy j.id + 1 ∧
        (∀ x, x ≠ ch → t.chans[x] = s1.chans[x]) ∧ t.cores = s1.cores ∧ t.jobs = s1.jobs ∧ t.clk = s1.clk)) ∧
    (ChanIssues ch 3 e k j per s s1 → Completes (.chRefresh ch e) s (fun t =>
      let b : Fin 16 := Fin.ofNat 16 (bits (wordAt e.words 0) 3 0)
      (t.chans[ch]).refCnt = (s1.chans[ch]).refCnt + 1 ∧ (t.chans[ch]).slots = (s1.chans[ch]).slots ∧
      ((t.chans[ch]).banks[b]).busyTo = max s1.clk.raw ((s1.chans[ch]).banks[b]).busyTo + 140 ∧
      (∀ x, x ≠ b → (t.chans[ch]).banks[x] = (s1.chans[ch]).banks[x]) ∧
      t = { s1 with chans := t.chans } ∧ ∀ x, x ≠ ch → t.chans[x] = s1.chans[x])) ∧
    (ChanIssues ch 4 e k j per s s1 →
      ((s1.chans[ch]).failed = [] → Completes (.chRetry ch e) s (fun t =>
        (t.chans[ch]).busFree = s1.clk.raw + 160 ∧ (t.chans[ch]).slots = (s1.chans[ch]).slots ∧
        t = { s1 with chans := t.chans } ∧ ∀ x, x ≠ ch → t.chans[x] = s1.chans[x])) ∧
      (∀ g, (s1.chans[ch]).failed.find? (fun f => f.timed && f.job == k && s1.stands f && decide (f.failedAt < s1.clk.raw)) = some g →
        busCycles g.blocks ≤ 160 → Completes (.chRetry ch e) s (fun t =>
          (t.chans[ch]).failed = (s1.chans[ch]).failed.erase g ∧ (t.chans[ch]).retryCnt = satInc (s1.chans[ch]).retryCnt ∧
          (t.chans[ch]).busFree = s1.clk.raw + 160 ∧ (t.chans[ch]).slots[i] = some (Flight.startedAt s1 ch g.data g.zero
            { g with retried := true, checked := false, arrived := false }) ∧
          t = { s1 with chans := t.chans } ∧ ∀ y, y ≠ ch → t.chans[y] = s1.chans[y]))) ∧
    (s1.phyOn ch = true → s1.busReady ch = true → (s1.toRetry ch).filter (fun f => !f.timed) = none →
      ∀ x, earliest ((s1.fetchesAt ch).filter fun x => decide (x.2.1.posted < s1.grid) && s1.eligible ch none x.2.2.2) = some x →
        Completes (.arbiterGrant ch) s1 (fun t => ∃ y : Flight, (t.chans[ch]).slots[i] = some y ∧ y.kind = .fetch x.2.1.kind ∧
          y.addr = x.2.2.1 ∧ y.blocks = x.2.2.2 ∧ y.write = false ∧ y.data = s1.dramBytes x.2.2.1 (64 * x.2.2.2) ∧
          t = { s1 with chans := t.chans, mem := { s1.mem with fetches := t.mem.fetches } } ∧
          (∀ z ∈ s1.mem.fetches, z.kind = x.2.1.kind → z.jid = x.2.1.jid → { z with lines := z.lines.erase x.2.2 } ∈ t.mem.fetches) ∧
          ∀ z, z ≠ ch → t.chans[z] = s1.chans[z])) ∧
    (ChanFree ch s1 →
      (∀ due n w, earliest ((s1.datedAt ch).filter fun x => s1.mayGrant ch x.2) = some (due, .stream n w) →
        Memory.wf 0 s1.mem.dram = true → Completes (.arbiterGrant ch) s1 (fun t =>
          (w.void = false → Cells.gets 0 t.mem.dram w.addr w.bytes.length = w.bytes ∧
            ∀ x, (x < w.addr ∨ w.addr + w.bytes.length ≤ x) → Cells.get 0 t.mem.dram x = Cells.get 0 s1.mem.dram x) ∧
          (w.void = true → t.mem = s1.mem) ∧
          (t.sens.ctxs[n]).writes = (s1.sens.ctxs[n]).writes.erase w ∧ (∀ x, x ≠ n → t.sens.ctxs[x] = s1.sens.ctxs[x]) ∧
          (∀ x, x ≠ ch → t.chans[x] = s1.chans[x]) ∧ t.cores = s1.cores ∧ t.rills = s1.rills ∧ t.jobs = s1.jobs ∧ t.clk = s1.clk)) ∧
      (∀ due r q y h, earliest ((s1.datedAt ch).filter fun x => s1.mayGrant ch x.2) = some (due, .rill r q) → q.write = false →
        requestFlight s1 r q = some y → s1.job q.job = some h → Completes (.arbiterGrant ch) s1 (fun t =>
          (t.rills[r]).posted = (s1.rills[r]).posted.erase q ∧ (∀ x, x ≠ r → t.rills[x] = s1.rills[x]) ∧
          (t.chans[ch]).slots[i] = some (Flight.startedAt s1 ch (s1.readPlace h y.period q.addr (64 * q.blocks))
            (s1.place h y.period q.addr).isNone y) ∧
          t = { s1 with chans := t.chans, rills := t.rills } ∧ ∀ x, x ≠ ch → t.chans[x] = s1.chans[x])))

/-- The check of a read of a standing job, each of whose blocks has at most one wrong symbol, delivers its data unchanged and counts
one if a symbol was corrected; with a block of two or three wrong symbols, a first read fails, its tag is free and it waits for its
retry, and a read already retried delivers the bytes as they stand, reports fault 6 and makes its period UNPROVEN. What four or more
wrong symbols of a block do, the code decides: a check that finds no block uncorrectable delivers what it corrects. The check ends 15
cycles after the last burst or later (the model's reading, log entry 43). CONTROLLER_RETRY issues the failed read that may go again
first, counted. CONTROLLER_REFRESH, its bank and the command bus free, refreshes the next bank slot of the lot, 4 cycles after the
one before and up to cycle 859. PATROL_SCRUB of a line without errors, the first of its lot, with nothing else waiting, moves on by
one line, keeps the bus for 240 cycles and a tag, and leaves DRAM. -/
def Obligations.EccRetriesRefreshAndScrub : Prop :=
  ∀ (ch : Fin 128) (s : State),
    (∀ (i : Fin 64) f errs s1, (s.chans[ch]).slots[i] = some f → f.write = false → f.own = false → f.checked = false →
      f.zero = false → f.data.length = 64 * f.blocks → (s.chans[ch]).retrySlot = none → reach (f.ends + 15) s = some s1 →
      (s1.chans[ch]).retrySlot = none →
      let found := (List.range f.blocks).map (eccOf (lineNo (s1.flightAt f)) f.data errs)
      (found.any (· == .bad) = false → Completes (.eccCheckDone ch i errs) s (fun t =>
        (t.chans[ch]).slots[i] = some { f with checked := true, data := delivered found errs f.data } ∧
        (t.chans[ch]).ceCnt = (if found.any BlockEcc.corrects then satInc (s1.chans[ch]).ceCnt else (s1.chans[ch]).ceCnt) ∧
        (∀ x, x ≠ i → (t.chans[ch]).slots[x] = (s1.chans[ch]).slots[x]) ∧ (∀ x, x ≠ ch → t.chans[x] = s1.chans[x]) ∧
        t = { s1 with chans := t.chans })) ∧
      ((∀ b, (blockErrs errs b).length ≤ 1) → found.any (· == .bad) = false ∧ delivered found errs f.data = f.data ∧
        (found.any BlockEcc.corrects = true ↔ ∃ b, b < f.blocks ∧ (blockErrs errs b).length = 1)) ∧
      (∀ b, b < f.blocks → 2 ≤ (blockErrs errs b).length → (blockErrs errs b).length ≤ 3 → found.any (· == .bad) = true) ∧
      (found.any (· == .bad) = true →
        (f.retried = false → Completes (.eccCheckDone ch i errs) s (fun t =>
          (t.chans[ch]).slots[i] = none ∧ (t.chans[ch]).failed = (s1.chans[ch]).failed ++ [{ f with failedAt := s1.clk.raw }] ∧
          (∀ x, x ≠ ch → t.chans[x] = s1.chans[x]) ∧ t = { s1 with chans := t.chans })) ∧
        (f.retried = true → f.kind = .rill → ∀ j, s1.job f.job = some j → j.id = f.jid → Completes (.eccCheckDone ch i errs) s (fun t =>
          (t.chans[ch]).slots[i] = some { f with checked := true, data := flipped errs f.data } ∧
          (t.chans[ch]).failCnt = satInc (s1.chans[ch]).failCnt ∧ t.mem.secondFail = satInc s1.mem.secondFail ∧ t.mem.dram = s1.mem.dram ∧
          t.safe.lastFault = 6 ∧ t.safe.faults.getLsbD 6 = true ∧ t.clk = s1.clk ∧
          t.job f.job = some (j.modPeriod f.period fun p => { p with unproven := true }))))) ∧
    (∀ f (i : Fin 64), s.phyOn ch = true → s.busReady ch = true → s.toRetry ch = some f → (s.chans[ch]).tag s.clk.raw = some i →
      Completes (.controllerRetry ch) s (fun t =>
        ChanFrame ch i s t ∧ (t.chans[ch]).failed = (s.chans[ch]).failed.erase f ∧
        (t.chans[ch]).retryCnt = satInc (s.chans[ch]).retryCnt ∧
        (t.chans[ch]).slots[i] = some (Flight.startedAt s ch f.data f.zero
          { f with retried := true, checked := false, arrived := false }))) ∧
    (∀ m, s.phyOn ch = true → s.parked = false → s.clk.running = true → s.ownRefresh ch = some m →
      let n := s.clk.cyc / 1000
      let lot := s.clk.beat * 250 + n + 1
      let k := if (s.chans[ch]).refLot = lot then (s.chans[ch]).refK else 0
      let b : Fin 16 := Fin.ofNat 16 (refreshSlot m n k)
      (5 * m ≤ k ∨ 1000 * n + 859 < s.clk.cyc → Completes (.controllerRefresh ch) s (fun t => t = s)) ∧
      (k < 5 * m → (s.chans[ch]).cmdFree ≤ s.clk.raw → ((s.chans[ch]).banks[b]).busyTo ≤ s.clk.raw →
        (k = 0 ∨ (s.chans[ch]).refAt + 4 ≤ s.clk.raw) → s.clk.cyc ≤ 1000 * n + 859 → Completes (.controllerRefresh ch) s (fun t =>
          t.chans[ch] = { s.chans[ch] with
            refLot := lot, refK := k + 1, refAt := s.clk.raw, refCnt := (s.chans[ch]).refCnt + 1, cmdFree := s.clk.raw + 1,
            banks := setV (s.chans[ch]).banks b { busyTo := s.clk.raw + 140, ctl := true } } ∧
          t = { s with chans := t.chans } ∧ ∀ x, x ≠ ch → t.chans[x] = s.chans[x]))) ∧
    (∀ i : Fin 64, s.phyOn ch = true → s.parked = false → s.busReady ch = true → s.lotNow ch = none → s.eligible ch none 15 = true →
      s.waitsAt ch = false → s.lotScrubbed ch = false → (s.det.strict = false ∨ s.windowJob s.clk.beat = none) →
      (s.chans[ch]).tag s.clk.raw = some i → Completes (.patrolScrub ch []) s (fun t =>
        (t.chans[ch]).scrub = (s.chans[ch]).scrub + 1 ∧ (t.chans[ch]).busFree = s.clk.raw + 240 ∧
        (t.chans[ch]).ceCnt = (s.chans[ch]).ceCnt ∧ (∃ y : Flight, (t.chans[ch]).slots[i] = some y ∧ y.own = true) ∧ ChanFrame ch i s t))

/-- With DRAM and the model store in canonical form, of a record that is being written: ARBITER_GRANT, while nothing else waits at a
channel that untimed accesses may use, writes the next part of the record that lies in a line of it: the blocks of the model store,
or zeros; it leaves every other byte, and the bytes loaded count. LOAD_RECORD_DONE, once every byte of the record is written, enters
an IMAGE into the extent table with its SHA3-256 digest, and changes no DRAM; before that it does nothing. With records left the load
goes on; with the last one its state is 2, DONE. UFS_ERROR of an image record ends the load with state 3, cause 3 and the record's
number; DRAM, the extent table and the jobs stay. -/
def Obligations.LoadsWriteTheirRecords : Prop :=
  ∀ (n : Fin 512) (r : LoadRec) (s : State), s.mem.loadList[n.1]? = some r → s.mem.writing n.1 = true → Memory.wf 0 s.mem.dram = true →
    (∀ d : Fin 2, Memory.wf 0 (s.mem.store[d]) = true) →
    (∀ (ch : Fin 128) a len, ChanFree ch s → s.datedAt ch = [] → s.eligible ch none 15 = true →
      (s.det.strict = false ∨ s.windowJob s.clk.beat = none) → s.loadAt ch = some (n.1, a, len) → Completes (.arbiterGrant ch) s (fun t =>
        (∀ i, i < len → Cells.get 0 t.mem.dram (a + i) =
          if r.image then Cells.get 0 (s.mem.store[if r.device then (1 : Fin 2) else 0]) (r.lba * 4096 + (a - r.base) + i) else 0) ∧
        (∀ x, (x < a ∨ a + len ≤ x) → Cells.get 0 t.mem.dram x = Cells.get 0 s.mem.dram x) ∧
        t = { s with chans := t.chans
                     mem := { s.mem with dram := t.mem.dram, loadBytes := s.mem.loadBytes + BitVec.ofNat 64 len
                                         loadLeft := s.mem.loadLeft.set n.1 (s.mem.loadLeft.getD n.1 0 - len) } } ∧
        (∀ x, x ≠ ch → t.chans[x] = s.chans[x]) ∧ (t.chans[ch]).loadedLines n.1 = (s.chans[ch]).loadedLines n.1 + 1)) ∧
    (s.mem.loadLeft.getD n.1 1 ≠ 0 → Completes (.loadRecordDone n) s (fun t => t = s)) ∧
    (s.mem.loadLeft.getD n.1 1 = 0 → Completes (.loadRecordDone n) s (fun t =>
      t.mem.dram = s.mem.dram ∧ t.mem.loadDone = s.mem.loadDone.set n.1 true ∧ t.mem.loadBytes = s.mem.loadBytes ∧
      (r.image = false → t.mem.extents = s.mem.extents) ∧
      (r.image = true → t.mem.extents = s.mem.extents ++
        [{ base := r.base, len := r.len, digest := sha3 (Cells.gets 0 s.mem.dram r.base r.len) }]) ∧
      ((s.mem.loadDone.set n.1 true).all (fun d => d) = true → t.mem.loadState = 2 ∧ t.mem.loadActive = false) ∧
      ((s.mem.loadDone.set n.1 true).all (fun d => d) = false → t.mem.loadState = s.mem.loadState ∧ t = { s with mem := t.mem }) ∧
      t.mem.store = s.mem.store ∧ t.jobs = s.jobs ∧ t.cores = s.cores ∧ t.clk = s.clk)) ∧
    (r.image = true → Completes (.ufsError n) s (fun t =>
      t.mem.loadState = 3 ∧ t.mem.loadCause = 3 ∧ t.mem.loadRecord = BitVec.ofNat 10 n.1 ∧ t.mem.loadActive = false ∧
      t.mem.dram = s.mem.dram ∧ t.mem.extents = s.mem.extents ∧ t.mem.store = s.mem.store ∧ t.jobs = s.jobs ∧ t.cores = s.cores ∧
      t.clk = s.clk))

namespace Sys2Proof.Machine

/-- Context n is enabled for receiver rx and virtual channel vc (R303), the receiver powered and on and the channel one of four. -/
def CsiTakes (rx : Fin 8) (vc : BitVec 5) (n : Fin 24) (s : State) : Prop :=
  s.hubOn 2 = true ∧ (s.sens.csis[rx]).lanes ≠ 3 ∧ vc.toNat ≤ 3 ∧ (s.sens.ctxs[n]).enable = true ∧ (s.sens.ctxs[n]).ether = false ∧
  (s.sens.ctxs[n]).receiver = rx ∧ (s.sens.ctxs[n]).vc.toNat = vc.toNat

/-- A unit of bytes still fits a frame with so many units (R310, R311). -/
def SnsCtx.Fits (c : SnsCtx) (units : Nat) (bs : List Byte) : Prop :=
  units < c.maxLines.toNat ∧ bs.length ≤ c.lineBytes ∧ c.fill + bs.length ≤ 32768

end Sys2Proof.Machine

/-- With a clean or corrected header, for every context of the receiver and virtual channel: FRAME_START begins a frame with its
number; LONG_PACKET adds one unit, stamped, to the frame that runs, of which the first unit of a frame takes the slot and the next
value of the sequence counter; one with a payload error discards the frame with CRC, one of another data type is counted as such;
FRAME_END ends it, and its stamp table follows its units. An Ethernet frame with a
bad check sequence or length is counted; one that an Ethernet context takes adds a unit, and the last of its PKTS ends the frame.
FRAME_DIGEST_DONE flags the oldest unchecked frame, whose header then waits to be written behind the rest, and counts the run of
STILL frames; the LIMIT-th reports fault 9. With every write of the frame done, FRAME_COMPLETE makes it the newest complete frame,
to be seen at the next boundary, or at the one after it where it lands in the last cycle of a beat. FRAME_TIMEOUT counts a missed
frame in its cycle. BLOCK_LOCK_CHANGE shows the lock. A port without power takes nothing. Other contexts stay. -/
def Obligations.SensorFrames : Prop :=
  ∀ s : State,
    (∀ rx vc fn ecc, ecc ≠ .bad → Completes (.frameStart rx vc fn ecc) s (fun t =>
      (∀ n, CsiTakes rx vc n s → (t.sens.ctxs[n]).frame = some { fn := fn, tstate := s.time.state } ∧
        (t.sens.ctxs[n]).counter = (s.sens.ctxs[n]).counter ∧
        ((s.sens.ctxs[n]).frame ≠ none → (t.sens.ctxs[n]).discarded = satInc (s.sens.ctxs[n]).discarded)) ∧
      (∀ n, ¬CsiTakes rx vc n s → t.sens.ctxs[n] = s.sens.ctxs[n]) ∧ t.mem = s.mem ∧ t.clk = s.clk)) ∧
    (∀ rx vc dt ecc bs, ecc ≠ .bad → supportedDt dt = true →
      Completes (.longPacket rx vc dt ecc true bs) s (fun t =>
        (∀ n f, CsiTakes rx vc n s → (s.sens.ctxs[n]).dt = dt → (s.sens.ctxs[n]).frame = some f → (s.sens.ctxs[n]).Fits f.stamps.length bs →
          (f.begun = true → (t.sens.ctxs[n]).frame = some { f with stamps := f.stamps ++ [s.now], payload := f.payload ++ bs } ∧
            (t.sens.ctxs[n]).counter = (s.sens.ctxs[n]).counter) ∧
          (∀ k, f.begun = false → (s.sens.ctxs[n]).freeSlot (boundSlots n s) = some k →
            let c : Word := if (s.sens.ctxs[n]).counter = 0xFFFFFFFF then 1 else (s.sens.ctxs[n]).counter + 1
            (t.sens.ctxs[n]).counter = c ∧ (t.sens.ctxs[n]).frame = some { f with
              begun := true, slot := k, seq := c, tStart := s.now, stamps := f.stamps ++ [s.now], payload := f.payload ++ bs })) ∧
        (∀ n, ¬(CsiTakes rx vc n s ∧ (s.sens.ctxs[n]).dt = dt) → t.sens.ctxs[n] = s.sens.ctxs[n]) ∧ t.mem = s.mem ∧ t.clk = s.clk)) ∧
    (∀ rx vc dt bs, supportedDt dt = true → Completes (.longPacket rx vc dt .clean false bs) s (fun t =>
      ∀ n f, CsiTakes rx vc n s → (s.sens.ctxs[n]).dt = dt → (s.sens.ctxs[n]).frame = some f → f.begun = true →
        (t.sens.ctxs[n]).frame = none ∧ (t.sens.ctxs[n]).status.getLsbD 3 = true ∧
        (t.sens.csis[rx]).crcErr = satInc (s.sens.csis[rx]).crcErr)) ∧
    (∀ rx vc dt ok bs, supportedDt dt = false → s.hubOn 2 = true → (s.sens.csis[rx]).lanes ≠ 3 → vc.toNat ≤ 3 →
      Completes (.longPacket rx vc dt .clean ok bs) s (fun t =>
        t.sens.csis[rx] = { s.sens.csis[rx] with other := (s.sens.csis[rx]).other + 1 } ∧
        (∀ n, CsiTakes rx vc n s → t.sens.ctxs[n] = { s.sens.ctxs[n] with status := (s.sens.ctxs[n]).status ||| 4 }) ∧
        (∀ n, ¬CsiTakes rx vc n s → t.sens.ctxs[n] = s.sens.ctxs[n]) ∧ t.mem = s.mem ∧ t.clk = s.clk)) ∧
    (∀ rx vc ecc, ecc ≠ .bad → Completes (.frameEnd rx vc ecc) s (fun t =>
      (∀ n f, CsiTakes rx vc n s → (s.sens.ctxs[n]).frame = some f → f.begun = true →
        (t.sens.ctxs[n]).frame = none ∧ (t.sens.ctxs[n]).ending = (s.sens.ctxs[n]).ending ++ [{ f with tEnd := s.now }] ∧
        (t.sens.ctxs[n]).timer = s.clk.raw ∧
        ∃ ws, (t.sens.ctxs[n]).writes = (s.sens.ctxs[n]).writes ++ ws ∧ ws.flatMap (·.bytes) = f.stamps.flatMap (fun x => natLE 8 x.toNat)) ∧
      (∀ n, ¬CsiTakes rx vc n s → t.sens.ctxs[n] = s.sens.ctxs[n]) ∧ t.mem = s.mem ∧ t.clk = s.clk)) ∧
    (∀ p, s.portOn p = false → (∀ ok bs, Completes (.ethernetFrame p ok bs) s (fun t => t = s)) ∧
      ∀ l, Completes (.blockLockChange p l) s (fun t => t = s)) ∧
    (∀ p ok bs, s.portOn p = true → (ok = false ∨ bs.length + 4 < 64 ∨ 9022 < bs.length + 4) → Completes (.ethernetFrame p ok bs) s (fun t =>
      (t.sens.ports[p]).bad = satInc (s.sens.ports[p]).bad ∧ t.sens.ctxs = s.sens.ctxs ∧ t.mem = s.mem)) ∧
    (∀ p bs q (n : Fin 24) f, s.portOn p = true → 64 ≤ bs.length + 4 → bs.length + 4 ≤ 9022 → ¬(be bs 0 6 = 0x0180C200000E ∧ be bs 12 2 = 0x88F7) →
      s.sens.filts.toList.find? (Filter.matches_ p bs) = some q → q.ctx.toNat = n.1 → (s.sens.ctxs[n]).enable = true →
      (s.sens.ctxs[n]).ether = true → (s.sens.ctxs[n]).frame = some f → f.begun = true → (s.sens.ctxs[n]).Fits f.stamps.length bs →
      Completes (.ethernetFrame p true bs) s (fun t =>
        let f' : Frame1 := { f with
          stamps := f.stamps ++ [s.now - (s.sens.ports[p]).rxNs.setWidth 64], payload := f.payload ++ bs }
        (t.sens.ports[p]).accepted = (s.sens.ports[p]).accepted + 1 ∧ (∀ x, x ≠ n → t.sens.ctxs[x] = s.sens.ctxs[x]) ∧ t.mem = s.mem ∧
        ((s.sens.ctxs[n]).taken + 1 < pktsOf n s → (t.sens.ctxs[n]).frame = some f' ∧ (t.sens.ctxs[n]).taken = (s.sens.ctxs[n]).taken + 1) ∧
        (pktsOf n s ≤ (s.sens.ctxs[n]).taken + 1 → (t.sens.ctxs[n]).frame = none ∧ (t.sens.ctxs[n]).taken = 0 ∧
          ∃ e, (t.sens.ctxs[n]).ending = (s.sens.ctxs[n]).ending ++ [{ f' with tEnd := e }]))) ∧
    (∀ (n : Fin 24) f, (s.sens.ctxs[n]).ending.find? (!·.checked) = some f → Completes (.frameDigestDone n) s (fun t =>
      let c := s.sens.ctxs[n]
      let rep := decide (1 ≤ c.hist.toNat ∧ sha3 f.payload ∈ c.history.take c.hist.toNat)
      let stale := decide (c.cntCheck = true ∧ c.ether = false ∧ f.fn ≠ 0 ∧ f.fn = c.lastFn)
      let flags : BitVec 3 := BitVec.ofNat 3 (pack [(b2n (rep || stale), 0), (b2n rep, 1), (b2n stale, 2)])
      (t.sens.ctxs[n]).ending = markChecked flags c.ending ∧
      (∃ h : Frame1, h = { f with checked := true, flags := flags } ∧ (h.header (sha3 f.payload)).length = 64 ∧
        (t.sens.ctxs[n]).writes = c.writes ++ [{ seq := f.seq, addr := c.slotAt f.slot, bytes := h.header (sha3 f.payload), held := 0, last := true }]) ∧
      (t.sens.ctxs[n]).run = (if rep || stale then satInc c.run else 0) ∧ (∀ x, x ≠ n → t.sens.ctxs[x] = s.sens.ctxs[x]) ∧
      ((rep || stale) = true → 1 ≤ c.hist.toNat → c.run ≠ c.limit → satInc c.run = c.limit → t.safe.lastFault = 9 ∧ t.safe.faults.getLsbD 9 = true) ∧
      ((rep || stale) = false → t.safe = s.safe) ∧ t.mem = s.mem ∧ t.clk = s.clk)) ∧
    (∀ (n : Fin 24) f rest, (s.sens.ctxs[n]).ending = f :: rest → f.checked = true →
      (∀ w ∈ (s.sens.ctxs[n]).writes, w.seq = f.seq → w.void = true) → Completes (.frameComplete n) s (fun t =>
        (t.sens.ctxs[n]).ending = rest ∧ (∃ i : FrameInfo, i.slot = f.slot ∧ i.seq = f.seq ∧ i.fn = f.fn ∧ i.digest = sha3 f.payload ∧
          i.flags = f.flags ∧ (s.clk.cyc ≠ 249999 → (t.sens.ctxs[n]).landed = some i ∧ (t.sens.ctxs[n]).edge = (s.sens.ctxs[n]).edge) ∧
          (s.clk.cyc = 249999 → (t.sens.ctxs[n]).edge = some i ∧ (t.sens.ctxs[n]).landed = (s.sens.ctxs[n]).landed)) ∧
        (t.sens.ctxs[n]).current = (s.sens.ctxs[n]).current ∧ ∃ c, t = { s with sens := { s.sens with ctxs := setV s.sens.ctxs n c } })) ∧
    (∀ (n : Fin 24) s1, (s.sens.ctxs[n]).enable = true →
      reach ((s.sens.ctxs[n]).timer + 100000 * (s.sens.ctxs[n]).tmo.toNat) s = some s1 → Completes (.frameTimeout n) s (fun t =>
        (t.sens.ctxs[n]).missed = satInc (s1.sens.ctxs[n]).missed ∧ (t.sens.ctxs[n]).status.getLsbD 4 = true ∧
        (t.sens.ctxs[n]).frame = none ∧ (t.sens.ctxs[n]).timer = s1.clk.raw ∧ (∀ x, x ≠ n → t.sens.ctxs[x] = s1.sens.ctxs[x]) ∧
        t.mem = s1.mem ∧ t.clk = s1.clk)) ∧
    (∀ p l, s.portOn p = true → Completes (.blockLockChange p l) s (fun t =>
      t = { s with sens := { s.sens with ports := t.sens.ports } } ∧ (∀ q, q ≠ p → t.sens.ports[q] = s.sens.ports[q]) ∧
      t.sens.ports[p] = { s.sens.ports[p] with link := l }))

/-- On a port that carries 802.1AS, for domain 0: PDELAY_REQ is answered, PDELAY_RESP and PDELAY_RESP_FOLLOW_UP of the exchange
that runs complete it, and the port is asCapable below 800 ns; ANNOUNCE notes the port's master, its receipt timeout forgets it. A
one-step SYNC of a legal interval on the slave port: in FREE it counts, and the sixteenth in a row, after four exchanges, steps
the time to the master's and LOCKS; in LOCKED an error above 1 ms is FAULT, reported as fault 10, a smaller
one only moves the rate; in HOLDOVER a small error of the same grandmaster LOCKS, any other is FAULT; FOLLOW_UP feeds a two-step
one in the same way. A SYNC of another interval bars its port. The receipt timeout of SYNC takes LOCKED to HOLDOVER. SIGNALING
changes nothing. A message of another domain, or on a port that carries none, changes nothing. The rate the servo chooses is free
within 250 ppm (log entry 44). -/
def Obligations.TimeSynchronisation : Prop :=
  ∀ (s : State) (p : Fin 4),
    (∀ d : Nat, d ≠ 0 ∨ s.asPort p = false →
      (∀ m : SyncMsg, m.domain = d → Completes (.sync p m) s (fun t => t = s) ∧ Completes (.followUp p m) s (fun t => t = s)) ∧
      (∀ m : AnnounceMsg, m.domain = d → Completes (.announce p m) s (fun t => t = s)) ∧ Completes (.pdelayReq p d) s (fun t => t = s) ∧
      ∀ q x, Completes (.pdelayResp p d q) s (fun t => t = s) ∧ Completes (.pdelayRespFollowUp p d q x) s (fun t => t = s)) ∧
    (∀ d, Completes (.signaling p d) s (fun t => t = s)) ∧
    (s.asPort p = true →
      Completes (.pdelayReq p 0) s (fun t => (t.sens.ports[p]).sentResp = (s.sens.ports[p]).sentResp + 1 ∧ t.time = s.time) ∧
      Completes .pdelayReqTimer s (fun t => (t.sens.ports[p]).pdelaySeq = (s.sens.ports[p]).pdelaySeq + 1 ∧
        (t.sens.ports[p]).pdelayWait = 1 ∧ t.time = s.time) ∧
      ((s.sens.ports[p]).pdelayWait = 1 → Completes (.pdelayResp p 0 (s.sens.ports[p]).pdelaySeq) s (fun t =>
        (t.sens.ports[p]).pdelayWait = 2 ∧ t.time = s.time)) ∧
      ((s.sens.ports[p]).pdelayWait = 2 → ∀ x : Int, Completes (.pdelayRespFollowUp p 0 (s.sens.ports[p]).pdelaySeq x) s (fun t =>
        (t.sens.ports[p]).exchanges = (s.sens.ports[p]).exchanges + 1 ∧ (t.sens.ports[p]).asCapable = decide (x < 800) ∧
        (t.sens.ports[p]).pdelayWait = 0 ∧ t.time.state = s.time.state ∧ t.time.offset = s.time.offset)) ∧
      (∀ m : AnnounceMsg, m.domain = 0 → Completes (.announce p m) s (fun t =>
        (t.sens.ports[p]).master = some (m.gm, m.rank) ∧ t.time.state = s.time.state ∧ t.time.offset = s.time.offset)) ∧
      (∀ m : SyncMsg, m.domain = 0 → (m.logInt < -5 ∨ 0 < m.logInt) → Completes (.sync p m) s (fun t =>
        (t.sens.ports[p]).barred = true ∧ t.time.slave ≠ some p ∧ t.time.state = s.time.state ∧ t.time.offset = s.time.offset)) ∧
      (∀ (c : Instr) (m : SyncMsg) (c0 : Nat), s.time.slave = some p → m.domain = 0 →
        ((c = .sync p m ∧ c0 = s.clk.raw ∧ -5 ≤ m.logInt ∧ m.logInt ≤ 0 ∧ m.twoStep = false ∧ (s.sens.ports[p]).barred = false) ∨
         (c = .followUp p m ∧ s.time.twoStep = some (p, m.seq, c0))) →
        let err := (m.time - s.time.at_ c0).toInt
        (s.time.state = 0 → 4 ≤ (s.sens.ports[p]).exchanges → s.time.syncs + 1 < 16 → Completes c s (fun t =>
          t.time.syncs = s.time.syncs + 1 ∧ t.time.gm = some m.gm ∧ t.time.state = 0 ∧ t.time.offset = s.time.offset ∧
          t.time.err = clampErr err)) ∧
        (s.time.state = 0 → 4 ≤ (s.sens.ports[p]).exchanges → 16 ≤ s.time.syncs + 1 → Completes c s (fun t =>
          t.time.state = 1 ∧ t.time.stepped = true ∧ t.time.at_ s.clk.raw = m.time + BitVec.ofNat 64 (s.clk.raw - c0) ∧
          t.time.anchor = BitVec.ofNat 64 s.clk.raw)) ∧
        (s.time.state = 1 → err.natAbs ≤ 1000000 → Completes c s (fun t =>
          t.time.state = 1 ∧ t.time.stepped = s.time.stepped ∧ t.time.anchor = BitVec.ofNat 64 s.clk.raw ∧
          t.time.rate.toInt.natAbs ≤ 274877907 ∧ t.safe = s.safe)) ∧
        (s.time.state = 1 → 1000000 < err.natAbs → Completes c s (fun t =>
          t.time.state = 3 ∧ t.time.rate = s.time.rate ∧ t.time.offset = s.time.offset ∧ t.safe.lastFault = 10 ∧
          t.safe.faults.getLsbD 10 = true)) ∧
        (s.time.state = 2 → err.natAbs ≤ 1000000 → s.time.gm = some m.gm → Completes c s (fun t =>
          t.time.state = 1 ∧ t.time.anchor = BitVec.ofNat 64 s.clk.raw ∧ t.safe = s.safe)) ∧
        (s.time.state = 2 → (1000000 < err.natAbs ∨ s.time.gm ≠ some m.gm) → Completes c s (fun t =>
          t.time.state = 3 ∧ t.time.rate = s.time.rate ∧ t.safe.lastFault = 10)) ∧
        (s.time.state = 3 → Completes c s (fun t => t.time.state = 3 ∧ t.time.rate = s.time.rate ∧ t.time.offset = s.time.offset)))) ∧
    Completes .syncReceiptTimeout s (fun t =>
      t = { s with time := t.time } ∧ t.time.state = (if s.time.state = 1 then 2 else s.time.state) ∧ t.time.syncs = 0 ∧
      t.time.rate = s.time.rate ∧ t.time.offset = s.time.offset) ∧
    Completes (.announceReceiptTimeout p) s (fun t =>
      (t.sens.ports[p]).master = none ∧ t.time.state = s.time.state ∧ t.time.offset = s.time.offset)

namespace Sys2Proof.Machine

/-- The DSP as the instruction at its program counter finds it (R337 to R339): results due have landed, the program counter has moved. -/
def Dsp.atIssue (d : Dsp) : Dsp := d.advance.capture.after

/-- An instruction issues: the DSP runs, its word stands at the program counter, the program does not run off its memory, and a
control-format instruction that may not stand in a loop body does not. -/
def DspIssues (w : Word) (control : Bool) (s : State) : Prop :=
  s.dsp.run = .running ∧ s.dsp.fetched = w ∧ s.dsp.runsOff = false ∧ (control = true → s.dsp.inBody = false)

/-- The word of a register-format instruction (R335). -/
def regWordOf (op : Nat) (o : RegOp) : Word :=
  BitVec.ofNat 32 (2 ^ 30 + op * 2 ^ 25 + o.dst.1 * 2 ^ 22 + o.sra.1 * 2 ^ 19 + o.srb.1 * 2 ^ 16 + o.sh.toNat * 2 ^ 10)

/-- The word of a MAC-format instruction (R335). -/
def macWordOf (op : Nat) (o : MacOp) : Word :=
  BitVec.ofNat 32 (op * 2 ^ 25 + o.pair.1 * 2 ^ 23 + o.agx.1 * 2 ^ 20 + o.agy.1 * 2 ^ 17 + o.agc.1 * 2 ^ 14 + o.bsel.toNat * 2 ^ 12 +
    (if o.noadv then 2 ^ 11 else 0))

/-- The word of a memory-format instruction (R335). -/
def memWordOf (op : Nat) (o : MemOp) : Word :=
  BitVec.ofNat 32 (2 ^ 31 + op * 2 ^ 25 + o.reg.1 * 2 ^ 22 + o.ag.1 * 2 ^ 19 + o.mem.toNat * 2 ^ 17 + o.sh.toNat * 2 ^ 11)

/-- The word of a control-format instruction (R335). -/
def ctlWordOf (op reg operand : Nat) : Word := BitVec.ofNat 32 (3 * 2 ^ 30 + op * 2 ^ 25 + reg * 2 ^ 22 + operand)

/-- The MAC-format instructions with their OP, whether they read b, and the new values of the pair before saturation (R336). -/
def macRows (o : MacOp) : List ((Instr × Nat) × Bool × (Int → Int → Word → Word → Int × Option Int)) :=
  [((.cmac o, 0), true, fun a0 a1 x b =>
     (a0 + (partI x * partI b - partQ x * partQ b), some (a1 + (partI x * partQ b + partQ x * partI b)))),
   ((.cmacj o, 1), true, fun a0 a1 x b =>
     (a0 + (partI x * partI b + partQ x * partQ b), some (a1 + (partQ x * partI b - partI x * partQ b)))),
   ((.cmul o, 2), true, fun _ _ x b => (partI x * partI b - partQ x * partQ b, some (partI x * partQ b + partQ x * partI b))),
   ((.mac2 o, 3), true, fun a0 a1 x b => (a0 + partI x * partI b, some (a1 + partQ x * partQ b))),
   ((.sqmag o, 4), false, fun a0 _ x _ => (a0 + (partI x * partI x + partQ x * partQ x), none))]

/-- The register-format instructions that write an accumulator, with their OP and the exact value (R336). -/
def accRows (o : RegOp) : List ((Instr × Nat) × (Dsp → Int)) :=
  [((.adda o, 0), fun d => (d.accVis[o.sra]).toInt + (d.accVis[o.srb]).toInt),
   ((.suba o, 1), fun d => (d.accVis[o.sra]).toInt - (d.accVis[o.srb]).toInt),
   ((.shra o, 2), fun d => (d.accVis[o.sra]).toInt / 2 ^ o.sh.toNat), ((.shla o, 3), fun d => (d.accVis[o.sra]).toInt * 2 ^ o.sh.toNat),
   ((.clra o, 4), fun _ => 0)]

/-- The control-format instructions that act on the DSP alone but LOOP, with their words, whether a loop body may hold them, and what becomes of the
DSP (R336, R338, R340, R341). -/
def ctlRows (t v : BitVec 14) (r : Fin 8) (brev : Bool) (m : BitVec 8) : List ((Instr × Word) × Bool × (Dsp → Dsp)) :=
  [((.br t, ctlWordOf 0 0 t.toNat), false, fun d => { d with branches := d.branches ++ [(2, t)] }),
   ((.brneg r t, ctlWordOf 1 r.1 t.toNat), false, fun d => if (d.accVis[r]).toInt < 0 then { d with branches := d.branches ++ [(2, t)] } else d),
   ((.call t, ctlWordOf 2 0 t.toNat), false, fun d => { d with
     d := setV d.d 7 ((d.last + 3).setWidth 32), dPend := d.dPend.filter (·.2.1 != 7), branches := d.branches ++ [(2, t)] }),
   ((.ret, ctlWordOf 3 0 0), false, fun d => { d with branches := d.branches ++ [(2, (d.d[(7 : Fin 8)]).setWidth 14)] }),
   ((.reti, ctlWordOf 4 0 0), false, fun d => { d with branches := d.branches ++ [(2, d.ilr)], ints := true, cache := [] }),
   ((.setag r v, ctlWordOf 6 r.1 v.toNat), true, fun d => { d with ags := modV d.ags r fun g => { g with ag := v } }),
   ((.setm r v brev, ctlWordOf 7 r.1 (v.toNat + if brev then 2 ^ 14 else 0)), true, fun d => { d with ags := modV d.ags r fun g => { g with m := v, brev := brev } }),
   ((.setl r v, ctlWordOf 8 r.1 v.toNat), true, fun d => { d with ags := modV d.ags r fun g => { g with l := v, b := g.ag } }),
   ((.di, ctlWordOf 9 0 0), false, fun d => { d with ints := false }), ((.ei, ctlWordOf 10 0 0), false, fun d => { d with ints := true }),
   ((.wait m, ctlWordOf 11 0 m.toNat), false, fun d => if d.irqPend &&& m = 0 then { d with run := .waiting, mask := m } else d),
   ((.halt, ctlWordOf 12 0 0), false, fun d => { d.drain with run := .stopped })]

end Sys2Proof.Machine

/-- An instruction whose word stands at the program counter of a running DSP issues and finds the results that are due. CMAC, CMACJ, CMUL, MAC2 and SQMAG read their operands on the buses,
write the newest values of the accumulator pair saturated to 40 bits, which every other reader sees three issues later, set
ACC_SAT where that clamps, and step each address generator they read once, unless NOADV. ADDA, SUBA, SHRA, SHLA, CLRA and MOVDA
write one accumulator, readable at the next issue; all but CLRA and MOVDA saturate, an event that a clear of its cycle does not undo. MOVS reads a special register into a data
register; MOVSD writes one: of the DSP's own, the pointers of the IQ port, nothing for TLO and BPOS. Nothing else of the DSP
changes but the program counter, and nothing outside it but a pointer that MOVSD names. -/
def Obligations.DspArithmetic : Prop :=
  ∀ (s : State),
    let d := s.dsp.atIssue
    (∀ o, ∀ r ∈ macRows o, ∀ mx gx mb gb, DspIssues (macWordOf r.1.2 o) false s → macOperands o = some ((mx, gx), (mb, gb)) → beyond mx (d.ags[gx]).ag = false →
      (r.2.1 = true → beyond mb (d.ags[gb]).ag = false) → Completes r.1.1 s (fun t =>
        let p0 : Fin 8 := Fin.ofNat 8 (2 * o.pair.1)
        let p1 : Fin 8 := Fin.ofNat 8 (2 * o.pair.1 + 1)
        let v := r.2.2 (d.acc[p0]).toInt (d.acc[p1]).toInt (d.bus mx (d.ags[gx]).ag.toNat) (d.bus mb (d.ags[gb]).ag.toNat)
        t = { s with dsp := t.dsp, fresh := t.fresh } ∧ t.dsp.acc[p0] = (sat40 v.1).1 ∧
        (∀ x, v.2 = some x → t.dsp.acc[p1] = (sat40 x).1 ∧
          t.dsp.accPend = d.accPend ++ [(3, p0, (sat40 v.1).1), (3, p1, (sat40 x).1)] ∧
          t.dsp.accSat = (d.accSat || (sat40 v.1).2 || (sat40 x).2)) ∧
        (v.2 = none → t.dsp.acc[p1] = d.acc[p1] ∧ t.dsp.accPend = d.accPend ++ [(3, p0, (sat40 v.1).1)] ∧
          t.dsp.accSat = (d.accSat || (sat40 v.1).2)) ∧
        (∀ x, x ≠ p0 → x ≠ p1 → t.dsp.acc[x] = d.acc[x]) ∧ t.dsp.accVis = d.accVis ∧ t.dsp.d = d.d ∧
        (o.noadv = true → t.dsp.ags = d.ags) ∧
        (o.noadv = false → t.dsp.ags[gx] = (d.ags[gx]).next ∧ (r.2.1 = true → t.dsp.ags[gb] = (d.ags[gb]).next) ∧
          ∀ x, x ≠ gx → (x ≠ gb ∨ r.2.1 = false) → t.dsp.ags[x] = d.ags[x]) ∧
        t.dsp.x = d.x ∧ t.dsp.y = d.y ∧ t.dsp.c = d.c ∧ t.dsp.pc = d.pc ∧ t.dsp.run = .running)) ∧
    (∀ o, ∀ r ∈ accRows o, DspIssues (regWordOf r.1.2 o) false s → Completes r.1.1 s (fun t =>
      (let d' : Dsp := { d with
        acc := setV d.acc o.dst (sat40 (r.2 d)).1, accVis := setV d.accVis o.dst (sat40 (r.2 d)).1,
        accPend := d.accPend.filter (·.2.1 != o.dst), accSat := d.accSat || (sat40 (r.2 d)).2, shadow := [] }
       t = { s with dsp := d', fresh := t.fresh }) ∧
      ((sat40 (r.2 d)).2 = false → t.fresh = s.fresh) ∧
      ((sat40 (r.2 d)).2 = true → t.fresh.1 = s.clk.raw ∧ (0xF050000004, 16) ∈ t.fresh.2))) ∧
    (∀ o : RegOp, DspIssues (regWordOf 5 o) false s → Completes (.movda o) s (fun t => t = { s with dsp := { d with
      acc := setV d.acc o.dst (BitVec.ofInt 40 (partI (d.d[o.sra]) * 2 ^ o.sh.toNat)),
      accVis := setV d.accVis o.dst (BitVec.ofInt 40 (partI (d.d[o.sra]) * 2 ^ o.sh.toNat)),
      accPend := d.accPend.filter (·.2.1 != o.dst), shadow := [] } })) ∧
    (∀ (o : RegOp) w, special o.sh.toNat { s with dsp := d } = some w →
      (DspIssues (regWordOf 6 o) false s → Completes (.movs o) s (fun t => t = { s with dsp := { d with
        d := setV d.d o.dst w, dPend := d.dPend.filter (·.2.1 != o.dst), shadow := [] } })) ∧
      (DspIssues (regWordOf 7 o) false s → Completes (.movsd o) s (fun t =>
        t = { s with dsp := t.dsp, iq := { s.iq with pairs := t.iq.pairs } } ∧ t.dsp.d = d.d ∧ t.dsp.acc = d.acc ∧
        ((o.sh.toNat = 5 ∨ o.sh.toNat = 6) → t.iq = s.iq ∧ t.dsp = { d with shadow := [] }) ∧
        (o.sh.toNat ≤ 4 → t.iq = s.iq ∧ special o.sh.toNat t = some (if o.sh.toNat = 4 then d.d[o.sra]
          else if o.sh.toNat = 0 then ((d.d[o.sra]).setWidth 16).setWidth 32 else ((d.d[o.sra]).setWidth 14).setWidth 32)) ∧
        (7 ≤ o.sh.toNat → special o.sh.toNat t = some (((d.d[o.sra]).setWidth 14).setWidth 32) ∧ t.dsp = { d with shadow := [] } ∧
          ∀ n, 7 ≤ n → n ≠ o.sh.toNat → special n t = special n s))))

/-- Of instructions whose words stand at the program counter: LD reads the word at its address generator, readable two issues later, ST stores a data register there, STR the rounded pair,
each stepping its generator (a value STR rounds with a shift beyond 39 is free, log entry 86); a store writes that word and no other (memories in canonical form, the word no doorbell). BR, BRNEG
on a negative accumulator, CALL, RET and RETI redirect the program after two delay slots; SETAG, SETM, SETL, DI, EI, WAIT, HALT
and LOOP write what they name; a LOOP of count 0, not in the last delay slot of a branch, goes past its body. Control-format instructions other than SETAG, SETM and SETL
trap in a running loop body with cause 2. A trap stops the DSP, notes its cause and reports fault 11. An interrupt, enabled, with
no delay slot open, goes to 0x0010 + 4 × source, saves the next address in ILR, drains the pipeline, disables interrupts and
clears its pending bit. -/
def Obligations.DspMemoryAndControl : Prop :=
  ∀ (s : State),
    let d := s.dsp.atIssue
    (Cells.wf 0 s.dsp.x = true → Cells.wf 0 s.dsp.y = true → Cells.wf 0 s.dsp.c = true →
      ∀ (o : MemOp) m, memSel o.mem = some m → beyond m (d.ags[o.ag]).ag = false →
        let a := (d.ags[o.ag]).ag.toNat
        (DspIssues (memWordOf 0 o) false s → Completes (.ld o) s (fun t => t = { s with dsp := { d with
          ags := modV d.ags o.ag AddrGen.next, dPend := d.dPend ++ [(2, o.reg, d.bus m a)], shadow := [] } })) ∧
        (doorbellOf m a = none → ∀ c ∈ [(Instr.st o, 1, d.d[o.reg]),
            (.str o, 2, (strWord (d.accVis[Fin.ofNat 8 (2 * (o.reg.1 % 4))]) (d.accVis[Fin.ofNat 8 (2 * (o.reg.1 % 4) + 1)]) o.sh.toNat s.free).1)],
          (c.1 = .str o → m ≠ 2) → DspIssues (memWordOf c.2.1 o) false s → Completes c.1 s (fun t =>
            t = { s with dsp := t.dsp, free := t.free, fresh := t.fresh } ∧ (o.sh.toNat ≤ 39 → t.free = s.free) ∧ t.dsp.mem m a = c.2.2 ∧ (∀ n b, (n ≠ m ∨ b ≠ a) → t.dsp.mem n b = d.mem n b) ∧
            t.dsp.ags = modV d.ags o.ag AddrGen.next ∧ t.dsp.d = d.d ∧ t.dsp.acc = d.acc ∧ t.dsp.accVis = d.accVis ∧ t.dsp.pc = d.pc))) ∧
    (∀ (a v : BitVec 14) r brev mask, ∀ x ∈ ctlRows a v r brev mask, DspIssues x.1.2 (!x.2.1) s → Completes x.1.1 s (fun t =>
      t = { s with dsp := { x.2.2 d with shadow := [] } })) ∧
    (∀ (count : BitVec 16) (len : BitVec 5), DspIssues (ctlWordOf 5 0 (count.toNat + 2 ^ 16 * len.toNat)) true s → s.dsp.pc.toNat + len.toNat + 1 ≤ 16383 →
      Completes (.loop count len) s (fun t => t = { s with dsp := { d with
        lc := count, ls := s.dsp.pc + 1, le := s.dsp.pc + 1 + len.setWidth 14, cache := [], shadow := [],
        pc := if count = 0 ∧ d.pc = s.dsp.pc + 1 then s.dsp.pc + 2 + len.setWidth 14 else d.pc } })) ∧
    (∀ (a v : BitVec 14) r brev mask count len, s.dsp.run = .running → s.dsp.inBody = true →
      ∀ c ∈ (Instr.loop count len, ctlWordOf 5 0 (count.toNat + 2 ^ 16 * len.toNat)) ::
          ((ctlRows a v r brev mask).filter (fun x => !x.2.1)).map (·.1), s.dsp.fetched = c.2 → Completes c.1 s (fun t =>
        t.dsp.run = .trapped ∧ t.dsp.trap = 2 ∧ t.dsp.last = s.dsp.pc ∧ t.safe.lastFault = 11)) ∧
    (∀ why, s.dsp.run = .running → s.dsp.traps why = true → Completes (.illegalInstruction why) s (fun t =>
      t.dsp = { s.dsp with run := .trapped, last := s.dsp.pc,
                           trap := match why with | .illegal => 1 | .loopBody => 2 | .address => 3 } ∧
      t.safe.lastFault = 11 ∧ t.safe.faults.getLsbD 11 = true ∧ (∀ e : Fin 2, (t.iq.pairs[e]).arm = none) ∧ t.jobs = s.jobs)) ∧
    (∀ n : Fin 8, (s.dsp.irqEn &&& s.dsp.irqPend).getLsbD n.1 = true → (∀ m, m < n.1 → (s.dsp.irqEn &&& s.dsp.irqPend).getLsbD m = false) →
      (s.dsp.run = .running ∨ s.dsp.run = .waiting) → s.dsp.ints = true → s.dsp.branches = [] → Completes .dspInterrupt s (fun t =>
        t = { s with dsp := { s.dsp.drain with
          ilr := s.dsp.pc, cache := [], ints := false, run := .running, pc := BitVec.ofNat 14 (0x10 + 4 * n.1),
          irqPend := s.dsp.irqPend &&& ~~~(BitVec.ofNat 8 (2 ^ n.1)) } }))

/-- The 8 edges of a pair carry a sample, four pins to the edge, bits 15 down to 0 of I and then of Q, FRM high for I (R345), and the
sample that they carry is read back from them; the pins of a pair that is on carry the sample it has sent. With X memory in canonical
form, of a pair that is on and has a receive ring: the sample received is written at the write pointer, as zero while the receive side is not aligned or the pair transmits, no other word of X changes, the pointer goes on in the ring,
overtaking the read pointer sets RX_OVERRUN, and the last of a block raises the pair's source. While a transmission is active the
port takes the next word of its ring, or zero with TX_UNDERRUN. In cycle 249,999 an armed transmission of the next beat is decided
for its cycle; any other stays armed. The PA ramp goes through the 16 levels up, holds them back down in reverse from its end, and
releases PA_EN after LEVEL 0. The IQ PLL's lock counts at RATE 3 only; RCLK's lock is shown. The other pair stays. -/
def Obligations.IqSamplesAndRamps : Prop :=
  ∀ (e : Fin 2) (s : State),
    let p := s.iq.pairs[e]
    (∀ (d : Vector (BitVec 4) 8) (w : Word) (i : Nat), i < 16 →
      (edgesSample d).getLsbD i = (d[Fin.ofNat 8 ((15 - i) / 4)]).getLsbD ((15 - i) % 4) ∧
      (edgesSample d).getLsbD (16 + i) = (d[Fin.ofNat 8 (4 + (15 - i) / 4)]).getLsbD ((15 - i) % 4) ∧
      edgesSample (Vector.ofFn fun m : Fin 8 => iqEdge w m.1) = w) ∧
    (p.mode ≠ 0 → ¬(s.iq.rate = 3 ∧ s.iq.pll = false) → ∃ l : List (BitVec 4 × Bool), s.iq.pins e = some l ∧
      l.map (·.2) = [true, true, true, true, false, false, false, false] ∧ ∀ m < 8, (l.map (·.1))[m]? = some (iqEdge p.sent m)) ∧
    (∀ d : Vector (BitVec 4) 8, p.mode ≠ 0 → p.rxLen ≠ 0 → Cells.wf 0 s.dsp.x = true → Completes (.iqRxSample e d) s (fun t =>
      Cells.get 0 t.dsp.x p.rxwp.toNat = (if s.iq.rclk = true ∧ p.tx = none then edgesSample d else 0) ∧
      (∀ a, a ≠ p.rxwp.toNat → Cells.get 0 t.dsp.x a = Cells.get 0 s.dsp.x a) ∧
      (t.iq.pairs[e]).rxwp = ringNext p.rxBase p.rxLen p.rxwp ∧
      (t.iq.pairs[e]).overrun = (p.overrun || (t.iq.pairs[e]).rxwp == p.rxrd) ∧
      (p.count + 1 < 2 ^ p.blockLog.toNat → (t.iq.pairs[e]).count = p.count + 1 ∧ t.dsp.irqPend = s.dsp.irqPend) ∧
      (2 ^ p.blockLog.toNat ≤ p.count + 1 → (t.iq.pairs[e]).count = 0 ∧ t.dsp.irqPend.getLsbD e.1 = true) ∧
      (∀ x, x ≠ e → t.iq.pairs[x] = s.iq.pairs[x]) ∧ t.dsp.y = s.dsp.y ∧ t.dsp.acc = s.dsp.acc ∧ t.clk = s.clk)) ∧
    (∀ x, p.tx = some x → x.active s.clk.raw = true → ¬(s.iq.rate = 3 ∧ s.iq.pll = false) → Completes (.iqTxSample e) s (fun t =>
      (p.txLen = 0 ∨ p.txrd = p.txwp → (t.iq.pairs[e]).sent = 0 ∧ (t.iq.pairs[e]).underrun = true ∧ (t.iq.pairs[e]).txrd = p.txrd) ∧
      (p.txLen ≠ 0 → p.txrd ≠ p.txwp → (t.iq.pairs[e]).sent = Cells.get 0 s.dsp.y p.txrd.toNat ∧
        (t.iq.pairs[e]).txrd = ringNext p.txBase p.txLen p.txrd ∧ (t.iq.pairs[e]).underrun = p.underrun) ∧
      (2 ^ p.blockLog.toNat ≤ p.txCount + 1 → t.dsp.irqPend.getLsbD (2 + e.1) = true) ∧
      (∀ x, x ≠ e → t.iq.pairs[x] = s.iq.pairs[x]) ∧ t.dsp.x = s.dsp.x ∧ t.dsp.y = s.dsp.y ∧ t.clk = s.clk)) ∧
    (s.clk.running = true → s.clk.cyc < 250000 → Completes (.txArmDecision e) s (fun t =>
      t.clk = { s.clk with raw := s.clk.raw + (249999 - s.clk.cyc), cyc := 249999 } ∧
      (∀ c, p.arm = some (s.clk.beat + 1, c) → (t.iq.pairs[e]).arm = none ∧ (t.iq.pairs[e]).fired = some (t.clk.raw + 1 + c)) ∧
      ((∀ c, p.arm ≠ some (s.clk.beat + 1, c)) → t.iq.pairs[e] = p) ∧ (∀ x, x ≠ e → t.iq.pairs[x] = s.iq.pairs[x]) ∧ t.dsp = s.dsp)) ∧
    (∀ u s1, p.fired = some u → p.tx = none → p.mode ≠ 0 → reach (u + 160) s = some s1 → Completes (.paRampStep e) s (fun t =>
      (t.iq.pairs[e]).paEn = true ∧ (t.iq.pairs[e]).level = s.iq.level 0 ∧ (t.iq.pairs[e]).fired = none ∧
      (t.iq.pairs[e]).tx = some { u := u, e := if p.mode = 1 then some (u + 244000) else none, step := 1 } ∧
      (∀ x, x ≠ e → t.iq.pairs[x] = s.iq.pairs[x]) ∧ t.clk = s1.clk)) ∧
    (∀ x s1, p.fired = none → p.tx = some x → reach (x.due s.clk.raw) s = some s1 → Completes (.paRampStep e) s (fun t =>
      (x.step < 16 → (t.iq.pairs[e]).level = s.iq.level x.step ∧ (t.iq.pairs[e]).paEn = true ∧
        (t.iq.pairs[e]).tx = some { x with step := x.step + 1 }) ∧
      (16 ≤ x.step → x.step < 32 → (t.iq.pairs[e]).level = s.iq.level (31 - x.step) ∧ (t.iq.pairs[e]).paEn = true ∧
        (t.iq.pairs[e]).tx = some { x with step := x.step + 1, e := some (x.e.getD s.clk.raw) }) ∧
      (32 ≤ x.step → (t.iq.pairs[e]).level = 0 ∧ (t.iq.pairs[e]).paEn = false ∧ (t.iq.pairs[e]).tx = none) ∧
      (∀ x, x ≠ e → t.iq.pairs[x] = s.iq.pairs[x]) ∧ t.clk = s1.clk)) ∧
    Completes .iqPllLock s (fun t => t = { s with iq := { s.iq with pll := decide (s.iq.rate = 3) } }) ∧
    (∀ locked, Completes (.rclkLockChange locked) s (fun t => t = { s with iq := { s.iq with rclk := locked } }))

namespace Sys2Proof.Machine

/-- What the rows of a learned receiver leave: the other pair, the other cores, DRAM, jobs, the clock of s1. -/
def RadioFrame (e : Fin 2) (s1 t : State) : Prop :=
  (∀ x, x ≠ e → t.radio[x] = s1.radio[x]) ∧ (∀ u, u ≠ radioUnit e → t.cores[u] = s1.cores[u]) ∧ t.mem = s1.mem ∧
  t.jobs = s1.jobs ∧ t.clk = s1.clk

end Sys2Proof.Machine

/-- With Y memory and the radio engine's scratchpad in canonical form, and a slot neither over nor decided: TRAIN asks for a CE
phase and END for a DM phase, ready after 2,048 cycles, a third request not asked; END of a slot not demapped records PATH 2;
CLASSIC is noted; HEADER and DECODE start a free decoder, an unsupported rate is counted. A copy lands in its basin; a request
whose deadline lies ahead starts when ready, with a manifest active; a CE phase that completes with enough confidence lets the DM
phase run, another ends the learned path with cause 4; a phase at its deadline stops. An exit that is due and in turn and that is not
enabled, or under CTL_STRICT, only counts as issued; one that is taken ends the phase. CLASSIC_LATE records PATH 2. A decode's end sets its EVENT
bit and interrupt; where DECODE's output goes is the model's choice (log entry 21). A message of 1 to 252 bytes becomes a record
and its word is cleared. -/
def Obligations.LearnedReceivers : Prop :=
  ∀ (e : Fin 2) (s : State), Cells.wf 0 s.dsp.y = true → Cells.wf 0 (s.cores[radioUnit e]).pad = true →
    let r := s.radio[e]
    let v := handoff e 0x26C s
    let w := handoff e 0x26D s
    (r.learnedEn = true → r.active ≠ none → r.queue.length < 2 → (∀ x ∈ r.slots, x.e ≠ v) → Completes (.train e) s (fun t =>
      RadioFrame e s t ∧ (t.radio[e]).slots = r.slots ++ [{ e := v }] ∧ ∃ p : Phase, (t.radio[e]).queue = r.queue ++ [p] ∧ p.dm = false ∧
        p.e = v ∧ p.ready = s.clk.raw + 2048 ∧ p.deadline = v + BitVec.ofInt 32 (1000 * r.ceDl.toInt) ∧ p.copied = false)) ∧
    (r.decoding = none → Completes (.header e) s (fun t =>
      RadioFrame e s t ∧ (t.radio[e]).decoding = some (.header (softs e 0xFA0 200 s)) ∧ (t.radio[e]).decDue = s.clk.raw + 235)) ∧
    (bitOf w.toNat 18 = false → Completes (.endSlot e) s (fun t =>
      RadioFrame e s t ∧ (t.radio[e]).lostCnt = satInc r.lostCnt ∧ (t.radio[e]).slotCnt = r.slotCnt + 1 ∧
      (∀ x ∈ (t.radio[e]).slots, x.e ≠ v) ∧ t.dsp.irqPend.getLsbD (6 + e.1) = true ∧ (t.radio[e]).queue = r.queue)) ∧
    (∀ x : RadioSlot,
      let m : Quad := BitVec.ofNat 64 ((handoff e 0x26E s).toNat + (handoff e 0x26F s).toNat * 2 ^ 32)
      slotOfE e v s = some x → x.ended = false → bitOf w.toNat 18 = true → ¬(bits w.toNat 8 5 ≠ 0 ∧ bits m.toNat 39 0 = 0) →
      lengthBad w m = false → r.queue.length < 2 → Completes (.endSlot e) s (fun t =>
        RadioFrame e s t ∧ slotOfE e v t = some { x with param := w, map := m, hasEnd := true, hdr := headerWords e s } ∧
        ∃ p : Phase, (t.radio[e]).queue = r.queue ++ [p] ∧ p.dm = true ∧ p.e = v ∧ p.ready = s.clk.raw + 2048 ∧
          p.deadline = v + BitVec.ofInt 32 (1000 * (r.dmDl.toNat : Int)))) ∧
    (∀ x, slotOfE e v s = some x → x.ended = false → x.decided = false → Completes (.classic e) s (fun t =>
      RadioFrame e s t ∧ slotOfE e v t = some { x with classic := true })) ∧
    (bits w.toNat 4 3 = 3 → Completes (.decode e) s (fun t => RadioFrame e s t ∧ t.iq.unsup = satInc s.iq.unsup ∧ t.radio = s.radio)) ∧
    (bits w.toNat 4 3 ≠ 3 → r.decoding = none → Completes (.decode e) s (fun t =>
      RadioFrame e s t ∧ ∃ soft, (t.radio[e]).decoding = some (.own soft w))) ∧
    (∀ p, r.queue.find? (!·.copied) = some p → p.dm = false → (∀ q, r.phase = some q → q.dm = true) → Completes (.bridgeCopyDone e) s (fun t =>
      RadioFrame e s t ∧ (t.cores[radioUnit e]).basins[(12 : Fin 16)] = radioBasin basin12 16 2496 ∧
      Cells.gets 0 (t.cores[radioUnit e]).pad basin12 2496 = (List.range 0x270).flatMap (fun i => wordBytes (handoff e i s)) ∧
      (t.radio[e]).queue = markCopied s.clk.raw r.queue)) ∧
    (∀ p rest s1, r.phase = none → r.queue = p :: rest → reach (max p.ready r.freeAt) s = some s1 → r.active ≠ none → p.copied = true →
      0 < (p.deadline - BitVec.ofNat 32 s1.clk.raw).toInt →
      (p.dm = false ∨ ∃ x, slotOfE e p.e s = some x ∧ x.ceOk = true ∧ x.ended = false) → Completes (.phaseStart e) s (fun t =>
        RadioFrame e s1 t ∧ (t.radio[e]).phase = some { p with ready := s1.clk.raw, issued := 0 } ∧ (t.radio[e]).queue = rest ∧
        (t.cores[radioUnit e]).basin (if p.dm then 15 else 14) = radioBasin (if p.dm then basin15 else basin14) (if p.dm then 8 else 4) 0 ∧
        (t.cores[radioUnit e]).pad = (s1.cores[radioUnit e]).pad ∧ (t.cores[radioUnit e]).seq.slip = 0)) ∧
    (∀ p x, r.phase = some p → p.dm = false → slotOfE e p.e s = some x → x.ended = false → x.decided = false → (x.classic = false ∨ x.hasEnd = false) →
      let conf := confAtLeast (BitVec.ofNat 32 (Memory.num 0 (s.cores[radioUnit e]).pad basin14 4)) r.ceThr.toNat
      Completes (.phaseComplete e) s (fun t => RadioFrame e s t ∧ (t.radio[e]).phase = none ∧ (t.radio[e]).freeAt = s.clk.raw + 1 ∧
        slotOfE e p.e t = some (if conf then { x with ceOk := true } else { x with ended := true, cause := 4 }))) ∧
    (∀ p x s1, r.phase = some p → slotOfE e p.e s = some x → x.ended = false → x.decided = false → (x.classic = false ∨ x.hasEnd = false) →
      reach (rawOf p.deadline s.clk.raw) s = some s1 → Completes (.phaseDeadline e) s (fun t =>
        RadioFrame e s1 t ∧ (t.radio[e]).phase = none ∧ (t.radio[e]).freeAt = s1.clk.raw + 193 ∧
        slotOfE e p.e t = some { x with ended := true, cause := if p.dm then 5 else 3 })) ∧
    (∀ p (z : Word) s1, toExit e z s = some s1 → (s1.radio[e]).phase = some p → (s1.cores[radioUnit e]).eng.passes = [] →
      (s1.cores[radioUnit e]).vec.entry = none → (s1.cores[radioUnit e]).seq.put = none →
      (((s1.radio[e]).exitEn = false ∨ s1.det.strict = true) → Completes (.radioExit e z) s (fun t =>
        RadioFrame e s1 t ∧ t.radio[e] = { s1.radio[e] with phase := some { p with issued := p.issued + 1 } } ∧
        (t.cores[radioUnit e]).seq.issued = (s1.cores[radioUnit e]).seq.issued + 1)) ∧
      ((s1.radio[e]).exitEn = true → s1.det.strict = false →
        (confAtLeast (Cells.get 0 (s1.cores[radioUnit e]).vec.cistern (bits z.toNat 15 0)) (bits z.toNat 23 16) = true ∨
          (p.deadline - BitVec.ofNat 32 s1.clk.raw).toInt < 1024 * (bits z.toNat 31 24 : Int)) → Completes (.radioExit e z) s (fun t =>
          RadioFrame e s1 t ∧ (t.radio[e]).phase = none ∧ (t.radio[e]).exitCnt = satInc (s1.radio[e]).exitCnt))) ∧
    (∀ x s1, r.slots.find? (!·.decided) = some x → reach (rawOf (x.e + 170000) s.clk.raw) s = some s1 → Completes (.classicLate e) s (fun t =>
      RadioFrame e s1 t ∧ (t.radio[e]).lostCnt = satInc r.lostCnt ∧ (t.radio[e]).slotCnt = r.slotCnt + 1 ∧
      (t.radio[e]).slots = r.slots.filter (fun y => y.e != x.e) ∧ t.dsp.irqPend.getLsbD (6 + e.1) = true)) ∧
    (∀ d s1, r.decoding = some d → r.decQueue = [] → reach r.decDue s = some s1 → Completes (.decodeDone e) s (fun t =>
      RadioFrame e s1 t ∧ (t.radio[e]).decoding = none ∧ t.dsp.irqPend.getLsbD (6 + e.1) = true ∧
      (∀ soft, d = .header soft → (handoff e 0xFFE t).getLsbD 0 = true ∧ (t.radio[e]).slotCnt = r.slotCnt) ∧
      (∀ x l soft, d = .data x l soft → (handoff e 0xFFE t).getLsbD 1 = true ∧ (t.radio[e]).slotCnt = r.slotCnt + 1 ∧
        (t.radio[e]).lrnCnt = (if l then r.lrnCnt + 1 else r.lrnCnt)) ∧
      (∀ soft q, d = .own soft q → (handoff e 0xFFE t).getLsbD 1 = true ∧ (t.radio[e]).slotCnt = r.slotCnt))) ∧
    (let n := (Cells.get 0 s.dsp.x 0x3E80).toNat;
      (n = 0 ∨ 252 < n → Completes .dspMessagePoll s (fun t => t = s)) ∧
      (1 ≤ n → n ≤ 252 → Cells.wf 0 s.dsp.x = true → Completes .dspMessagePoll s (fun t =>
        RadioFrame e s t ∧ t.host.rseq = s.host.rseq + 1 ∧ Cells.get 0 t.dsp.x 0x3E80 = 0 ∧
        ∀ a, a ≠ 0x3E80 → Cells.get 0 t.dsp.x a = Cells.get 0 s.dsp.x a)))

namespace Sys2Proof.Machine

/-- Source x has been accepted (R430, R432, R436): its mark and reach stand in the episode, which it begins or joins, and what every
reach clears is clear; DRAM keeps what it holds. -/
def Resets (x : Source) (s t : State) : Prop :=
  (s.rst.episode = none → t.rst.episode = some (x.mark { reach := x.reach })) ∧
  (∀ e, s.rst.episode = some e →
    t.rst.episode = some (x.mark { e with reach := if x.reach < e.reach then x.reach else e.reach })) ∧
  t.dev = .booting ∧ t.clk = {} ∧ t.jobs = {} ∧ t.dom = {} ∧ t.host = {} ∧ t.card = {} ∧ t.det = {} ∧
  t.cores = Vector.replicate 66 {} ∧ t.rills = Vector.replicate 32 {} ∧ t.chans = Vector.replicate 128 {} ∧
  t.mem.dram = s.mem.dram ∧ t.mem.parkValid = s.mem.parkValid ∧ t.boot.tally = s.boot.tally ∧
  t.boot.episodes = s.boot.episodes ∧ t.boot.glitches = s.boot.glitches ∧
  t.pins.sdio = false ∧ t.pins.ether = false ∧ t.pins.iq = false ∧ t.pins.uart = false ∧ t.pins.csi = false

/-- A watchdog reset with its cause, begun out of reset: reach 2, so the fault bits, the contract's counters and the journal's
unwritten records are as they were (R432, R433). -/
def WatchdogReset (cause : BitVec 4) (s t : State) : Prop :=
  Resets (.wdt cause) s t ∧ t.rst.wdt = true ∧ t.safe.faults = s.safe.faults ∧ t.con.status = s.con.status ∧
  t.con.latencyCnt = s.con.latencyCnt ∧ t.con.refreshCnt = s.con.refreshCnt ∧ t.jrnl.queue = s.jrnl.queue ∧
  t.jrnl.diag = s.jrnl.diag ∧ t.pwr.event = s.pwr.event

/-- Every job is gone and the device is in SAFE_STOP. -/
def Halted (t : State) : Prop := t.dev = .safeStop ∧ ∀ k, t.job k = none

end Sys2Proof.Machine

/-- A supply below its threshold, MRST_N and a watchdog cause each begin an episode of their reach, or join the one that runs,
which takes the lower reach; whatever the reach, the device is in BOOTING without jobs, its domains are off and its pins undriven,
and DRAM and the backup domain stand; a watchdog reset keeps the fault bits, contract counters and journal queue. The watchdog's
causes are 0 for the timeout, 1 after a lockstep mismatch, 2 for the clock fault, 3 for the host's request, 5 for a start that
takes too long. Without REFCLK pins are not sampled, and the clock fault has its reset when REFCLK returns. A glitch is only
counted. Removal takes a working device to SAFE_STOP without jobs, abandons its command and releases the card, Ethernet and IQ
pins, and ends in a power-on reset. A lockstep mismatch is fault 0xD: SAFE_STOP with every output stopped. PLL_LOCK_TIMEOUT
changes nothing. With no main input the loss of the backup supply ends the backup domain's validity. -/
def Obligations.ResetSources : Prop :=
  ∀ s : State,
    Completes .powerOn s (fun t => Resets .por s t ∧ t.rst.supplyLow = true ∧ t.pins.mainIn = false ∧ t.jrnl.queue = []) ∧
    (s.pins.plateHot = false → Completes .powerGood s (fun t => t = { s with
      pins := { s.pins with mainIn := true, inputOn := true }, rst := { s.rst with supplyLow := false } })) ∧
    (s.rst.refclk = true →
      Completes .mrstAssert s (fun t => Resets .mrst s t ∧ t.rst.mrst = true) ∧
      Completes .mrstRelease s (fun t => t = { s with rst := { s.rst with mrst := false } }) ∧
      Completes .resetGlitch s (fun t => t = { s with boot := { s.boot with glitches := satInc s.boot.glitches } }) ∧
      Completes .watchdogRelease s (fun t => t = { s with rst := { s.rst with wdt := false } }) ∧
      Completes .prsntAssert s (fun t => t.rst = { s.rst with absent := false, removal := false } ∧ t.jobs = s.jobs ∧ t.dev = s.dev ∧
        t.mem = s.mem ∧ t.host = s.host ∧ t.clk = s.clk)) ∧
    (s.rst.refclk = false → ∀ c, c ∈ [Instr.mrstAssert, .mrstRelease, .resetGlitch, .watchdogRelease, .prsntAssert, .prsntRelease] →
      Completes c s (fun t => t = s)) ∧
    (s.rst.refclk = true → s.rst.removal = false → s.rst.absent = false → s.rst.episode = none →
      (s.dev = .ready ∨ s.dev = .running ∨ s.dev = .degraded) → Completes .prsntRelease s (fun t =>
        Halted t ∧ t.rst.removal = true ∧ t.host.busy = false ∧ t.host.reply = none ∧ t.pins.sdio = false ∧
        t.pins.ether = false ∧ t.pins.iq = false ∧ t.mem.dram = s.mem.dram)) ∧
    (s.rst.removal = true → Completes .removalPowerOn s (fun t => Resets .por s t ∧ t.rst.absent = true)) ∧
    (s.rst.episode = none → s.rst.refclk = true →
      Completes .watchdogTimeout s (WatchdogReset 0 s) ∧
      (s.dev = .booting → Completes .bootTimeout s (WatchdogReset 5 s)) ∧
      (s.rst.hostReset = true → Completes .resetRequestTimer s (WatchdogReset 3 s)) ∧
      (s.rst.lockstep = true → Completes .lockstepReset s (WatchdogReset 1 s)) ∧
      (s.rst.clockFault = false → s.dev ≠ .booting → Completes .clockFault s (fun t =>
        t.rst.episode = some { reach := 2, seenWdt := true, wdtCause := 2 } ∧ t.rst.wdt = true ∧ t.dev = .booting ∧
        t.safe.faults.getLsbD 14 = true ∧ ∀ k, t.job k = none))) ∧
    (s.rst.episode = none → (s.dev = .ready ∨ s.dev = .running ∨ s.dev = .degraded) →
      (s.rst.lockstep = false → Completes .lockstepMismatch s (fun t => Halted t ∧ t.rst.lockstep = true ∧
        t.safe.faults.getLsbD 13 = true ∧ t.pins.sdio = false ∧ t.pins.ether = false ∧ t.pins.iq = false ∧ t.pins.uart = false ∧
        t.pins.csi = false)) ∧
      (s.rst.clockFault = false → Completes .refclkLoss s (fun t => Halted t ∧ t.rst.refclk = false ∧ t.rst.clockFault = true ∧
        t.rst.episode = none ∧ t.safe.faults.getLsbD 14 = true ∧ t.pins.iq = false ∧ t.pins.uart = false))) ∧
    (s.rst.episode = none → s.rst.clockFault = true → Completes .refclkReturn s (fun t =>
      WatchdogReset 2 s t ∧ t.rst.refclk = true)) ∧
    (s.rst.clockFault = false → Completes .refclkReturn s (fun t => t = { s with rst := { s.rst with refclk := true } })) ∧
    Completes .pllLockTimeout s (fun t => t = s) ∧
    (s.pins.mainIn = false → Completes .backupSupplyLoss s (fun t => t.boot.bkpValid = false ∧ t.mem.parkValid = false ∧
      t.mem.supplyLost = (s.mem.supplyLost || s.mem.parkValid) ∧ t.mem.dram = s.mem.dram ∧ t.jobs = s.jobs ∧ t.rst = s.rst)) ∧
    Completes .mainInputReturn s (fun t => t = { s with pins := { s.pins with mainIn := true } })

namespace Sys2Proof.Machine

/-- No source holds the device in the episode e. -/
def Released (e : Episode) (s : State) : Prop :=
  s.rst.episode = some e ∧ s.rst.supplyLow = false ∧ s.rst.absent = false ∧ s.rst.mrst = false ∧ s.rst.wdt = false ∧ s.rst.refclk = true

/-- A failed start (R442): a watchdog reset of cause 4. -/
def FailedStart (t : State) : Prop :=
  t.rst.episode = some { reach := 2, seenWdt := true, wdtCause := 4 } ∧ t.rst.wdt = true ∧ t.dev = .booting ∧ t.dom = {}

/-- BOOT_TALLY as a start finds it: lost with the backup domain (R445). -/
def tallyAt (s : State) : BitVec 3 := if s.boot.bkpValid then s.boot.tally else 0

/-- n bytes of the boot flash. -/
def norBytes (s : State) (a n : Nat) : List Byte := Cells.gets 0xFF s.boot.flash a n

end Sys2Proof.Machine

/-- While a source is asserted RESET_RELEASE changes nothing. After four starts in a row that did not reach READY the device goes
to MOORED. Otherwise BOOT_TALLY counts the start; without NOR flash it fails, which is a watchdog reset of cause 4. With the image
of manufacture, its key slot valid and not revoked, and no flash or fuse operation cut by the reset, the start goes on to step 6
with the configuration block's fields, or the factory defaults where a check of it fails. Each interval of step 6 begins at a
multiple of 250,000 raw cycles and switches on the domains that R441 lists, the eleventh ending the step. Training that fails is a
failed start; a warm start keeps DRAM and the retained extents but for those found bad, another has none, and what had been written
in DRAM is then free (the model's choice, log entry 5). A clean self-test of
every core leaves every proof age 0, 24 passes counted on each. ENTER_READY starts the beat clock at cycle 0 of beat 0, clears
BOOT_TALLY and PARK_VALID, starts the DSP at address 0, and reports a load that the reset cut. -/
def Obligations.StartSteps : Prop :=
  ∀ s : State,
    ((s.rst.episode = none ∨ s.rst.supplyLow = true ∨ s.rst.absent = true ∨ s.rst.mrst = true ∨ s.rst.wdt = true ∨ s.rst.refclk = false) →
      ∀ n, Completes (.resetRelease n) s (fun t => t = s)) ∧
    (∀ e, Released e s →
      (tallyAt s = 4 → ∀ n, Completes (.resetRelease n) s (fun t => t.dev = .moored ∧ t.rst.episode = none ∧ t.jobs = {} ∧
        t.dom = {} ∧ t.boot.tally = 4 ∧ t.boot.episodes = s.boot.episodes + 1)) ∧
      (tallyAt s ≠ 4 → Completes (.resetRelease false) s (fun t => FailedStart t ∧ t.boot.tally = tallyAt s + 1)) ∧
      (tallyAt s ≠ 4 → s.asMade = true → (s.sec.slots[(0 : Fin 4)]).valid = true → s.sec.revoked = 0 → s.sec.secverMin = 0 →
        s.boot.flashOp = none → s.sec.fuseOp = none → s.jrnl.erasing = none → Completes (.resetRelease true) s (fun t =>
          let bs := norBytes s 0x01000000 256
          t.dev = .booting ∧ t.rst.episode = none ∧ t.boot.step = 6 ∧ t.boot.interval = 0 ∧ t.boot.tally = tallyAt s + 1 ∧
          t.boot.episodes = (if s.boot.bkpValid then s.boot.episodes else 0) + 1 ∧ t.boot.bkpLost = !s.boot.bkpValid ∧ t.clk = {} ∧
          t.cfg = (if cfgCause bs = 0 then cfgOf bs else {}) ∧ t.boot.cfgDefaulted = decide (cfgCause bs ≠ 0) ∧
          t.sec.mCfg = sha3 bs ∧ t.sec.runSlot = 0 ∧ t.mem.dram = s.mem.dram))) ∧
    (s.booting 6 = true → Completes .bootInterval s (fun t =>
      let n := s.boot.interval
      t.boot.interval = n + 1 ∧ t.boot.step = (if n = 10 then 7 else 6) ∧ s.clk.raw ≤ t.clk.raw ∧ t.clk.raw % 250000 = 0 ∧
      t.clk.raw ≤ s.clk.raw + 250000 ∧ (n ≠ 0 → s.clk.raw < t.clk.raw) ∧
      (n = 0 → t.dom = { s.dom with uncore := 3, phy := if s.part = .l512 then 15 else 3, hub := s.dom.hub ||| 0x14 }) ∧
      (n = 1 → t.dom = { s.dom with fabric := 0xFF }) ∧
      (2 ≤ n → n ≤ 9 → ∀ c : Fin 64, t.dom.core.getLsbD c.1 = (s.dom.core.getLsbD c.1 || decide (c.1 / 8 = n - 2))) ∧
      (10 ≤ n → t.dom = if s.cfg.ethPorts = 0 then s.dom else { s.dom with hub := s.dom.hub ||| 8 }))) ∧
    (s.booting 7 = true → ∀ bad,
      Completes (.dramTrainingDone false bad) s FailedStart ∧
      (s.mem.parkValid = true → Completes (.dramTrainingDone true bad) s (fun t =>
        t.mem.dram = s.mem.dram ∧ t.mem.warm = true ∧ t.mem.extents = without bad s.mem.retained ∧ t.boot.step = 8 ∧ t.boot.warm = true)) ∧
      (s.mem.parkValid = false → Completes (.dramTrainingDone true bad) s (fun t =>
        (Memory.wf 0 s.mem.dram = true → ∀ a, Cells.get 0 t.mem.dram a =
          if Cells.get 0 s.mem.dram a = 0 then 0 else Config.freeByte (s.free + a)) ∧ t.mem.extents = [] ∧ t.boot.step = 8))) ∧
    (s.booting 8 = true → Completes (.selfTestDone []) s (fun t => t.boot.step = 9 ∧ t.mem = s.mem ∧ t.jobs = s.jobs ∧
      (∀ c : Fin 64, t.safe.ages[c] = 0) ∧
      ∀ c : UnitIdx, c.1 < 64 → t.cores[c].eng.passCnt = (s.cores[c]).eng.passCnt + 24 ∧ t.cores[c].pad = (s.cores[c]).pad)) ∧
    (s.booting 9 = true → Completes .enterReady s (fun t =>
      t.dev = .ready ∧ t.clk = { raw := s.clk.raw, running := true, beat := 0, cyc := 0 } ∧ t.boot.tally = 0 ∧ t.boot.step = 0 ∧
      t.det.strict = s.cfg.strict ∧ t.mem.parkValid = false ∧ t.mem.dram = s.mem.dram ∧ t.jobs = s.jobs ∧
      (s.dsp.run = .stopped → t.dsp.run = .running ∧ t.dsp.pc = 0) ∧
      (s.mem.loadActive = true → t.mem.loadState = 3 ∧ t.mem.loadCause = 4 ∧ t.mem.loadActive = false)))

/-- With the boot flash in canonical form and the writer at work, whose position does not lie in a block being erased. The first
program stores the 56 bytes of the oldest record, with the SEQ after the last; the second its CRC; the third its COMMIT, whereupon
the record leaves the queue, SEQ is the next record number and the writer stands at the next position of the ring; the first record of a
block begins the erase of the next block. No program touches another byte of the flash. The erase leaves each byte of its block
0xFF and no other byte changed; a removal suspends it. With an empty queue nothing is programmed. -/
def Obligations.JournalWriter : Prop :=
  ∀ s : State, Cells.wf 0xFF s.boot.flash = true → s.journaling = true →
    (s.jrnl.queue = [] → Completes .journalProgramDone s (fun t => t = s)) ∧
    (∀ r rest, s.jrnl.queue = r :: rest → s.jrnl.erasing ≠ some (s.jrnl.pos / 1024) →
      let a := journalBase + 64 * s.jrnl.pos
      let bs := r.bytes (nextSeq s.jrnl.seq)
      let Writes (o n : Nat) (t : State) : Prop := norBytes t (a + o) n = (bs.drop o).take n ∧
        (∀ x, x < a + o ∨ a + o + n ≤ x → Cells.get 0xFF t.boot.flash x = Cells.get 0xFF s.boot.flash x) ∧ t.mem = s.mem ∧ t.jobs = s.jobs
      ((s.jrnl.phase = none ∨ s.jrnl.phase = some 0) → Completes .journalProgramDone s (fun t =>
        Writes 0 56 t ∧ t.jrnl = { s.jrnl with phase := some 1 })) ∧
      (s.jrnl.phase = some 1 → Completes .journalProgramDone s (fun t => Writes 56 4 t ∧ t.jrnl = { s.jrnl with phase := some 2 })) ∧
      (s.jrnl.phase = some 2 → Completes .journalProgramDone s (fun t => Writes 60 4 t ∧ t.jrnl = { s.jrnl with
        queue := rest, seq := nextSeq s.jrnl.seq, phase := none, pos := (s.jrnl.pos + 1) % (766 * 1024)
        erasing := if s.jrnl.pos % 1024 = 0 then some ((s.jrnl.pos / 1024 + 1) % 766) else s.jrnl.erasing }))) ∧
    (∀ b, s.jrnl.erasing = some b →
      (s.jrnl.removal = none → Completes .journalEraseDone s (fun t =>
        let a := journalBase + 65536 * b
        (∀ x, a ≤ x → x < a + 65536 → Cells.get 0xFF t.boot.flash x = 0xFF) ∧
        (∀ x, x < a ∨ a + 65536 ≤ x → Cells.get 0xFF t.boot.flash x = Cells.get 0xFF s.boot.flash x) ∧
        t.jrnl = { s.jrnl with erasing := none } ∧ t.mem = s.mem ∧ t.jobs = s.jobs)) ∧
      (s.jrnl.removal ≠ none → Completes .journalEraseDone s (fun t => t = s)))

namespace Sys2Proof.Machine

/-- The line commands of the monitor with their rows of R498 and their arguments. -/
def monRowOf : Instr → Option (MonRow × List (Option Nat))
  | .monitorSt => some ({ legal := allStates, argc := fun n => n == 0 }, [])
  | .rr l => some (rrRow, l)
  | .wr l => some (wrRow, l)
  | .mr l => some (mrRow, l)
  | .sr l => some (srRow, l)
  | .sw l => some (swRow, l)
  | .log l => some (logRow, l)
  | .jr l => some (jrRow, l)
  | .fw l => some (fwRow, l)
  | .fv => some ({ legal := [.moored, .ready], argc := fun n => n == 0, busy := fun s => s.boot.flashOp.isSome }, [])
  | .monitorReset => some ({ legal := allStates, argc := fun n => n == 0 }, [])
  | _ => none

/-- A line has been counted (R502). -/
def State.lined (s : State) : State := { s with mon := { s.mon with lines := s.mon.lines + 1 } }

/-- The state with a reply of the monitor. -/
def State.said (s : State) (ls : List MonLine) : State := { s with mon := { s.mon with out := ls } }

/-- A line with the numbers l passes every check of its row. -/
def Accepted (r : MonRow) (l : List Nat) (s : State) : Prop :=
  s.monTakes = true ∧ r.allowed s = true ∧ r.argc l.length = true ∧ r.busy s = false ∧ r.args l s = true

end Sys2Proof.Machine

/-- A line is discarded while the monitor's pins are undriven, a data phase or a flash operation of its own runs. Otherwise it is
counted and checked in the order of R464: wrong state, or mr, sr and sw
while parked, ERR 0x10, wrong argument count 0x13, flash busy 0x15, no number or out of
range 0x14; an error changes nothing else. An accepted rr replies with the registers it reads, wr writes one, mr the DRAM bytes in
lines of 16, sr the narrow-view words of a powered core whose banks hold their bytes, as they stood before the writes of the cycle,
zero beyond the scratchpad, sw stores one word in the scratchpad of a core nobody owns, once its bank is ON, a late write where that
slept, and is otherwise counted, without effect beyond the scratchpad, log and jr the newest diagnostic records and the journal from a SEQ on, st the status
words, fw SEND and the data phase, fv begins the check, reset is armed. Each data byte of fw is kept; the last one, with the right
check word, begins the erase and program, a wrong one is ERR 0x12. A timeout is ERR 0x13. An unknown word is ERR 0x11, a line too
long 0x13, a framing error is counted, a break changes nothing. -/
def Obligations.MonitorLines : Prop :=
  ∀ s : State,
    (∀ c r l, monRowOf c = some (r, l) →
      (s.monTakes = false → Completes c s (fun t => t = s)) ∧
      (s.monTakes = true →
        (r.allowed s = false → Completes c s (fun t => t = s.lined.said [.err 0x10])) ∧
        (r.allowed s = true → r.argc l.length = false → Completes c s (fun t => t = s.lined.said [.err 0x13])) ∧
        (r.allowed s = true → r.argc l.length = true → r.busy s = true → Completes c s (fun t => t = s.lined.said [.err 0x15])) ∧
        (r.allowed s = true → r.argc l.length = true → r.busy s = false → none ∈ l → Completes c s (fun t => t = s.lined.said [.err 0x14])) ∧
        (∀ ns, r.allowed s = true → r.argc l.length = true → r.busy s = false → l = ns.map some → r.args ns s = false →
          Completes c s (fun t => t = s.lined.said [.err 0x14])))) ∧
    (s.monTakes = true → Completes .monitorSt s (fun t => t = s.lined.said
      [.named "STATE" (BitVec.ofNat 32 s.dev.code), .named "BOOT_STATUS" s.bootStatus, .named "BOOT_TALLY" (s.boot.tally.setWidth 32),
       .named "ISL_ADMIT_STATE" s.admitState, .named "SAFE_STATUS" s.safeStatus, .named "PWR_STATUS" s.pwrStatus, .named "MEM_PARK" s.memPark, .ok])) ∧
    (∀ l, Accepted rrRow l s → Completes (.rr (l.map some)) s (fun t =>
      let n := countArg 0 1 64 l
      let q := regReads n (arg l 0) s.lined
      t = q.2.said t.mon.out ∧ t.mon.out.length = n + 1 ∧ t.mon.out[n]? = some .ok ∧ (1 < l.length → n = arg l 1) ∧ 1 ≤ n ∧ n ≤ 64 ∧
      ∀ i, i < n → t.mon.out[i]? = some (.reg (arg l 0 + 4 * i) (q.1.getD i 0)))) ∧
    (∀ a w, Accepted wrRow [a, w] s → Completes (.wr [some a, some w]) s (fun t =>
      t = (regWrite a (BitVec.ofNat 32 w) s.lined).said [.ok])) ∧
    (∀ a n, Accepted mrRow [a, n] s → Completes (.mr [some a, some n]) s (fun t =>
      t = { s.lined.said t.mon.out with free := s.free + n } ∧ t.mon.out.length = (n + 15) / 16 + 1 ∧
      t.mon.out[(n + 15) / 16]? = some .ok ∧ (s.dom.phy ≠ 0 → ∀ i, 16 * i < n →
        t.mon.out[i]? = some (.raw (s.dramBytes (a + 16 * i) (min 16 (n - 16 * i))))))) ∧
    (∀ (c : Fin 64) off n, Accepted srRow [c.1, off, n] s → Completes (.sr [some c.1, some off, some n]) s (fun t =>
      let s1 := settleCore (coreUnit c) s.lined
      let k := s1.cores[coreUnit c]
      t = { s1.said t.mon.out with free := s1.free + 8 * n } ∧ t.mon.out.length = n + 1 ∧ t.mon.out[n]? = some .ok ∧
      (s1.coreOn c.1 = true → ∀ i, i < n → off + 8 * i < 2 ^ 23 → (∀ b ∈ banksOf [(off + 8 * i, 8)], (k.banks[b]).at_ s1.clk.raw ≠ .sleepOff) →
        t.mon.out[i]? = some (.quad (BitVec.ofNat 64 (leNat ((List.range 8).map fun x => k.before s1.clk.raw (off + 8 * i + x)))))) ∧
      (∀ i, i < n → 2 ^ 23 ≤ off + 8 * i → t.mon.out[i]? = some (.quad 0)))) ∧
    (∀ (c : Fin 64) off v, Accepted swRow [c.1, off, v] s → Completes (.sw [some c.1, some off, some v]) s (fun t =>
      let u := coreUnit c
      let s1 := settleCore u s.lined
      t.mon.out = [.ok] ∧ t.mem = s1.mem ∧ t.jobs = s1.jobs ∧ t.clk = s.clk ∧
      ((s1.coreOn c.1 = false ∨ 2 ^ 23 ≤ off) → t = s1.said [.ok]) ∧
      (off < 2 ^ 23 → s1.coreOn c.1 = true → s1.coreFree c.1 = false →
        (t.cores[u]).pad = (s1.cores[u]).pad ∧ (t.cores[u]).seq.narrowCnt = satInc (s1.cores[u]).seq.narrowCnt) ∧
      (off < 2 ^ 23 → s1.coreOn c.1 = true → s1.coreFree c.1 = true → Cells.wf 0 (s1.cores[u]).pad = true → (s1.cores[u]).narrow = [] →
        ((∀ b ∈ banksOf [(off, 8)], ((s1.cores[u]).banks[b]).at_ s1.clk.raw = .on) →
          Cells.gets 0 (t.cores[u]).pad off 8 = natLE 8 v ∧ (t.cores[u]).narrow = [] ∧ (t.cores[u]).banks = (s1.cores[u]).banks ∧
          ∀ x, x < off ∨ off + 8 ≤ x → Cells.get 0 (t.cores[u]).pad x = Cells.get 0 (s1.cores[u]).pad x) ∧
        (∀ b ∈ banksOf [(off, 8)], ((s1.cores[u]).banks[b]).at_ s1.clk.raw ≠ .on → (t.cores[u]).narrow = [(off, v)] ∧
          (t.cores[u]).seq.lateCnt = (if ((s1.cores[u]).banks[b]).asleep s1.clk.raw then satInc (s1.cores[u]).seq.lateCnt
            else (s1.cores[u]).seq.lateCnt))))) ∧
    (∀ l, Accepted logRow l s → Completes (.log (l.map some)) s (fun t =>
      let d := s.jrnl.diag.drop (s.jrnl.diag.length - countArg 1 0 256 l)
      t = { s.lined.said t.mon.out with free := s.free + 256 } ∧ t.mon.out.length = d.length + 1 ∧ t.mon.out[d.length]? = some .ok ∧
      ∀ (i : Nat) (r : JRec), d[i]? = some r → ∃ q, t.mon.out[i]? = some (MonLine.raw (r.bytes q)))) ∧
    (∀ l, Accepted jrRow l s → Completes (.jr (l.map some)) s (fun t => t = s.lined.said
      ((readJournal s.boot.flash (BitVec.ofNat 32 (arg l 0)) (countArg 2 1 64 l)).map MonLine.raw ++ [.ok]))) ∧
    (∀ a n, Accepted fwRow [a, n] s → Completes (.fw [some a, some n]) s (fun t =>
      t = { s with mon := { s.mon with lines := s.mon.lines + 1, fw := some (a, n, []), out := [.send] } })) ∧
    (∀ b, s.mon.fw = none → Completes (.fwDataByte b) s (fun t => t = s) ∧ Completes .fwDataTimeout s (fun t => t = s)) ∧
    (∀ a n bs b, s.mon.fw = some (a, n, bs) → s.pins.uart = true →
      (bs.length + 1 < n + 4 → Completes (.fwDataByte b) s (fun t => t = { s with mon := { s.mon with fw := some (a, n, bs ++ [b]) } })) ∧
      (bs.length + 1 = n + 4 →
        let d := (bs ++ [b]).take n
        (leNat ((bs ++ [b]).drop n) ≠ (crc32c d).toNat → Completes (.fwDataByte b) s (fun t =>
          t = { s with mon := { s.mon with fw := none, out := [.err 0x12] } })) ∧
        (leNat ((bs ++ [b]).drop n) = (crc32c d).toNat → s.boot.flashOp = none → Completes (.fwDataByte b) s (fun t =>
          t = { s with mon := { s.mon with fw := none, out := [] }
                       boot := { s.boot with flashOp := some (FlashOp.mk false false a n d) } }))) ∧
      Completes .fwDataTimeout s (fun t => t = { s with mon := { s.mon with fw := none, out := [.err 0x13] } })) ∧
    (s.monTakes = true → s.dev ∈ [DevState.moored, .ready] → s.boot.flashOp = none → Completes .fv s (fun t =>
      t = { s.lined.said [] with boot := { s.boot with flashOp := some (FlashOp.mk false true 0 0 []) } })) ∧
    (s.monTakes = true → Completes .monitorReset s (fun t => t.rst = { s.rst with hostReset := true } ∧ t.mon = (s.lined.said [.ok]).mon ∧
      t.mem = s.mem ∧ t.jobs = s.jobs ∧ t.dev = s.dev ∧ (s.jrnl.diag.length < 256 → t.jrnl.diag.length = s.jrnl.diag.length + 1))) ∧
    (s.monTakes = true → Completes .lineTooLong s (fun t => t = s.lined.said [.err 0x13]) ∧
      Completes .unknownCommandWord s (fun t => t = s.lined.said [.err 0x11])) ∧
    (s.monTakes = false → Completes .lineTooLong s (fun t => t = s) ∧ Completes .unknownCommandWord s (fun t => t = s)) ∧
    Completes .uartBreak s (fun t => t = s) ∧
    (s.pins.uart = true → Completes .uartFramingError s (fun t => t = { s with mon := { s.mon with framing := satInc s.mon.framing } }))
end

