-- ==== Sys2Proof/Laws/Mem.lean ====
section
/-! SUPPORT. The laws of a sparse memory: every operation keeps the canonical form, a read gives what was last written at its
address, and a write leaves every other address alone. -/

namespace Sys2Proof.Machine

variable {w : Nat}

/-- Canonical form below a bound, stated of the first cell. -/
theorem Cells.wfFrom_cons {d : BitVec w} {lo : Option Nat} {a : Nat} {v : BitVec w} {m : Cells w} :
    Cells.wfFrom d lo ((a, v) :: m) = true ↔ (∀ l, lo = some l → l < a) ∧ v ≠ d ∧ Cells.wfFrom d (some a) m = true := by
  cases lo <;> simp [Cells.wfFrom, and_assoc]

/-- A lower bound may be lowered. -/
theorem Cells.wfFrom_mono {d : BitVec w} {lo lo' : Option Nat} {m : Cells w}
    (h : Cells.wfFrom d lo m = true) (hl : ∀ l, lo' = some l → ∃ k, lo = some k ∧ l ≤ k) : Cells.wfFrom d lo' m = true := by
  cases m with
  | nil => simp [Cells.wfFrom]
  | cons c m =>
    obtain ⟨a, v⟩ := c
    rw [Cells.wfFrom_cons] at h ⊢
    refine ⟨fun l hl' => ?_, h.2⟩
    obtain ⟨k, hk, hkl⟩ := hl l hl'
    have := h.1 k hk
    omega

/-- Canonical form without a bound. -/
theorem Cells.wf_of_wfFrom {d : BitVec w} {lo : Option Nat} {m : Cells w} (h : Cells.wfFrom d lo m = true) :
    Cells.wf d m = true := Cells.wfFrom_mono h (by simp)

@[simp] theorem Cells.wf_nil {d : BitVec w} : Cells.wf d ([] : Cells w) = true := rfl

/-- A write keeps the canonical form above a bound. -/
theorem Cells.wfFrom_put {d : BitVec w} {lo : Option Nat} {m : Cells w} {a : Nat} {x : BitVec w}
    (h : Cells.wfFrom d lo m = true) (hl : ∀ l, lo = some l → l < a) : Cells.wfFrom d lo (Cells.put d m a x) = true := by
  induction m generalizing lo with
  | nil =>
    by_cases hx : x = d
    · simp [Cells.put, hx, Cells.wfFrom]
    · simp only [Cells.put, hx, if_false]
      rw [Cells.wfFrom_cons]
      exact ⟨hl, hx, by simp [Cells.wfFrom]⟩
  | cons c m ih =>
    obtain ⟨b, v⟩ := c
    rw [Cells.wfFrom_cons] at h
    obtain ⟨h1, h2, h3⟩ := h
    unfold Cells.put
    split
    · rename_i hab
      subst hab
      split
      · exact Cells.wfFrom_mono h3 (fun l hl' => ⟨a, rfl, Nat.le_of_lt (h1 l hl')⟩)
      · rw [Cells.wfFrom_cons]
        exact ⟨h1, by assumption, h3⟩
    · split
      · split
        · rw [Cells.wfFrom_cons]
          exact ⟨h1, h2, h3⟩
        · rw [Cells.wfFrom_cons]
          refine ⟨hl, by assumption, ?_⟩
          rw [Cells.wfFrom_cons]
          exact ⟨fun l hl' => by cases hl'; assumption, h2, h3⟩
      · rw [Cells.wfFrom_cons]
        exact ⟨h1, h2, ih h3 (fun l hl' => by cases hl'; omega)⟩

/-- A write keeps the canonical form. -/
@[simp] theorem Cells.wf_put {d : BitVec w} {m : Cells w} {a : Nat} {x : BitVec w} (h : Cells.wf d m = true) :
    Cells.wf d (Cells.put d m a x) = true := Cells.wfFrom_put h (by simp)

/-- A write of several cells keeps the canonical form. -/
@[simp] theorem Cells.wf_puts {d : BitVec w} {m : Cells w} {a : Nat} {xs : List (BitVec w)} (h : Cells.wf d m = true) :
    Cells.wf d (Cells.puts d m a xs) = true := by
  induction xs generalizing m a with
  | nil => exact h
  | cons x xs ih => exact ih (Cells.wf_put h)

/-- Leaving cells out keeps the canonical form above a bound. -/
theorem Cells.wfFrom_filter {d : BitVec w} {lo : Option Nat} {m : Cells w} {p : Nat × BitVec w → Bool}
    (h : Cells.wfFrom d lo m = true) : Cells.wfFrom d lo (m.filter p) = true := by
  induction m generalizing lo with
  | nil => exact h
  | cons c m ih =>
    obtain ⟨b, v⟩ := c
    rw [Cells.wfFrom_cons] at h
    rw [List.filter_cons]
    split
    · rw [Cells.wfFrom_cons]
      exact ⟨h.1, h.2.1, ih h.2.2⟩
    · exact Cells.wfFrom_mono (ih h.2.2) (fun l hl => ⟨b, rfl, Nat.le_of_lt (h.1 l hl)⟩)

/-- Leaving cells out keeps the canonical form. -/
@[simp] theorem Cells.wf_filter {d : BitVec w} {m : Cells w} {p : Nat × BitVec w → Bool} (h : Cells.wf d m = true) :
    Cells.wf d (m.filter p) = true := Cells.wfFrom_filter h

/-- Clearing a range keeps the canonical form. -/
@[simp] theorem Cells.wf_clear {d : BitVec w} {m : Cells w} {a n : Nat} (h : Cells.wf d m = true) :
    Cells.wf d (Cells.clear m a n) = true := Cells.wf_filter h

/-- Every address of a memory in canonical form lies above its bound. -/
theorem Cells.lt_of_mem {d : BitVec w} {l : Nat} {m : Cells w} (h : Cells.wfFrom d (some l) m = true) :
    ∀ c ∈ m, l < c.1 := by
  induction m generalizing l with
  | nil => simp
  | cons c m ih =>
    obtain ⟨b, v⟩ := c
    rw [Cells.wfFrom_cons] at h
    intro c hc
    have hb := h.1 l rfl
    rcases List.mem_cons.mp hc with rfl | hc
    · exact hb
    · exact Nat.lt_trans hb (ih h.2.2 c hc)

/-- Two memories one above the other, joined. -/
theorem Cells.wfFrom_append {d : BitVec w} {lo : Option Nat} {b : Nat} {m n : Cells w} (hm : Cells.wfFrom d lo m = true)
    (hmb : ∀ c ∈ m, c.1 < b) (hlb : ∀ l, lo = some l → l < b) (hn : Cells.wf d n = true) (hnb : ∀ c ∈ n, b ≤ c.1) :
    Cells.wfFrom d lo (m ++ n) = true := by
  induction m generalizing lo with
  | nil =>
    cases n with
    | nil => simp [Cells.wfFrom]
    | cons c n =>
      obtain ⟨a, v⟩ := c
      have hc := hnb (a, v) (by simp)
      simp only [List.nil_append]
      unfold Cells.wf at hn
      rw [Cells.wfFrom_cons] at hn ⊢
      exact ⟨fun l hl => Nat.lt_of_lt_of_le (hlb l hl) hc, hn.2⟩
  | cons c m ih =>
    obtain ⟨a, v⟩ := c
    rw [Cells.wfFrom_cons] at hm
    rw [List.cons_append, Cells.wfFrom_cons]
    have ha := hmb (a, v) (by simp)
    exact ⟨hm.1, hm.2.1, ih hm.2.2 (fun c hc => hmb c (by simp [hc])) (fun l hl => by cases hl; exact ha)⟩

/-- A memory moved upward keeps the canonical form. -/
theorem Cells.wfFrom_shift {d : BitVec w} {m : Cells w} (f : Nat → Nat) (lo : Option Nat)
    (hf : ∀ l, lo = some l → ∀ c ∈ m, f l < f c.1) (hmono : ∀ c ∈ m, ∀ e ∈ m, c.1 < e.1 → f c.1 < f e.1)
    (h : Cells.wfFrom d lo m = true) : Cells.wfFrom d (lo.map f) (m.map fun c => (f c.1, c.2)) = true := by
  induction m generalizing lo with
  | nil => simp [Cells.wfFrom]
  | cons c m ih =>
    obtain ⟨a, v⟩ := c
    have hlt := Cells.lt_of_mem (Cells.wfFrom_cons.mp h).2.2
    rw [Cells.wfFrom_cons] at h
    rw [List.map_cons, Cells.wfFrom_cons]
    refine ⟨fun l hl => ?_, h.2.1, ?_⟩
    · cases lo with
      | none => simp at hl
      | some k =>
        have : f k = l := by simpa using hl
        rw [← this]
        exact hf k rfl (a, v) (by simp)
    · refine ih (some a) (fun l hl c hc => ?_) (fun c hc e he => hmono c (by simp [hc]) e (by simp [he])) h.2.2
      cases hl
      exact hmono (a, v) (by simp) c (by simp [hc]) (hlt c hc)

/-- A copy from another memory keeps the canonical form. -/
@[simp] theorem Cells.wf_blit {d : BitVec w} {m src : Cells w} {a b n : Nat} (hm : Cells.wf d m = true)
    (hs : Cells.wf d src = true) : Cells.wf d (Cells.blit m src a b n) = true := by
  have h2 : Cells.wf d ((src.filter fun c => b ≤ c.1 && c.1 < b + n).map fun c => (c.1 - b + a, c.2)) = true := by
    refine Cells.wfFrom_shift (fun x => x - b + a) none (by simp) (fun c hc e he hlt => ?_) (Cells.wf_filter hs)
    simp only [List.mem_filter, Bool.and_eq_true, decide_eq_true_eq] at hc he
    omega
  unfold Cells.blit
  rw [List.append_assoc]
  refine Cells.wfFrom_append (b := a) (Cells.wf_filter hm) (fun c hc => ?_) (by simp) ?_ (fun c hc => ?_)
  · simpa using (List.mem_filter.mp hc).2
  · refine Cells.wfFrom_append (b := a + n) h2 (fun c hc => ?_) (by simp) (Cells.wf_filter hm) (fun c hc => ?_)
    · obtain ⟨e, he, rfl⟩ := List.mem_map.mp hc
      simp only [List.mem_filter, Bool.and_eq_true, decide_eq_true_eq] at he
      simp only
      omega
    · simpa using (List.mem_filter.mp hc).2
  · rcases List.mem_append.mp hc with hc | hc
    · obtain ⟨e, he, rfl⟩ := List.mem_map.mp hc
      simp only
      omega
    · have : a + n ≤ c.1 := by simpa using (List.mem_filter.mp hc).2
      omega

/-! ### Reads after writes -/

/-- What lies below a memory's first address reads the default. -/
theorem Cells.get_below {d : BitVec w} {l a : Nat} {m : Cells w} (h : Cells.wfFrom d (some l) m = true) (ha : a ≤ l) :
    Cells.get d m a = d := by
  cases m with
  | nil => rfl
  | cons c m =>
    obtain ⟨b, v⟩ := c
    rw [Cells.wfFrom_cons] at h
    have := h.1 l rfl
    unfold Cells.get
    rw [if_neg (by omega), if_pos (by omega)]

/-- A read gives the value just written there. -/
@[simp] theorem Cells.get_put_same {d : BitVec w} {m : Cells w} {a : Nat} {x : BitVec w} (h : Cells.wf d m = true) :
    Cells.get d (Cells.put d m a x) a = x := by
  unfold Cells.wf at h
  revert h
  generalize none = lo
  induction m generalizing lo with
  | nil =>
    intro _
    by_cases hx : x = d <;> simp [Cells.put, Cells.get, hx]
  | cons c m ih =>
    obtain ⟨b, v⟩ := c
    intro h
    rw [Cells.wfFrom_cons] at h
    unfold Cells.put
    split
    · rename_i hab
      subst hab
      split
      · rename_i hx
        rw [Cells.get_below h.2.2 (Nat.le_refl _), hx]
      · simp [Cells.get]
    · split
      · split
        · rename_i h1 h2 hx
          simp [Cells.get, h1, h2, hx]
        · simp [Cells.get]
      · rename_i h1 h2
        unfold Cells.get
        rw [if_neg h1, if_neg h2]
        exact ih _ h.2.2

/-- The first cell of a memory and the rest. -/
theorem Cells.get_cons {d : BitVec w} {b a : Nat} {v : BitVec w} {m : Cells w} :
    Cells.get d ((b, v) :: m) a = if a = b then v else if a < b then d else Cells.get d m a := rfl

/-- A write leaves every other address alone. -/
theorem Cells.get_put_other {d : BitVec w} {m : Cells w} {a b : Nat} {x : BitVec w} (h : Cells.wf d m = true) (hab : b ≠ a) :
    Cells.get d (Cells.put d m a x) b = Cells.get d m b := by
  unfold Cells.wf at h
  revert h
  generalize none = lo
  induction m generalizing lo with
  | nil =>
    intro _
    by_cases hx : x = d
    · simp [Cells.put, hx]
    · simp [Cells.put, hx, Cells.get_cons, hab, Cells.get]
  | cons c m ih =>
    obtain ⟨e, v⟩ := c
    intro h
    rw [Cells.wfFrom_cons] at h
    unfold Cells.put
    split
    · rename_i hae
      subst hae
      split
      · rw [Cells.get_cons, if_neg hab]
        split
        · exact Cells.get_below h.2.2 (by omega)
        · rfl
      · simp [Cells.get_cons, hab]
    · split
      · split
        · rfl
        · rename_i h1 h2 _
          rw [Cells.get_cons, if_neg hab]
          split
          · rw [Cells.get_cons, if_neg (by omega), if_pos (by omega)]
          · rfl
      · rw [Cells.get_cons, Cells.get_cons]
        split
        · rfl
        · split
          · rfl
          · exact ih _ h.2.2

/-- A write of several cells leaves the addresses outside them alone. -/
theorem Cells.get_puts_other {d : BitVec w} {m : Cells w} {a b : Nat} {xs : List (BitVec w)} (h : Cells.wf d m = true)
    (hb : b < a ∨ a + xs.length ≤ b) : Cells.get d (Cells.puts d m a xs) b = Cells.get d m b := by
  induction xs generalizing m a with
  | nil => rfl
  | cons x xs ih =>
    simp only [List.length_cons] at hb
    unfold Cells.puts
    rw [ih (Cells.wf_put h) (by omega), Cells.get_put_other h (by omega)]

/-- A read gives the values just written. -/
theorem Cells.gets_puts_same {d : BitVec w} {m : Cells w} {a : Nat} {xs : List (BitVec w)} (h : Cells.wf d m = true) :
    Cells.gets d (Cells.puts d m a xs) a xs.length = xs := by
  induction xs generalizing m a with
  | nil => rfl
  | cons x xs ih =>
    unfold Cells.puts
    simp only [List.length_cons, Cells.gets]
    rw [ih (Cells.wf_put h), Cells.get_puts_other (Cells.wf_put h) (by omega), Cells.get_put_same h]

/-- A listed cell is what its address reads as. -/
theorem Cells.get_of_mem {d : BitVec w} {m : Cells w} {a : Nat} {v : BitVec w} (h : Cells.wf d m = true) (hm : (a, v) ∈ m) :
    Cells.get d m a = v := by
  induction m with
  | nil => simp at hm
  | cons c m ih =>
    obtain ⟨b, x⟩ := c
    have h' := Cells.wfFrom_cons.mp h
    rcases List.mem_cons.mp hm with hm | hm
    · cases hm; simp [Cells.get_cons]
    · have := Cells.lt_of_mem h'.2.2 _ hm
      simp only at this
      simp only [Cells.get_cons, show ¬ a = b by omega, show ¬ a < b by omega, if_false]
      exact ih (Cells.wf_of_wfFrom h'.2.2) hm

/-- An address that no cell lists reads as the default. -/
theorem Cells.get_of_not_mem {d : BitVec w} {m : Cells w} {a : Nat} (hm : ∀ v, (a, v) ∉ m) : Cells.get d m a = d := by
  induction m with
  | nil => rfl
  | cons c m ih =>
    obtain ⟨b, x⟩ := c
    have hb : a ≠ b := by rintro rfl; exact hm x (List.mem_cons_self ..)
    rw [Cells.get_cons, if_neg hb]
    split
    · rfl
    · exact ih fun v hv => hm v (List.mem_cons_of_mem _ hv)

/-- Two canonical memories that list the same cell at a, or neither lists one, read the same there. -/
theorem Cells.get_congr {d : BitVec w} {m n : Cells w} {a b : Nat} (hm : Cells.wf d m = true) (hn : Cells.wf d n = true)
    (h : ∀ v, (a, v) ∈ m ↔ (b, v) ∈ n) : Cells.get d m a = Cells.get d n b := by
  by_cases he : ∃ v, (a, v) ∈ m
  · obtain ⟨v, hv⟩ := he
    rw [Cells.get_of_mem hm hv, Cells.get_of_mem hn ((h v).mp hv)]
  · have h1 : ∀ v, (a, v) ∉ m := fun v hv => he ⟨v, hv⟩
    rw [Cells.get_of_not_mem h1, Cells.get_of_not_mem fun v hv => h1 v ((h v).mpr hv)]

/-- A cleared range reads as the default, every other address as before. -/
theorem Cells.get_clear {d : BitVec w} {m : Cells w} {a n x : Nat} (h : Cells.wf d m = true) :
    Cells.get d (Cells.clear m a n) x = if a ≤ x ∧ x < a + n then d else Cells.get d m x := by
  split
  · rename_i hx
    apply Cells.get_of_not_mem
    intro v hv
    simp [Cells.clear] at hv
    omega
  · rename_i hx
    apply Cells.get_congr (Cells.wf_clear h) h
    intro v
    simp [Cells.clear]
    omega

/-- Copied cells read as they do in their source, every other address as before. -/
theorem Cells.get_blit {d : BitVec w} {m src : Cells w} {a b n x : Nat} (h : Cells.wf d m = true) (hs : Cells.wf d src = true) :
    Cells.get d (Cells.blit m src a b n) x =
      if a ≤ x ∧ x < a + n then Cells.get d src (x - a + b) else Cells.get d m x := by
  have hb := Cells.wf_blit (a := a) (b := b) (n := n) h hs
  split
  · rename_i hx
    apply Cells.get_congr hb hs
    intro v
    simp only [Cells.blit, List.mem_append, List.mem_filter, List.mem_map]
    constructor
    · rintro ((⟨_, h2⟩ | ⟨c, ⟨h1, h2⟩, h3⟩) | ⟨_, h2⟩)
      · simp at h2; omega
      · simp at h2 h3
        obtain ⟨c1, c2⟩ := c
        simp only at h2 h3
        have : x - a + b = c1 := by omega
        rw [this, ← h3.2]; exact h1
      · simp at h2; omega
    · intro h1
      refine .inl (.inr ⟨_, ⟨h1, ?_⟩, ?_⟩)
      · simp; omega
      · simp; omega
  · rename_i hx
    apply Cells.get_congr hb h
    intro v
    simp only [Cells.blit, List.mem_append, List.mem_filter, List.mem_map]
    constructor
    · rintro ((⟨h1, _⟩ | ⟨c, ⟨h1, h2⟩, h3⟩) | ⟨h1, _⟩)
      · exact h1
      · simp at h2 h3; omega
      · exact h1
    · intro h1
      rcases Nat.lt_or_ge x a with hl | hl
      · exact .inl (.inl ⟨h1, by simpa using hl⟩)
      · exact .inr ⟨h1, by simp; omega⟩

/-- No listed cell holds the default. -/
theorem Cells.ne_of_mem {d : BitVec w} {lo : Option Nat} {m : Cells w} {a : Nat} {v : BitVec w} (h : Cells.wfFrom d lo m = true)
    (hm : (a, v) ∈ m) : v ≠ d := by
  induction m generalizing lo with
  | nil => simp at hm
  | cons c m ih =>
    obtain ⟨b, x⟩ := c
    have h' := Cells.wfFrom_cons.mp h
    rcases List.mem_cons.mp hm with hm | hm
    · cases hm; exact h'.2.1
    · exact ih h'.2.2 hm

/-- New values at the listed addresses, the defaults among them left out, keep the canonical form above a bound. -/
theorem Cells.wfFrom_refill {d : BitVec w} {lo : Option Nat} {m : Cells w} (g : Nat → BitVec w) (h : Cells.wfFrom d lo m = true) :
    Cells.wfFrom d lo ((m.map fun c => (c.1, g c.1)).filter fun c => c.2 != d) = true := by
  induction m generalizing lo with
  | nil => rfl
  | cons c m ih =>
    obtain ⟨b, v⟩ := c
    rw [Cells.wfFrom_cons] at h
    rw [List.map_cons, List.filter_cons]
    split
    · rename_i hg
      rw [Cells.wfFrom_cons]
      exact ⟨h.1, by simpa using hg, ih h.2.2⟩
    · exact Cells.wfFrom_mono (ih h.2.2) (fun l hl => ⟨b, rfl, Nat.le_of_lt (h.1 l hl)⟩)

/-- New values at the listed addresses keep the canonical form. -/
@[simp] theorem Cells.wf_refill {d : BitVec w} {m : Cells w} (g : Nat → BitVec w) (h : Cells.wf d m = true) :
    Cells.wf d ((m.map fun c => (c.1, g c.1)).filter fun c => c.2 != d) = true := Cells.wfFrom_refill g h

/-- What a memory reads as that has new values at its listed addresses. -/
theorem Cells.get_refill {d : BitVec w} {m : Cells w} (g : Nat → BitVec w) (h : Cells.wf d m = true) (a : Nat) :
    Cells.get d ((m.map fun c => (c.1, g c.1)).filter fun c => c.2 != d) a = if Cells.get d m a = d then d else g a := by
  by_cases he : ∃ v, (a, v) ∈ m
  · obtain ⟨v, hv⟩ := he
    rw [Cells.get_of_mem h hv, if_neg (Cells.ne_of_mem h hv)]
    by_cases hg : g a = d
    · rw [hg]
      refine Cells.get_of_not_mem fun x hx => ?_
      simp only [List.mem_filter, List.mem_map, Prod.mk.injEq] at hx
      obtain ⟨⟨c, _, rfl, rfl⟩, h2⟩ := hx
      simp [hg] at h2
    · refine Cells.get_of_mem (Cells.wf_refill g h) ?_
      simp only [List.mem_filter, List.mem_map]
      exact ⟨⟨(a, v), hv, rfl⟩, by simpa using hg⟩
  · have h1 : ∀ v, (a, v) ∉ m := fun v hv => he ⟨v, hv⟩
    rw [Cells.get_of_not_mem h1, if_pos rfl]
    refine Cells.get_of_not_mem fun x hx => ?_
    simp only [List.mem_filter, List.mem_map, Prod.mk.injEq] at hx
    obtain ⟨⟨c, hc, rfl, _⟩, _⟩ := hx
    exact h1 c.2 hc

end Sys2Proof.Machine
end

