-- ==== Sys2Proof/Laws/State.lean ====
section
/-! SUPPORT. What each field of State holds after each named update of State: one equation per field and update. -/

namespace Sys2Proof.Machine

/-! ### State.takeFree -/

@[simp] theorem State.takeFree_part (s : State) : (State.takeFree s).part = s.part := rfl
@[simp] theorem State.takeFree_clk (s : State) : (State.takeFree s).clk = s.clk := rfl
@[simp] theorem State.takeFree_cfg (s : State) : (State.takeFree s).cfg = s.cfg := rfl
@[simp] theorem State.takeFree_con (s : State) : (State.takeFree s).con = s.con := rfl
@[simp] theorem State.takeFree_jobs (s : State) : (State.takeFree s).jobs = s.jobs := rfl
@[simp] theorem State.takeFree_det (s : State) : (State.takeFree s).det = s.det := rfl
@[simp] theorem State.takeFree_safe (s : State) : (State.takeFree s).safe = s.safe := rfl
@[simp] theorem State.takeFree_pwr (s : State) : (State.takeFree s).pwr = s.pwr := rfl
@[simp] theorem State.takeFree_dom (s : State) : (State.takeFree s).dom = s.dom := rfl
@[simp] theorem State.takeFree_rst (s : State) : (State.takeFree s).rst = s.rst := rfl
@[simp] theorem State.takeFree_boot (s : State) : (State.takeFree s).boot = s.boot := rfl
@[simp] theorem State.takeFree_jrnl (s : State) : (State.takeFree s).jrnl = s.jrnl := rfl
@[simp] theorem State.takeFree_card (s : State) : (State.takeFree s).card = s.card := rfl
@[simp] theorem State.takeFree_host (s : State) : (State.takeFree s).host = s.host := rfl
@[simp] theorem State.takeFree_sec (s : State) : (State.takeFree s).sec = s.sec := rfl
@[simp] theorem State.takeFree_mon (s : State) : (State.takeFree s).mon = s.mon := rfl
@[simp] theorem State.takeFree_pins (s : State) : (State.takeFree s).pins = s.pins := rfl
@[simp] theorem State.takeFree_dev (s : State) : (State.takeFree s).dev = s.dev := rfl
@[simp] theorem State.takeFree_cores (s : State) : (State.takeFree s).cores = s.cores := rfl
@[simp] theorem State.takeFree_rills (s : State) : (State.takeFree s).rills = s.rills := rfl
@[simp] theorem State.takeFree_chans (s : State) : (State.takeFree s).chans = s.chans := rfl
@[simp] theorem State.takeFree_mem (s : State) : (State.takeFree s).mem = s.mem := rfl
@[simp] theorem State.takeFree_sens (s : State) : (State.takeFree s).sens = s.sens := rfl
@[simp] theorem State.takeFree_time (s : State) : (State.takeFree s).time = s.time := rfl
@[simp] theorem State.takeFree_dsp (s : State) : (State.takeFree s).dsp = s.dsp := rfl
@[simp] theorem State.takeFree_iq (s : State) : (State.takeFree s).iq = s.iq := rfl
@[simp] theorem State.takeFree_radio (s : State) : (State.takeFree s).radio = s.radio := rfl
@[simp] theorem State.takeFree_latch (s : State) : (State.takeFree s).latch = s.latch := rfl
@[simp] theorem State.takeFree_fresh (s : State) : (State.takeFree s).fresh = s.fresh := rfl
@[simp] theorem State.takeFree_free (s : State) : (State.takeFree s).free = s.free + 1 := rfl
@[simp] theorem State.takeFree_pending (s : State) : (State.takeFree s).pending = s.pending := rfl

/-! ### modCard -/

@[simp] theorem modCard_part (f : Card → Card) (s : State) : (modCard f s).part = s.part := rfl
@[simp] theorem modCard_clk (f : Card → Card) (s : State) : (modCard f s).clk = s.clk := rfl
@[simp] theorem modCard_cfg (f : Card → Card) (s : State) : (modCard f s).cfg = s.cfg := rfl
@[simp] theorem modCard_con (f : Card → Card) (s : State) : (modCard f s).con = s.con := rfl
@[simp] theorem modCard_jobs (f : Card → Card) (s : State) : (modCard f s).jobs = s.jobs := rfl
@[simp] theorem modCard_det (f : Card → Card) (s : State) : (modCard f s).det = s.det := rfl
@[simp] theorem modCard_safe (f : Card → Card) (s : State) : (modCard f s).safe = s.safe := rfl
@[simp] theorem modCard_pwr (f : Card → Card) (s : State) : (modCard f s).pwr = s.pwr := rfl
@[simp] theorem modCard_dom (f : Card → Card) (s : State) : (modCard f s).dom = s.dom := rfl
@[simp] theorem modCard_rst (f : Card → Card) (s : State) : (modCard f s).rst = s.rst := rfl
@[simp] theorem modCard_boot (f : Card → Card) (s : State) : (modCard f s).boot = s.boot := rfl
@[simp] theorem modCard_jrnl (f : Card → Card) (s : State) : (modCard f s).jrnl = s.jrnl := rfl
@[simp] theorem modCard_card (f : Card → Card) (s : State) : (modCard f s).card = f s.card := rfl
@[simp] theorem modCard_host (f : Card → Card) (s : State) : (modCard f s).host = s.host := rfl
@[simp] theorem modCard_sec (f : Card → Card) (s : State) : (modCard f s).sec = s.sec := rfl
@[simp] theorem modCard_mon (f : Card → Card) (s : State) : (modCard f s).mon = s.mon := rfl
@[simp] theorem modCard_pins (f : Card → Card) (s : State) : (modCard f s).pins = s.pins := rfl
@[simp] theorem modCard_dev (f : Card → Card) (s : State) : (modCard f s).dev = s.dev := rfl
@[simp] theorem modCard_cores (f : Card → Card) (s : State) : (modCard f s).cores = s.cores := rfl
@[simp] theorem modCard_rills (f : Card → Card) (s : State) : (modCard f s).rills = s.rills := rfl
@[simp] theorem modCard_chans (f : Card → Card) (s : State) : (modCard f s).chans = s.chans := rfl
@[simp] theorem modCard_mem (f : Card → Card) (s : State) : (modCard f s).mem = s.mem := rfl
@[simp] theorem modCard_sens (f : Card → Card) (s : State) : (modCard f s).sens = s.sens := rfl
@[simp] theorem modCard_time (f : Card → Card) (s : State) : (modCard f s).time = s.time := rfl
@[simp] theorem modCard_dsp (f : Card → Card) (s : State) : (modCard f s).dsp = s.dsp := rfl
@[simp] theorem modCard_iq (f : Card → Card) (s : State) : (modCard f s).iq = s.iq := rfl
@[simp] theorem modCard_radio (f : Card → Card) (s : State) : (modCard f s).radio = s.radio := rfl
@[simp] theorem modCard_latch (f : Card → Card) (s : State) : (modCard f s).latch = s.latch := rfl
@[simp] theorem modCard_fresh (f : Card → Card) (s : State) : (modCard f s).fresh = s.fresh := rfl
@[simp] theorem modCard_free (f : Card → Card) (s : State) : (modCard f s).free = s.free := rfl
@[simp] theorem modCard_pending (f : Card → Card) (s : State) : (modCard f s).pending = s.pending := rfl

/-! ### modHost -/

@[simp] theorem modHost_part (f : HostIf → HostIf) (s : State) : (modHost f s).part = s.part := rfl
@[simp] theorem modHost_clk (f : HostIf → HostIf) (s : State) : (modHost f s).clk = s.clk := rfl
@[simp] theorem modHost_cfg (f : HostIf → HostIf) (s : State) : (modHost f s).cfg = s.cfg := rfl
@[simp] theorem modHost_con (f : HostIf → HostIf) (s : State) : (modHost f s).con = s.con := rfl
@[simp] theorem modHost_jobs (f : HostIf → HostIf) (s : State) : (modHost f s).jobs = s.jobs := rfl
@[simp] theorem modHost_det (f : HostIf → HostIf) (s : State) : (modHost f s).det = s.det := rfl
@[simp] theorem modHost_safe (f : HostIf → HostIf) (s : State) : (modHost f s).safe = s.safe := rfl
@[simp] theorem modHost_pwr (f : HostIf → HostIf) (s : State) : (modHost f s).pwr = s.pwr := rfl
@[simp] theorem modHost_dom (f : HostIf → HostIf) (s : State) : (modHost f s).dom = s.dom := rfl
@[simp] theorem modHost_rst (f : HostIf → HostIf) (s : State) : (modHost f s).rst = s.rst := rfl
@[simp] theorem modHost_boot (f : HostIf → HostIf) (s : State) : (modHost f s).boot = s.boot := rfl
@[simp] theorem modHost_jrnl (f : HostIf → HostIf) (s : State) : (modHost f s).jrnl = s.jrnl := rfl
@[simp] theorem modHost_card (f : HostIf → HostIf) (s : State) : (modHost f s).card = s.card := rfl
@[simp] theorem modHost_host (f : HostIf → HostIf) (s : State) : (modHost f s).host = f s.host := rfl
@[simp] theorem modHost_sec (f : HostIf → HostIf) (s : State) : (modHost f s).sec = s.sec := rfl
@[simp] theorem modHost_mon (f : HostIf → HostIf) (s : State) : (modHost f s).mon = s.mon := rfl
@[simp] theorem modHost_pins (f : HostIf → HostIf) (s : State) : (modHost f s).pins = s.pins := rfl
@[simp] theorem modHost_dev (f : HostIf → HostIf) (s : State) : (modHost f s).dev = s.dev := rfl
@[simp] theorem modHost_cores (f : HostIf → HostIf) (s : State) : (modHost f s).cores = s.cores := rfl
@[simp] theorem modHost_rills (f : HostIf → HostIf) (s : State) : (modHost f s).rills = s.rills := rfl
@[simp] theorem modHost_chans (f : HostIf → HostIf) (s : State) : (modHost f s).chans = s.chans := rfl
@[simp] theorem modHost_mem (f : HostIf → HostIf) (s : State) : (modHost f s).mem = s.mem := rfl
@[simp] theorem modHost_sens (f : HostIf → HostIf) (s : State) : (modHost f s).sens = s.sens := rfl
@[simp] theorem modHost_time (f : HostIf → HostIf) (s : State) : (modHost f s).time = s.time := rfl
@[simp] theorem modHost_dsp (f : HostIf → HostIf) (s : State) : (modHost f s).dsp = s.dsp := rfl
@[simp] theorem modHost_iq (f : HostIf → HostIf) (s : State) : (modHost f s).iq = s.iq := rfl
@[simp] theorem modHost_radio (f : HostIf → HostIf) (s : State) : (modHost f s).radio = s.radio := rfl
@[simp] theorem modHost_latch (f : HostIf → HostIf) (s : State) : (modHost f s).latch = s.latch := rfl
@[simp] theorem modHost_fresh (f : HostIf → HostIf) (s : State) : (modHost f s).fresh = s.fresh := rfl
@[simp] theorem modHost_free (f : HostIf → HostIf) (s : State) : (modHost f s).free = s.free := rfl
@[simp] theorem modHost_pending (f : HostIf → HostIf) (s : State) : (modHost f s).pending = s.pending := rfl

/-! ### modDsp -/

@[simp] theorem modDsp_part (f : Dsp → Dsp) (s : State) : (modDsp f s).part = s.part := rfl
@[simp] theorem modDsp_clk (f : Dsp → Dsp) (s : State) : (modDsp f s).clk = s.clk := rfl
@[simp] theorem modDsp_cfg (f : Dsp → Dsp) (s : State) : (modDsp f s).cfg = s.cfg := rfl
@[simp] theorem modDsp_con (f : Dsp → Dsp) (s : State) : (modDsp f s).con = s.con := rfl
@[simp] theorem modDsp_jobs (f : Dsp → Dsp) (s : State) : (modDsp f s).jobs = s.jobs := rfl
@[simp] theorem modDsp_det (f : Dsp → Dsp) (s : State) : (modDsp f s).det = s.det := rfl
@[simp] theorem modDsp_safe (f : Dsp → Dsp) (s : State) : (modDsp f s).safe = s.safe := rfl
@[simp] theorem modDsp_pwr (f : Dsp → Dsp) (s : State) : (modDsp f s).pwr = s.pwr := rfl
@[simp] theorem modDsp_dom (f : Dsp → Dsp) (s : State) : (modDsp f s).dom = s.dom := rfl
@[simp] theorem modDsp_rst (f : Dsp → Dsp) (s : State) : (modDsp f s).rst = s.rst := rfl
@[simp] theorem modDsp_boot (f : Dsp → Dsp) (s : State) : (modDsp f s).boot = s.boot := rfl
@[simp] theorem modDsp_jrnl (f : Dsp → Dsp) (s : State) : (modDsp f s).jrnl = s.jrnl := rfl
@[simp] theorem modDsp_card (f : Dsp → Dsp) (s : State) : (modDsp f s).card = s.card := rfl
@[simp] theorem modDsp_host (f : Dsp → Dsp) (s : State) : (modDsp f s).host = s.host := rfl
@[simp] theorem modDsp_sec (f : Dsp → Dsp) (s : State) : (modDsp f s).sec = s.sec := rfl
@[simp] theorem modDsp_mon (f : Dsp → Dsp) (s : State) : (modDsp f s).mon = s.mon := rfl
@[simp] theorem modDsp_pins (f : Dsp → Dsp) (s : State) : (modDsp f s).pins = s.pins := rfl
@[simp] theorem modDsp_dev (f : Dsp → Dsp) (s : State) : (modDsp f s).dev = s.dev := rfl
@[simp] theorem modDsp_cores (f : Dsp → Dsp) (s : State) : (modDsp f s).cores = s.cores := rfl
@[simp] theorem modDsp_rills (f : Dsp → Dsp) (s : State) : (modDsp f s).rills = s.rills := rfl
@[simp] theorem modDsp_chans (f : Dsp → Dsp) (s : State) : (modDsp f s).chans = s.chans := rfl
@[simp] theorem modDsp_mem (f : Dsp → Dsp) (s : State) : (modDsp f s).mem = s.mem := rfl
@[simp] theorem modDsp_sens (f : Dsp → Dsp) (s : State) : (modDsp f s).sens = s.sens := rfl
@[simp] theorem modDsp_time (f : Dsp → Dsp) (s : State) : (modDsp f s).time = s.time := rfl
@[simp] theorem modDsp_dsp (f : Dsp → Dsp) (s : State) : (modDsp f s).dsp = f s.dsp := rfl
@[simp] theorem modDsp_iq (f : Dsp → Dsp) (s : State) : (modDsp f s).iq = s.iq := rfl
@[simp] theorem modDsp_radio (f : Dsp → Dsp) (s : State) : (modDsp f s).radio = s.radio := rfl
@[simp] theorem modDsp_latch (f : Dsp → Dsp) (s : State) : (modDsp f s).latch = s.latch := rfl
@[simp] theorem modDsp_fresh (f : Dsp → Dsp) (s : State) : (modDsp f s).fresh = s.fresh := rfl
@[simp] theorem modDsp_free (f : Dsp → Dsp) (s : State) : (modDsp f s).free = s.free := rfl
@[simp] theorem modDsp_pending (f : Dsp → Dsp) (s : State) : (modDsp f s).pending = s.pending := rfl

/-! ### modMon -/

@[simp] theorem modMon_part (f : Monitor → Monitor) (s : State) : (modMon f s).part = s.part := rfl
@[simp] theorem modMon_clk (f : Monitor → Monitor) (s : State) : (modMon f s).clk = s.clk := rfl
@[simp] theorem modMon_cfg (f : Monitor → Monitor) (s : State) : (modMon f s).cfg = s.cfg := rfl
@[simp] theorem modMon_con (f : Monitor → Monitor) (s : State) : (modMon f s).con = s.con := rfl
@[simp] theorem modMon_jobs (f : Monitor → Monitor) (s : State) : (modMon f s).jobs = s.jobs := rfl
@[simp] theorem modMon_det (f : Monitor → Monitor) (s : State) : (modMon f s).det = s.det := rfl
@[simp] theorem modMon_safe (f : Monitor → Monitor) (s : State) : (modMon f s).safe = s.safe := rfl
@[simp] theorem modMon_pwr (f : Monitor → Monitor) (s : State) : (modMon f s).pwr = s.pwr := rfl
@[simp] theorem modMon_dom (f : Monitor → Monitor) (s : State) : (modMon f s).dom = s.dom := rfl
@[simp] theorem modMon_rst (f : Monitor → Monitor) (s : State) : (modMon f s).rst = s.rst := rfl
@[simp] theorem modMon_boot (f : Monitor → Monitor) (s : State) : (modMon f s).boot = s.boot := rfl
@[simp] theorem modMon_jrnl (f : Monitor → Monitor) (s : State) : (modMon f s).jrnl = s.jrnl := rfl
@[simp] theorem modMon_card (f : Monitor → Monitor) (s : State) : (modMon f s).card = s.card := rfl
@[simp] theorem modMon_host (f : Monitor → Monitor) (s : State) : (modMon f s).host = s.host := rfl
@[simp] theorem modMon_sec (f : Monitor → Monitor) (s : State) : (modMon f s).sec = s.sec := rfl
@[simp] theorem modMon_mon (f : Monitor → Monitor) (s : State) : (modMon f s).mon = f s.mon := rfl
@[simp] theorem modMon_pins (f : Monitor → Monitor) (s : State) : (modMon f s).pins = s.pins := rfl
@[simp] theorem modMon_dev (f : Monitor → Monitor) (s : State) : (modMon f s).dev = s.dev := rfl
@[simp] theorem modMon_cores (f : Monitor → Monitor) (s : State) : (modMon f s).cores = s.cores := rfl
@[simp] theorem modMon_rills (f : Monitor → Monitor) (s : State) : (modMon f s).rills = s.rills := rfl
@[simp] theorem modMon_chans (f : Monitor → Monitor) (s : State) : (modMon f s).chans = s.chans := rfl
@[simp] theorem modMon_mem (f : Monitor → Monitor) (s : State) : (modMon f s).mem = s.mem := rfl
@[simp] theorem modMon_sens (f : Monitor → Monitor) (s : State) : (modMon f s).sens = s.sens := rfl
@[simp] theorem modMon_time (f : Monitor → Monitor) (s : State) : (modMon f s).time = s.time := rfl
@[simp] theorem modMon_dsp (f : Monitor → Monitor) (s : State) : (modMon f s).dsp = s.dsp := rfl
@[simp] theorem modMon_iq (f : Monitor → Monitor) (s : State) : (modMon f s).iq = s.iq := rfl
@[simp] theorem modMon_radio (f : Monitor → Monitor) (s : State) : (modMon f s).radio = s.radio := rfl
@[simp] theorem modMon_latch (f : Monitor → Monitor) (s : State) : (modMon f s).latch = s.latch := rfl
@[simp] theorem modMon_fresh (f : Monitor → Monitor) (s : State) : (modMon f s).fresh = s.fresh := rfl
@[simp] theorem modMon_free (f : Monitor → Monitor) (s : State) : (modMon f s).free = s.free := rfl
@[simp] theorem modMon_pending (f : Monitor → Monitor) (s : State) : (modMon f s).pending = s.pending := rfl

/-! ### modPwr -/

@[simp] theorem modPwr_part (f : Power → Power) (s : State) : (modPwr f s).part = s.part := rfl
@[simp] theorem modPwr_clk (f : Power → Power) (s : State) : (modPwr f s).clk = s.clk := rfl
@[simp] theorem modPwr_cfg (f : Power → Power) (s : State) : (modPwr f s).cfg = s.cfg := rfl
@[simp] theorem modPwr_con (f : Power → Power) (s : State) : (modPwr f s).con = s.con := rfl
@[simp] theorem modPwr_jobs (f : Power → Power) (s : State) : (modPwr f s).jobs = s.jobs := rfl
@[simp] theorem modPwr_det (f : Power → Power) (s : State) : (modPwr f s).det = s.det := rfl
@[simp] theorem modPwr_safe (f : Power → Power) (s : State) : (modPwr f s).safe = s.safe := rfl
@[simp] theorem modPwr_pwr (f : Power → Power) (s : State) : (modPwr f s).pwr = f s.pwr := rfl
@[simp] theorem modPwr_dom (f : Power → Power) (s : State) : (modPwr f s).dom = s.dom := rfl
@[simp] theorem modPwr_rst (f : Power → Power) (s : State) : (modPwr f s).rst = s.rst := rfl
@[simp] theorem modPwr_boot (f : Power → Power) (s : State) : (modPwr f s).boot = s.boot := rfl
@[simp] theorem modPwr_jrnl (f : Power → Power) (s : State) : (modPwr f s).jrnl = s.jrnl := rfl
@[simp] theorem modPwr_card (f : Power → Power) (s : State) : (modPwr f s).card = s.card := rfl
@[simp] theorem modPwr_host (f : Power → Power) (s : State) : (modPwr f s).host = s.host := rfl
@[simp] theorem modPwr_sec (f : Power → Power) (s : State) : (modPwr f s).sec = s.sec := rfl
@[simp] theorem modPwr_mon (f : Power → Power) (s : State) : (modPwr f s).mon = s.mon := rfl
@[simp] theorem modPwr_pins (f : Power → Power) (s : State) : (modPwr f s).pins = s.pins := rfl
@[simp] theorem modPwr_dev (f : Power → Power) (s : State) : (modPwr f s).dev = s.dev := rfl
@[simp] theorem modPwr_cores (f : Power → Power) (s : State) : (modPwr f s).cores = s.cores := rfl
@[simp] theorem modPwr_rills (f : Power → Power) (s : State) : (modPwr f s).rills = s.rills := rfl
@[simp] theorem modPwr_chans (f : Power → Power) (s : State) : (modPwr f s).chans = s.chans := rfl
@[simp] theorem modPwr_mem (f : Power → Power) (s : State) : (modPwr f s).mem = s.mem := rfl
@[simp] theorem modPwr_sens (f : Power → Power) (s : State) : (modPwr f s).sens = s.sens := rfl
@[simp] theorem modPwr_time (f : Power → Power) (s : State) : (modPwr f s).time = s.time := rfl
@[simp] theorem modPwr_dsp (f : Power → Power) (s : State) : (modPwr f s).dsp = s.dsp := rfl
@[simp] theorem modPwr_iq (f : Power → Power) (s : State) : (modPwr f s).iq = s.iq := rfl
@[simp] theorem modPwr_radio (f : Power → Power) (s : State) : (modPwr f s).radio = s.radio := rfl
@[simp] theorem modPwr_latch (f : Power → Power) (s : State) : (modPwr f s).latch = s.latch := rfl
@[simp] theorem modPwr_fresh (f : Power → Power) (s : State) : (modPwr f s).fresh = s.fresh := rfl
@[simp] theorem modPwr_free (f : Power → Power) (s : State) : (modPwr f s).free = s.free := rfl
@[simp] theorem modPwr_pending (f : Power → Power) (s : State) : (modPwr f s).pending = s.pending := rfl

/-! ### modRst -/

@[simp] theorem modRst_part (f : ResetCtl → ResetCtl) (s : State) : (modRst f s).part = s.part := rfl
@[simp] theorem modRst_clk (f : ResetCtl → ResetCtl) (s : State) : (modRst f s).clk = s.clk := rfl
@[simp] theorem modRst_cfg (f : ResetCtl → ResetCtl) (s : State) : (modRst f s).cfg = s.cfg := rfl
@[simp] theorem modRst_con (f : ResetCtl → ResetCtl) (s : State) : (modRst f s).con = s.con := rfl
@[simp] theorem modRst_jobs (f : ResetCtl → ResetCtl) (s : State) : (modRst f s).jobs = s.jobs := rfl
@[simp] theorem modRst_det (f : ResetCtl → ResetCtl) (s : State) : (modRst f s).det = s.det := rfl
@[simp] theorem modRst_safe (f : ResetCtl → ResetCtl) (s : State) : (modRst f s).safe = s.safe := rfl
@[simp] theorem modRst_pwr (f : ResetCtl → ResetCtl) (s : State) : (modRst f s).pwr = s.pwr := rfl
@[simp] theorem modRst_dom (f : ResetCtl → ResetCtl) (s : State) : (modRst f s).dom = s.dom := rfl
@[simp] theorem modRst_rst (f : ResetCtl → ResetCtl) (s : State) : (modRst f s).rst = f s.rst := rfl
@[simp] theorem modRst_boot (f : ResetCtl → ResetCtl) (s : State) : (modRst f s).boot = s.boot := rfl
@[simp] theorem modRst_jrnl (f : ResetCtl → ResetCtl) (s : State) : (modRst f s).jrnl = s.jrnl := rfl
@[simp] theorem modRst_card (f : ResetCtl → ResetCtl) (s : State) : (modRst f s).card = s.card := rfl
@[simp] theorem modRst_host (f : ResetCtl → ResetCtl) (s : State) : (modRst f s).host = s.host := rfl
@[simp] theorem modRst_sec (f : ResetCtl → ResetCtl) (s : State) : (modRst f s).sec = s.sec := rfl
@[simp] theorem modRst_mon (f : ResetCtl → ResetCtl) (s : State) : (modRst f s).mon = s.mon := rfl
@[simp] theorem modRst_pins (f : ResetCtl → ResetCtl) (s : State) : (modRst f s).pins = s.pins := rfl
@[simp] theorem modRst_dev (f : ResetCtl → ResetCtl) (s : State) : (modRst f s).dev = s.dev := rfl
@[simp] theorem modRst_cores (f : ResetCtl → ResetCtl) (s : State) : (modRst f s).cores = s.cores := rfl
@[simp] theorem modRst_rills (f : ResetCtl → ResetCtl) (s : State) : (modRst f s).rills = s.rills := rfl
@[simp] theorem modRst_chans (f : ResetCtl → ResetCtl) (s : State) : (modRst f s).chans = s.chans := rfl
@[simp] theorem modRst_mem (f : ResetCtl → ResetCtl) (s : State) : (modRst f s).mem = s.mem := rfl
@[simp] theorem modRst_sens (f : ResetCtl → ResetCtl) (s : State) : (modRst f s).sens = s.sens := rfl
@[simp] theorem modRst_time (f : ResetCtl → ResetCtl) (s : State) : (modRst f s).time = s.time := rfl
@[simp] theorem modRst_dsp (f : ResetCtl → ResetCtl) (s : State) : (modRst f s).dsp = s.dsp := rfl
@[simp] theorem modRst_iq (f : ResetCtl → ResetCtl) (s : State) : (modRst f s).iq = s.iq := rfl
@[simp] theorem modRst_radio (f : ResetCtl → ResetCtl) (s : State) : (modRst f s).radio = s.radio := rfl
@[simp] theorem modRst_latch (f : ResetCtl → ResetCtl) (s : State) : (modRst f s).latch = s.latch := rfl
@[simp] theorem modRst_fresh (f : ResetCtl → ResetCtl) (s : State) : (modRst f s).fresh = s.fresh := rfl
@[simp] theorem modRst_free (f : ResetCtl → ResetCtl) (s : State) : (modRst f s).free = s.free := rfl
@[simp] theorem modRst_pending (f : ResetCtl → ResetCtl) (s : State) : (modRst f s).pending = s.pending := rfl

/-! ### modSec -/

@[simp] theorem modSec_part (f : Security → Security) (s : State) : (modSec f s).part = s.part := rfl
@[simp] theorem modSec_clk (f : Security → Security) (s : State) : (modSec f s).clk = s.clk := rfl
@[simp] theorem modSec_cfg (f : Security → Security) (s : State) : (modSec f s).cfg = s.cfg := rfl
@[simp] theorem modSec_con (f : Security → Security) (s : State) : (modSec f s).con = s.con := rfl
@[simp] theorem modSec_jobs (f : Security → Security) (s : State) : (modSec f s).jobs = s.jobs := rfl
@[simp] theorem modSec_det (f : Security → Security) (s : State) : (modSec f s).det = s.det := rfl
@[simp] theorem modSec_safe (f : Security → Security) (s : State) : (modSec f s).safe = s.safe := rfl
@[simp] theorem modSec_pwr (f : Security → Security) (s : State) : (modSec f s).pwr = s.pwr := rfl
@[simp] theorem modSec_dom (f : Security → Security) (s : State) : (modSec f s).dom = s.dom := rfl
@[simp] theorem modSec_rst (f : Security → Security) (s : State) : (modSec f s).rst = s.rst := rfl
@[simp] theorem modSec_boot (f : Security → Security) (s : State) : (modSec f s).boot = s.boot := rfl
@[simp] theorem modSec_jrnl (f : Security → Security) (s : State) : (modSec f s).jrnl = s.jrnl := rfl
@[simp] theorem modSec_card (f : Security → Security) (s : State) : (modSec f s).card = s.card := rfl
@[simp] theorem modSec_host (f : Security → Security) (s : State) : (modSec f s).host = s.host := rfl
@[simp] theorem modSec_sec (f : Security → Security) (s : State) : (modSec f s).sec = f s.sec := rfl
@[simp] theorem modSec_mon (f : Security → Security) (s : State) : (modSec f s).mon = s.mon := rfl
@[simp] theorem modSec_pins (f : Security → Security) (s : State) : (modSec f s).pins = s.pins := rfl
@[simp] theorem modSec_dev (f : Security → Security) (s : State) : (modSec f s).dev = s.dev := rfl
@[simp] theorem modSec_cores (f : Security → Security) (s : State) : (modSec f s).cores = s.cores := rfl
@[simp] theorem modSec_rills (f : Security → Security) (s : State) : (modSec f s).rills = s.rills := rfl
@[simp] theorem modSec_chans (f : Security → Security) (s : State) : (modSec f s).chans = s.chans := rfl
@[simp] theorem modSec_mem (f : Security → Security) (s : State) : (modSec f s).mem = s.mem := rfl
@[simp] theorem modSec_sens (f : Security → Security) (s : State) : (modSec f s).sens = s.sens := rfl
@[simp] theorem modSec_time (f : Security → Security) (s : State) : (modSec f s).time = s.time := rfl
@[simp] theorem modSec_dsp (f : Security → Security) (s : State) : (modSec f s).dsp = s.dsp := rfl
@[simp] theorem modSec_iq (f : Security → Security) (s : State) : (modSec f s).iq = s.iq := rfl
@[simp] theorem modSec_radio (f : Security → Security) (s : State) : (modSec f s).radio = s.radio := rfl
@[simp] theorem modSec_latch (f : Security → Security) (s : State) : (modSec f s).latch = s.latch := rfl
@[simp] theorem modSec_fresh (f : Security → Security) (s : State) : (modSec f s).fresh = s.fresh := rfl
@[simp] theorem modSec_free (f : Security → Security) (s : State) : (modSec f s).free = s.free := rfl
@[simp] theorem modSec_pending (f : Security → Security) (s : State) : (modSec f s).pending = s.pending := rfl

/-! ### modTime -/

@[simp] theorem modTime_part (f : TimeBase → TimeBase) (s : State) : (modTime f s).part = s.part := rfl
@[simp] theorem modTime_clk (f : TimeBase → TimeBase) (s : State) : (modTime f s).clk = s.clk := rfl
@[simp] theorem modTime_cfg (f : TimeBase → TimeBase) (s : State) : (modTime f s).cfg = s.cfg := rfl
@[simp] theorem modTime_con (f : TimeBase → TimeBase) (s : State) : (modTime f s).con = s.con := rfl
@[simp] theorem modTime_jobs (f : TimeBase → TimeBase) (s : State) : (modTime f s).jobs = s.jobs := rfl
@[simp] theorem modTime_det (f : TimeBase → TimeBase) (s : State) : (modTime f s).det = s.det := rfl
@[simp] theorem modTime_safe (f : TimeBase → TimeBase) (s : State) : (modTime f s).safe = s.safe := rfl
@[simp] theorem modTime_pwr (f : TimeBase → TimeBase) (s : State) : (modTime f s).pwr = s.pwr := rfl
@[simp] theorem modTime_dom (f : TimeBase → TimeBase) (s : State) : (modTime f s).dom = s.dom := rfl
@[simp] theorem modTime_rst (f : TimeBase → TimeBase) (s : State) : (modTime f s).rst = s.rst := rfl
@[simp] theorem modTime_boot (f : TimeBase → TimeBase) (s : State) : (modTime f s).boot = s.boot := rfl
@[simp] theorem modTime_jrnl (f : TimeBase → TimeBase) (s : State) : (modTime f s).jrnl = s.jrnl := rfl
@[simp] theorem modTime_card (f : TimeBase → TimeBase) (s : State) : (modTime f s).card = s.card := rfl
@[simp] theorem modTime_host (f : TimeBase → TimeBase) (s : State) : (modTime f s).host = s.host := rfl
@[simp] theorem modTime_sec (f : TimeBase → TimeBase) (s : State) : (modTime f s).sec = s.sec := rfl
@[simp] theorem modTime_mon (f : TimeBase → TimeBase) (s : State) : (modTime f s).mon = s.mon := rfl
@[simp] theorem modTime_pins (f : TimeBase → TimeBase) (s : State) : (modTime f s).pins = s.pins := rfl
@[simp] theorem modTime_dev (f : TimeBase → TimeBase) (s : State) : (modTime f s).dev = s.dev := rfl
@[simp] theorem modTime_cores (f : TimeBase → TimeBase) (s : State) : (modTime f s).cores = s.cores := rfl
@[simp] theorem modTime_rills (f : TimeBase → TimeBase) (s : State) : (modTime f s).rills = s.rills := rfl
@[simp] theorem modTime_chans (f : TimeBase → TimeBase) (s : State) : (modTime f s).chans = s.chans := rfl
@[simp] theorem modTime_mem (f : TimeBase → TimeBase) (s : State) : (modTime f s).mem = s.mem := rfl
@[simp] theorem modTime_sens (f : TimeBase → TimeBase) (s : State) : (modTime f s).sens = s.sens := rfl
@[simp] theorem modTime_time (f : TimeBase → TimeBase) (s : State) : (modTime f s).time = f s.time := rfl
@[simp] theorem modTime_dsp (f : TimeBase → TimeBase) (s : State) : (modTime f s).dsp = s.dsp := rfl
@[simp] theorem modTime_iq (f : TimeBase → TimeBase) (s : State) : (modTime f s).iq = s.iq := rfl
@[simp] theorem modTime_radio (f : TimeBase → TimeBase) (s : State) : (modTime f s).radio = s.radio := rfl
@[simp] theorem modTime_latch (f : TimeBase → TimeBase) (s : State) : (modTime f s).latch = s.latch := rfl
@[simp] theorem modTime_fresh (f : TimeBase → TimeBase) (s : State) : (modTime f s).fresh = s.fresh := rfl
@[simp] theorem modTime_free (f : TimeBase → TimeBase) (s : State) : (modTime f s).free = s.free := rfl
@[simp] theorem modTime_pending (f : TimeBase → TimeBase) (s : State) : (modTime f s).pending = s.pending := rfl

/-! ### modCore -/

@[simp] theorem modCore_part (u : UnitIdx) (f : Core → Core) (s : State) : (modCore u f s).part = s.part := rfl
@[simp] theorem modCore_clk (u : UnitIdx) (f : Core → Core) (s : State) : (modCore u f s).clk = s.clk := rfl
@[simp] theorem modCore_cfg (u : UnitIdx) (f : Core → Core) (s : State) : (modCore u f s).cfg = s.cfg := rfl
@[simp] theorem modCore_con (u : UnitIdx) (f : Core → Core) (s : State) : (modCore u f s).con = s.con := rfl
@[simp] theorem modCore_jobs (u : UnitIdx) (f : Core → Core) (s : State) : (modCore u f s).jobs = s.jobs := rfl
@[simp] theorem modCore_det (u : UnitIdx) (f : Core → Core) (s : State) : (modCore u f s).det = s.det := rfl
@[simp] theorem modCore_safe (u : UnitIdx) (f : Core → Core) (s : State) : (modCore u f s).safe = s.safe := rfl
@[simp] theorem modCore_pwr (u : UnitIdx) (f : Core → Core) (s : State) : (modCore u f s).pwr = s.pwr := rfl
@[simp] theorem modCore_dom (u : UnitIdx) (f : Core → Core) (s : State) : (modCore u f s).dom = s.dom := rfl
@[simp] theorem modCore_rst (u : UnitIdx) (f : Core → Core) (s : State) : (modCore u f s).rst = s.rst := rfl
@[simp] theorem modCore_boot (u : UnitIdx) (f : Core → Core) (s : State) : (modCore u f s).boot = s.boot := rfl
@[simp] theorem modCore_jrnl (u : UnitIdx) (f : Core → Core) (s : State) : (modCore u f s).jrnl = s.jrnl := rfl
@[simp] theorem modCore_card (u : UnitIdx) (f : Core → Core) (s : State) : (modCore u f s).card = s.card := rfl
@[simp] theorem modCore_host (u : UnitIdx) (f : Core → Core) (s : State) : (modCore u f s).host = s.host := rfl
@[simp] theorem modCore_sec (u : UnitIdx) (f : Core → Core) (s : State) : (modCore u f s).sec = s.sec := rfl
@[simp] theorem modCore_mon (u : UnitIdx) (f : Core → Core) (s : State) : (modCore u f s).mon = s.mon := rfl
@[simp] theorem modCore_pins (u : UnitIdx) (f : Core → Core) (s : State) : (modCore u f s).pins = s.pins := rfl
@[simp] theorem modCore_dev (u : UnitIdx) (f : Core → Core) (s : State) : (modCore u f s).dev = s.dev := rfl
@[simp] theorem modCore_cores (u : UnitIdx) (f : Core → Core) (s : State) : (modCore u f s).cores = modV s.cores u f := rfl
@[simp] theorem modCore_rills (u : UnitIdx) (f : Core → Core) (s : State) : (modCore u f s).rills = s.rills := rfl
@[simp] theorem modCore_chans (u : UnitIdx) (f : Core → Core) (s : State) : (modCore u f s).chans = s.chans := rfl
@[simp] theorem modCore_mem (u : UnitIdx) (f : Core → Core) (s : State) : (modCore u f s).mem = s.mem := rfl
@[simp] theorem modCore_sens (u : UnitIdx) (f : Core → Core) (s : State) : (modCore u f s).sens = s.sens := rfl
@[simp] theorem modCore_time (u : UnitIdx) (f : Core → Core) (s : State) : (modCore u f s).time = s.time := rfl
@[simp] theorem modCore_dsp (u : UnitIdx) (f : Core → Core) (s : State) : (modCore u f s).dsp = s.dsp := rfl
@[simp] theorem modCore_iq (u : UnitIdx) (f : Core → Core) (s : State) : (modCore u f s).iq = s.iq := rfl
@[simp] theorem modCore_radio (u : UnitIdx) (f : Core → Core) (s : State) : (modCore u f s).radio = s.radio := rfl
@[simp] theorem modCore_latch (u : UnitIdx) (f : Core → Core) (s : State) : (modCore u f s).latch = s.latch := rfl
@[simp] theorem modCore_fresh (u : UnitIdx) (f : Core → Core) (s : State) : (modCore u f s).fresh = s.fresh := rfl
@[simp] theorem modCore_free (u : UnitIdx) (f : Core → Core) (s : State) : (modCore u f s).free = s.free := rfl
@[simp] theorem modCore_pending (u : UnitIdx) (f : Core → Core) (s : State) : (modCore u f s).pending = s.pending := rfl

/-! ### modEng -/

@[simp] theorem modEng_part (u : UnitIdx) (f : Engine → Engine) (s : State) : (modEng u f s).part = s.part := rfl
@[simp] theorem modEng_clk (u : UnitIdx) (f : Engine → Engine) (s : State) : (modEng u f s).clk = s.clk := rfl
@[simp] theorem modEng_cfg (u : UnitIdx) (f : Engine → Engine) (s : State) : (modEng u f s).cfg = s.cfg := rfl
@[simp] theorem modEng_con (u : UnitIdx) (f : Engine → Engine) (s : State) : (modEng u f s).con = s.con := rfl
@[simp] theorem modEng_jobs (u : UnitIdx) (f : Engine → Engine) (s : State) : (modEng u f s).jobs = s.jobs := rfl
@[simp] theorem modEng_det (u : UnitIdx) (f : Engine → Engine) (s : State) : (modEng u f s).det = s.det := rfl
@[simp] theorem modEng_safe (u : UnitIdx) (f : Engine → Engine) (s : State) : (modEng u f s).safe = s.safe := rfl
@[simp] theorem modEng_pwr (u : UnitIdx) (f : Engine → Engine) (s : State) : (modEng u f s).pwr = s.pwr := rfl
@[simp] theorem modEng_dom (u : UnitIdx) (f : Engine → Engine) (s : State) : (modEng u f s).dom = s.dom := rfl
@[simp] theorem modEng_rst (u : UnitIdx) (f : Engine → Engine) (s : State) : (modEng u f s).rst = s.rst := rfl
@[simp] theorem modEng_boot (u : UnitIdx) (f : Engine → Engine) (s : State) : (modEng u f s).boot = s.boot := rfl
@[simp] theorem modEng_jrnl (u : UnitIdx) (f : Engine → Engine) (s : State) : (modEng u f s).jrnl = s.jrnl := rfl
@[simp] theorem modEng_card (u : UnitIdx) (f : Engine → Engine) (s : State) : (modEng u f s).card = s.card := rfl
@[simp] theorem modEng_host (u : UnitIdx) (f : Engine → Engine) (s : State) : (modEng u f s).host = s.host := rfl
@[simp] theorem modEng_sec (u : UnitIdx) (f : Engine → Engine) (s : State) : (modEng u f s).sec = s.sec := rfl
@[simp] theorem modEng_mon (u : UnitIdx) (f : Engine → Engine) (s : State) : (modEng u f s).mon = s.mon := rfl
@[simp] theorem modEng_pins (u : UnitIdx) (f : Engine → Engine) (s : State) : (modEng u f s).pins = s.pins := rfl
@[simp] theorem modEng_dev (u : UnitIdx) (f : Engine → Engine) (s : State) : (modEng u f s).dev = s.dev := rfl
@[simp] theorem modEng_cores (u : UnitIdx) (f : Engine → Engine) (s : State) : (modEng u f s).cores = modV s.cores u fun c => { c with eng := f c.eng } := rfl
@[simp] theorem modEng_rills (u : UnitIdx) (f : Engine → Engine) (s : State) : (modEng u f s).rills = s.rills := rfl
@[simp] theorem modEng_chans (u : UnitIdx) (f : Engine → Engine) (s : State) : (modEng u f s).chans = s.chans := rfl
@[simp] theorem modEng_mem (u : UnitIdx) (f : Engine → Engine) (s : State) : (modEng u f s).mem = s.mem := rfl
@[simp] theorem modEng_sens (u : UnitIdx) (f : Engine → Engine) (s : State) : (modEng u f s).sens = s.sens := rfl
@[simp] theorem modEng_time (u : UnitIdx) (f : Engine → Engine) (s : State) : (modEng u f s).time = s.time := rfl
@[simp] theorem modEng_dsp (u : UnitIdx) (f : Engine → Engine) (s : State) : (modEng u f s).dsp = s.dsp := rfl
@[simp] theorem modEng_iq (u : UnitIdx) (f : Engine → Engine) (s : State) : (modEng u f s).iq = s.iq := rfl
@[simp] theorem modEng_radio (u : UnitIdx) (f : Engine → Engine) (s : State) : (modEng u f s).radio = s.radio := rfl
@[simp] theorem modEng_latch (u : UnitIdx) (f : Engine → Engine) (s : State) : (modEng u f s).latch = s.latch := rfl
@[simp] theorem modEng_fresh (u : UnitIdx) (f : Engine → Engine) (s : State) : (modEng u f s).fresh = s.fresh := rfl
@[simp] theorem modEng_free (u : UnitIdx) (f : Engine → Engine) (s : State) : (modEng u f s).free = s.free := rfl
@[simp] theorem modEng_pending (u : UnitIdx) (f : Engine → Engine) (s : State) : (modEng u f s).pending = s.pending := rfl

/-! ### modVec -/

@[simp] theorem modVec_part (u : UnitIdx) (f : VecEngine → VecEngine) (s : State) : (modVec u f s).part = s.part := rfl
@[simp] theorem modVec_clk (u : UnitIdx) (f : VecEngine → VecEngine) (s : State) : (modVec u f s).clk = s.clk := rfl
@[simp] theorem modVec_cfg (u : UnitIdx) (f : VecEngine → VecEngine) (s : State) : (modVec u f s).cfg = s.cfg := rfl
@[simp] theorem modVec_con (u : UnitIdx) (f : VecEngine → VecEngine) (s : State) : (modVec u f s).con = s.con := rfl
@[simp] theorem modVec_jobs (u : UnitIdx) (f : VecEngine → VecEngine) (s : State) : (modVec u f s).jobs = s.jobs := rfl
@[simp] theorem modVec_det (u : UnitIdx) (f : VecEngine → VecEngine) (s : State) : (modVec u f s).det = s.det := rfl
@[simp] theorem modVec_safe (u : UnitIdx) (f : VecEngine → VecEngine) (s : State) : (modVec u f s).safe = s.safe := rfl
@[simp] theorem modVec_pwr (u : UnitIdx) (f : VecEngine → VecEngine) (s : State) : (modVec u f s).pwr = s.pwr := rfl
@[simp] theorem modVec_dom (u : UnitIdx) (f : VecEngine → VecEngine) (s : State) : (modVec u f s).dom = s.dom := rfl
@[simp] theorem modVec_rst (u : UnitIdx) (f : VecEngine → VecEngine) (s : State) : (modVec u f s).rst = s.rst := rfl
@[simp] theorem modVec_boot (u : UnitIdx) (f : VecEngine → VecEngine) (s : State) : (modVec u f s).boot = s.boot := rfl
@[simp] theorem modVec_jrnl (u : UnitIdx) (f : VecEngine → VecEngine) (s : State) : (modVec u f s).jrnl = s.jrnl := rfl
@[simp] theorem modVec_card (u : UnitIdx) (f : VecEngine → VecEngine) (s : State) : (modVec u f s).card = s.card := rfl
@[simp] theorem modVec_host (u : UnitIdx) (f : VecEngine → VecEngine) (s : State) : (modVec u f s).host = s.host := rfl
@[simp] theorem modVec_sec (u : UnitIdx) (f : VecEngine → VecEngine) (s : State) : (modVec u f s).sec = s.sec := rfl
@[simp] theorem modVec_mon (u : UnitIdx) (f : VecEngine → VecEngine) (s : State) : (modVec u f s).mon = s.mon := rfl
@[simp] theorem modVec_pins (u : UnitIdx) (f : VecEngine → VecEngine) (s : State) : (modVec u f s).pins = s.pins := rfl
@[simp] theorem modVec_dev (u : UnitIdx) (f : VecEngine → VecEngine) (s : State) : (modVec u f s).dev = s.dev := rfl
@[simp] theorem modVec_cores (u : UnitIdx) (f : VecEngine → VecEngine) (s : State) : (modVec u f s).cores = modV s.cores u fun c => { c with vec := f c.vec } := rfl
@[simp] theorem modVec_rills (u : UnitIdx) (f : VecEngine → VecEngine) (s : State) : (modVec u f s).rills = s.rills := rfl
@[simp] theorem modVec_chans (u : UnitIdx) (f : VecEngine → VecEngine) (s : State) : (modVec u f s).chans = s.chans := rfl
@[simp] theorem modVec_mem (u : UnitIdx) (f : VecEngine → VecEngine) (s : State) : (modVec u f s).mem = s.mem := rfl
@[simp] theorem modVec_sens (u : UnitIdx) (f : VecEngine → VecEngine) (s : State) : (modVec u f s).sens = s.sens := rfl
@[simp] theorem modVec_time (u : UnitIdx) (f : VecEngine → VecEngine) (s : State) : (modVec u f s).time = s.time := rfl
@[simp] theorem modVec_dsp (u : UnitIdx) (f : VecEngine → VecEngine) (s : State) : (modVec u f s).dsp = s.dsp := rfl
@[simp] theorem modVec_iq (u : UnitIdx) (f : VecEngine → VecEngine) (s : State) : (modVec u f s).iq = s.iq := rfl
@[simp] theorem modVec_radio (u : UnitIdx) (f : VecEngine → VecEngine) (s : State) : (modVec u f s).radio = s.radio := rfl
@[simp] theorem modVec_latch (u : UnitIdx) (f : VecEngine → VecEngine) (s : State) : (modVec u f s).latch = s.latch := rfl
@[simp] theorem modVec_fresh (u : UnitIdx) (f : VecEngine → VecEngine) (s : State) : (modVec u f s).fresh = s.fresh := rfl
@[simp] theorem modVec_free (u : UnitIdx) (f : VecEngine → VecEngine) (s : State) : (modVec u f s).free = s.free := rfl
@[simp] theorem modVec_pending (u : UnitIdx) (f : VecEngine → VecEngine) (s : State) : (modVec u f s).pending = s.pending := rfl

/-! ### modRill -/

@[simp] theorem modRill_part (r : Fin 32) (f : Rill → Rill) (s : State) : (modRill r f s).part = s.part := rfl
@[simp] theorem modRill_clk (r : Fin 32) (f : Rill → Rill) (s : State) : (modRill r f s).clk = s.clk := rfl
@[simp] theorem modRill_cfg (r : Fin 32) (f : Rill → Rill) (s : State) : (modRill r f s).cfg = s.cfg := rfl
@[simp] theorem modRill_con (r : Fin 32) (f : Rill → Rill) (s : State) : (modRill r f s).con = s.con := rfl
@[simp] theorem modRill_jobs (r : Fin 32) (f : Rill → Rill) (s : State) : (modRill r f s).jobs = s.jobs := rfl
@[simp] theorem modRill_det (r : Fin 32) (f : Rill → Rill) (s : State) : (modRill r f s).det = s.det := rfl
@[simp] theorem modRill_safe (r : Fin 32) (f : Rill → Rill) (s : State) : (modRill r f s).safe = s.safe := rfl
@[simp] theorem modRill_pwr (r : Fin 32) (f : Rill → Rill) (s : State) : (modRill r f s).pwr = s.pwr := rfl
@[simp] theorem modRill_dom (r : Fin 32) (f : Rill → Rill) (s : State) : (modRill r f s).dom = s.dom := rfl
@[simp] theorem modRill_rst (r : Fin 32) (f : Rill → Rill) (s : State) : (modRill r f s).rst = s.rst := rfl
@[simp] theorem modRill_boot (r : Fin 32) (f : Rill → Rill) (s : State) : (modRill r f s).boot = s.boot := rfl
@[simp] theorem modRill_jrnl (r : Fin 32) (f : Rill → Rill) (s : State) : (modRill r f s).jrnl = s.jrnl := rfl
@[simp] theorem modRill_card (r : Fin 32) (f : Rill → Rill) (s : State) : (modRill r f s).card = s.card := rfl
@[simp] theorem modRill_host (r : Fin 32) (f : Rill → Rill) (s : State) : (modRill r f s).host = s.host := rfl
@[simp] theorem modRill_sec (r : Fin 32) (f : Rill → Rill) (s : State) : (modRill r f s).sec = s.sec := rfl
@[simp] theorem modRill_mon (r : Fin 32) (f : Rill → Rill) (s : State) : (modRill r f s).mon = s.mon := rfl
@[simp] theorem modRill_pins (r : Fin 32) (f : Rill → Rill) (s : State) : (modRill r f s).pins = s.pins := rfl
@[simp] theorem modRill_dev (r : Fin 32) (f : Rill → Rill) (s : State) : (modRill r f s).dev = s.dev := rfl
@[simp] theorem modRill_cores (r : Fin 32) (f : Rill → Rill) (s : State) : (modRill r f s).cores = s.cores := rfl
@[simp] theorem modRill_rills (r : Fin 32) (f : Rill → Rill) (s : State) : (modRill r f s).rills = modV s.rills r f := rfl
@[simp] theorem modRill_chans (r : Fin 32) (f : Rill → Rill) (s : State) : (modRill r f s).chans = s.chans := rfl
@[simp] theorem modRill_mem (r : Fin 32) (f : Rill → Rill) (s : State) : (modRill r f s).mem = s.mem := rfl
@[simp] theorem modRill_sens (r : Fin 32) (f : Rill → Rill) (s : State) : (modRill r f s).sens = s.sens := rfl
@[simp] theorem modRill_time (r : Fin 32) (f : Rill → Rill) (s : State) : (modRill r f s).time = s.time := rfl
@[simp] theorem modRill_dsp (r : Fin 32) (f : Rill → Rill) (s : State) : (modRill r f s).dsp = s.dsp := rfl
@[simp] theorem modRill_iq (r : Fin 32) (f : Rill → Rill) (s : State) : (modRill r f s).iq = s.iq := rfl
@[simp] theorem modRill_radio (r : Fin 32) (f : Rill → Rill) (s : State) : (modRill r f s).radio = s.radio := rfl
@[simp] theorem modRill_latch (r : Fin 32) (f : Rill → Rill) (s : State) : (modRill r f s).latch = s.latch := rfl
@[simp] theorem modRill_fresh (r : Fin 32) (f : Rill → Rill) (s : State) : (modRill r f s).fresh = s.fresh := rfl
@[simp] theorem modRill_free (r : Fin 32) (f : Rill → Rill) (s : State) : (modRill r f s).free = s.free := rfl
@[simp] theorem modRill_pending (r : Fin 32) (f : Rill → Rill) (s : State) : (modRill r f s).pending = s.pending := rfl

/-! ### modChan -/

@[simp] theorem modChan_part (c : Fin 128) (f : Chan → Chan) (s : State) : (modChan c f s).part = s.part := rfl
@[simp] theorem modChan_clk (c : Fin 128) (f : Chan → Chan) (s : State) : (modChan c f s).clk = s.clk := rfl
@[simp] theorem modChan_cfg (c : Fin 128) (f : Chan → Chan) (s : State) : (modChan c f s).cfg = s.cfg := rfl
@[simp] theorem modChan_con (c : Fin 128) (f : Chan → Chan) (s : State) : (modChan c f s).con = s.con := rfl
@[simp] theorem modChan_jobs (c : Fin 128) (f : Chan → Chan) (s : State) : (modChan c f s).jobs = s.jobs := rfl
@[simp] theorem modChan_det (c : Fin 128) (f : Chan → Chan) (s : State) : (modChan c f s).det = s.det := rfl
@[simp] theorem modChan_safe (c : Fin 128) (f : Chan → Chan) (s : State) : (modChan c f s).safe = s.safe := rfl
@[simp] theorem modChan_pwr (c : Fin 128) (f : Chan → Chan) (s : State) : (modChan c f s).pwr = s.pwr := rfl
@[simp] theorem modChan_dom (c : Fin 128) (f : Chan → Chan) (s : State) : (modChan c f s).dom = s.dom := rfl
@[simp] theorem modChan_rst (c : Fin 128) (f : Chan → Chan) (s : State) : (modChan c f s).rst = s.rst := rfl
@[simp] theorem modChan_boot (c : Fin 128) (f : Chan → Chan) (s : State) : (modChan c f s).boot = s.boot := rfl
@[simp] theorem modChan_jrnl (c : Fin 128) (f : Chan → Chan) (s : State) : (modChan c f s).jrnl = s.jrnl := rfl
@[simp] theorem modChan_card (c : Fin 128) (f : Chan → Chan) (s : State) : (modChan c f s).card = s.card := rfl
@[simp] theorem modChan_host (c : Fin 128) (f : Chan → Chan) (s : State) : (modChan c f s).host = s.host := rfl
@[simp] theorem modChan_sec (c : Fin 128) (f : Chan → Chan) (s : State) : (modChan c f s).sec = s.sec := rfl
@[simp] theorem modChan_mon (c : Fin 128) (f : Chan → Chan) (s : State) : (modChan c f s).mon = s.mon := rfl
@[simp] theorem modChan_pins (c : Fin 128) (f : Chan → Chan) (s : State) : (modChan c f s).pins = s.pins := rfl
@[simp] theorem modChan_dev (c : Fin 128) (f : Chan → Chan) (s : State) : (modChan c f s).dev = s.dev := rfl
@[simp] theorem modChan_cores (c : Fin 128) (f : Chan → Chan) (s : State) : (modChan c f s).cores = s.cores := rfl
@[simp] theorem modChan_rills (c : Fin 128) (f : Chan → Chan) (s : State) : (modChan c f s).rills = s.rills := rfl
@[simp] theorem modChan_chans (c : Fin 128) (f : Chan → Chan) (s : State) : (modChan c f s).chans = modV s.chans c f := rfl
@[simp] theorem modChan_mem (c : Fin 128) (f : Chan → Chan) (s : State) : (modChan c f s).mem = s.mem := rfl
@[simp] theorem modChan_sens (c : Fin 128) (f : Chan → Chan) (s : State) : (modChan c f s).sens = s.sens := rfl
@[simp] theorem modChan_time (c : Fin 128) (f : Chan → Chan) (s : State) : (modChan c f s).time = s.time := rfl
@[simp] theorem modChan_dsp (c : Fin 128) (f : Chan → Chan) (s : State) : (modChan c f s).dsp = s.dsp := rfl
@[simp] theorem modChan_iq (c : Fin 128) (f : Chan → Chan) (s : State) : (modChan c f s).iq = s.iq := rfl
@[simp] theorem modChan_radio (c : Fin 128) (f : Chan → Chan) (s : State) : (modChan c f s).radio = s.radio := rfl
@[simp] theorem modChan_latch (c : Fin 128) (f : Chan → Chan) (s : State) : (modChan c f s).latch = s.latch := rfl
@[simp] theorem modChan_fresh (c : Fin 128) (f : Chan → Chan) (s : State) : (modChan c f s).fresh = s.fresh := rfl
@[simp] theorem modChan_free (c : Fin 128) (f : Chan → Chan) (s : State) : (modChan c f s).free = s.free := rfl
@[simp] theorem modChan_pending (c : Fin 128) (f : Chan → Chan) (s : State) : (modChan c f s).pending = s.pending := rfl

/-! ### modRadio -/

@[simp] theorem modRadio_part (e : Fin 2) (f : Radio → Radio) (s : State) : (modRadio e f s).part = s.part := rfl
@[simp] theorem modRadio_clk (e : Fin 2) (f : Radio → Radio) (s : State) : (modRadio e f s).clk = s.clk := rfl
@[simp] theorem modRadio_cfg (e : Fin 2) (f : Radio → Radio) (s : State) : (modRadio e f s).cfg = s.cfg := rfl
@[simp] theorem modRadio_con (e : Fin 2) (f : Radio → Radio) (s : State) : (modRadio e f s).con = s.con := rfl
@[simp] theorem modRadio_jobs (e : Fin 2) (f : Radio → Radio) (s : State) : (modRadio e f s).jobs = s.jobs := rfl
@[simp] theorem modRadio_det (e : Fin 2) (f : Radio → Radio) (s : State) : (modRadio e f s).det = s.det := rfl
@[simp] theorem modRadio_safe (e : Fin 2) (f : Radio → Radio) (s : State) : (modRadio e f s).safe = s.safe := rfl
@[simp] theorem modRadio_pwr (e : Fin 2) (f : Radio → Radio) (s : State) : (modRadio e f s).pwr = s.pwr := rfl
@[simp] theorem modRadio_dom (e : Fin 2) (f : Radio → Radio) (s : State) : (modRadio e f s).dom = s.dom := rfl
@[simp] theorem modRadio_rst (e : Fin 2) (f : Radio → Radio) (s : State) : (modRadio e f s).rst = s.rst := rfl
@[simp] theorem modRadio_boot (e : Fin 2) (f : Radio → Radio) (s : State) : (modRadio e f s).boot = s.boot := rfl
@[simp] theorem modRadio_jrnl (e : Fin 2) (f : Radio → Radio) (s : State) : (modRadio e f s).jrnl = s.jrnl := rfl
@[simp] theorem modRadio_card (e : Fin 2) (f : Radio → Radio) (s : State) : (modRadio e f s).card = s.card := rfl
@[simp] theorem modRadio_host (e : Fin 2) (f : Radio → Radio) (s : State) : (modRadio e f s).host = s.host := rfl
@[simp] theorem modRadio_sec (e : Fin 2) (f : Radio → Radio) (s : State) : (modRadio e f s).sec = s.sec := rfl
@[simp] theorem modRadio_mon (e : Fin 2) (f : Radio → Radio) (s : State) : (modRadio e f s).mon = s.mon := rfl
@[simp] theorem modRadio_pins (e : Fin 2) (f : Radio → Radio) (s : State) : (modRadio e f s).pins = s.pins := rfl
@[simp] theorem modRadio_dev (e : Fin 2) (f : Radio → Radio) (s : State) : (modRadio e f s).dev = s.dev := rfl
@[simp] theorem modRadio_cores (e : Fin 2) (f : Radio → Radio) (s : State) : (modRadio e f s).cores = s.cores := rfl
@[simp] theorem modRadio_rills (e : Fin 2) (f : Radio → Radio) (s : State) : (modRadio e f s).rills = s.rills := rfl
@[simp] theorem modRadio_chans (e : Fin 2) (f : Radio → Radio) (s : State) : (modRadio e f s).chans = s.chans := rfl
@[simp] theorem modRadio_mem (e : Fin 2) (f : Radio → Radio) (s : State) : (modRadio e f s).mem = s.mem := rfl
@[simp] theorem modRadio_sens (e : Fin 2) (f : Radio → Radio) (s : State) : (modRadio e f s).sens = s.sens := rfl
@[simp] theorem modRadio_time (e : Fin 2) (f : Radio → Radio) (s : State) : (modRadio e f s).time = s.time := rfl
@[simp] theorem modRadio_dsp (e : Fin 2) (f : Radio → Radio) (s : State) : (modRadio e f s).dsp = s.dsp := rfl
@[simp] theorem modRadio_iq (e : Fin 2) (f : Radio → Radio) (s : State) : (modRadio e f s).iq = s.iq := rfl
@[simp] theorem modRadio_radio (e : Fin 2) (f : Radio → Radio) (s : State) : (modRadio e f s).radio = modV s.radio e f := rfl
@[simp] theorem modRadio_latch (e : Fin 2) (f : Radio → Radio) (s : State) : (modRadio e f s).latch = s.latch := rfl
@[simp] theorem modRadio_fresh (e : Fin 2) (f : Radio → Radio) (s : State) : (modRadio e f s).fresh = s.fresh := rfl
@[simp] theorem modRadio_free (e : Fin 2) (f : Radio → Radio) (s : State) : (modRadio e f s).free = s.free := rfl
@[simp] theorem modRadio_pending (e : Fin 2) (f : Radio → Radio) (s : State) : (modRadio e f s).pending = s.pending := rfl

/-! ### modPair -/

@[simp] theorem modPair_part (e : Fin 2) (f : IqPair → IqPair) (s : State) : (modPair e f s).part = s.part := rfl
@[simp] theorem modPair_clk (e : Fin 2) (f : IqPair → IqPair) (s : State) : (modPair e f s).clk = s.clk := rfl
@[simp] theorem modPair_cfg (e : Fin 2) (f : IqPair → IqPair) (s : State) : (modPair e f s).cfg = s.cfg := rfl
@[simp] theorem modPair_con (e : Fin 2) (f : IqPair → IqPair) (s : State) : (modPair e f s).con = s.con := rfl
@[simp] theorem modPair_jobs (e : Fin 2) (f : IqPair → IqPair) (s : State) : (modPair e f s).jobs = s.jobs := rfl
@[simp] theorem modPair_det (e : Fin 2) (f : IqPair → IqPair) (s : State) : (modPair e f s).det = s.det := rfl
@[simp] theorem modPair_safe (e : Fin 2) (f : IqPair → IqPair) (s : State) : (modPair e f s).safe = s.safe := rfl
@[simp] theorem modPair_pwr (e : Fin 2) (f : IqPair → IqPair) (s : State) : (modPair e f s).pwr = s.pwr := rfl
@[simp] theorem modPair_dom (e : Fin 2) (f : IqPair → IqPair) (s : State) : (modPair e f s).dom = s.dom := rfl
@[simp] theorem modPair_rst (e : Fin 2) (f : IqPair → IqPair) (s : State) : (modPair e f s).rst = s.rst := rfl
@[simp] theorem modPair_boot (e : Fin 2) (f : IqPair → IqPair) (s : State) : (modPair e f s).boot = s.boot := rfl
@[simp] theorem modPair_jrnl (e : Fin 2) (f : IqPair → IqPair) (s : State) : (modPair e f s).jrnl = s.jrnl := rfl
@[simp] theorem modPair_card (e : Fin 2) (f : IqPair → IqPair) (s : State) : (modPair e f s).card = s.card := rfl
@[simp] theorem modPair_host (e : Fin 2) (f : IqPair → IqPair) (s : State) : (modPair e f s).host = s.host := rfl
@[simp] theorem modPair_sec (e : Fin 2) (f : IqPair → IqPair) (s : State) : (modPair e f s).sec = s.sec := rfl
@[simp] theorem modPair_mon (e : Fin 2) (f : IqPair → IqPair) (s : State) : (modPair e f s).mon = s.mon := rfl
@[simp] theorem modPair_pins (e : Fin 2) (f : IqPair → IqPair) (s : State) : (modPair e f s).pins = s.pins := rfl
@[simp] theorem modPair_dev (e : Fin 2) (f : IqPair → IqPair) (s : State) : (modPair e f s).dev = s.dev := rfl
@[simp] theorem modPair_cores (e : Fin 2) (f : IqPair → IqPair) (s : State) : (modPair e f s).cores = s.cores := rfl
@[simp] theorem modPair_rills (e : Fin 2) (f : IqPair → IqPair) (s : State) : (modPair e f s).rills = s.rills := rfl
@[simp] theorem modPair_chans (e : Fin 2) (f : IqPair → IqPair) (s : State) : (modPair e f s).chans = s.chans := rfl
@[simp] theorem modPair_mem (e : Fin 2) (f : IqPair → IqPair) (s : State) : (modPair e f s).mem = s.mem := rfl
@[simp] theorem modPair_sens (e : Fin 2) (f : IqPair → IqPair) (s : State) : (modPair e f s).sens = s.sens := rfl
@[simp] theorem modPair_time (e : Fin 2) (f : IqPair → IqPair) (s : State) : (modPair e f s).time = s.time := rfl
@[simp] theorem modPair_dsp (e : Fin 2) (f : IqPair → IqPair) (s : State) : (modPair e f s).dsp = s.dsp := rfl
@[simp] theorem modPair_iq (e : Fin 2) (f : IqPair → IqPair) (s : State) : (modPair e f s).iq = { s.iq with pairs := modV s.iq.pairs e f } := rfl
@[simp] theorem modPair_radio (e : Fin 2) (f : IqPair → IqPair) (s : State) : (modPair e f s).radio = s.radio := rfl
@[simp] theorem modPair_latch (e : Fin 2) (f : IqPair → IqPair) (s : State) : (modPair e f s).latch = s.latch := rfl
@[simp] theorem modPair_fresh (e : Fin 2) (f : IqPair → IqPair) (s : State) : (modPair e f s).fresh = s.fresh := rfl
@[simp] theorem modPair_free (e : Fin 2) (f : IqPair → IqPair) (s : State) : (modPair e f s).free = s.free := rfl
@[simp] theorem modPair_pending (e : Fin 2) (f : IqPair → IqPair) (s : State) : (modPair e f s).pending = s.pending := rfl

/-! ### modSafe -/

@[simp] theorem modSafe_part (c : Fin 64) (f : CoreSafe → CoreSafe) (s : State) : (modSafe c f s).part = s.part := rfl
@[simp] theorem modSafe_clk (c : Fin 64) (f : CoreSafe → CoreSafe) (s : State) : (modSafe c f s).clk = s.clk := rfl
@[simp] theorem modSafe_cfg (c : Fin 64) (f : CoreSafe → CoreSafe) (s : State) : (modSafe c f s).cfg = s.cfg := rfl
@[simp] theorem modSafe_con (c : Fin 64) (f : CoreSafe → CoreSafe) (s : State) : (modSafe c f s).con = s.con := rfl
@[simp] theorem modSafe_jobs (c : Fin 64) (f : CoreSafe → CoreSafe) (s : State) : (modSafe c f s).jobs = s.jobs := rfl
@[simp] theorem modSafe_det (c : Fin 64) (f : CoreSafe → CoreSafe) (s : State) : (modSafe c f s).det = s.det := rfl
@[simp] theorem modSafe_safe (c : Fin 64) (f : CoreSafe → CoreSafe) (s : State) : (modSafe c f s).safe = { s.safe with cores := modV s.safe.cores c f } := rfl
@[simp] theorem modSafe_pwr (c : Fin 64) (f : CoreSafe → CoreSafe) (s : State) : (modSafe c f s).pwr = s.pwr := rfl
@[simp] theorem modSafe_dom (c : Fin 64) (f : CoreSafe → CoreSafe) (s : State) : (modSafe c f s).dom = s.dom := rfl
@[simp] theorem modSafe_rst (c : Fin 64) (f : CoreSafe → CoreSafe) (s : State) : (modSafe c f s).rst = s.rst := rfl
@[simp] theorem modSafe_boot (c : Fin 64) (f : CoreSafe → CoreSafe) (s : State) : (modSafe c f s).boot = s.boot := rfl
@[simp] theorem modSafe_jrnl (c : Fin 64) (f : CoreSafe → CoreSafe) (s : State) : (modSafe c f s).jrnl = s.jrnl := rfl
@[simp] theorem modSafe_card (c : Fin 64) (f : CoreSafe → CoreSafe) (s : State) : (modSafe c f s).card = s.card := rfl
@[simp] theorem modSafe_host (c : Fin 64) (f : CoreSafe → CoreSafe) (s : State) : (modSafe c f s).host = s.host := rfl
@[simp] theorem modSafe_sec (c : Fin 64) (f : CoreSafe → CoreSafe) (s : State) : (modSafe c f s).sec = s.sec := rfl
@[simp] theorem modSafe_mon (c : Fin 64) (f : CoreSafe → CoreSafe) (s : State) : (modSafe c f s).mon = s.mon := rfl
@[simp] theorem modSafe_pins (c : Fin 64) (f : CoreSafe → CoreSafe) (s : State) : (modSafe c f s).pins = s.pins := rfl
@[simp] theorem modSafe_dev (c : Fin 64) (f : CoreSafe → CoreSafe) (s : State) : (modSafe c f s).dev = s.dev := rfl
@[simp] theorem modSafe_cores (c : Fin 64) (f : CoreSafe → CoreSafe) (s : State) : (modSafe c f s).cores = s.cores := rfl
@[simp] theorem modSafe_rills (c : Fin 64) (f : CoreSafe → CoreSafe) (s : State) : (modSafe c f s).rills = s.rills := rfl
@[simp] theorem modSafe_chans (c : Fin 64) (f : CoreSafe → CoreSafe) (s : State) : (modSafe c f s).chans = s.chans := rfl
@[simp] theorem modSafe_mem (c : Fin 64) (f : CoreSafe → CoreSafe) (s : State) : (modSafe c f s).mem = s.mem := rfl
@[simp] theorem modSafe_sens (c : Fin 64) (f : CoreSafe → CoreSafe) (s : State) : (modSafe c f s).sens = s.sens := rfl
@[simp] theorem modSafe_time (c : Fin 64) (f : CoreSafe → CoreSafe) (s : State) : (modSafe c f s).time = s.time := rfl
@[simp] theorem modSafe_dsp (c : Fin 64) (f : CoreSafe → CoreSafe) (s : State) : (modSafe c f s).dsp = s.dsp := rfl
@[simp] theorem modSafe_iq (c : Fin 64) (f : CoreSafe → CoreSafe) (s : State) : (modSafe c f s).iq = s.iq := rfl
@[simp] theorem modSafe_radio (c : Fin 64) (f : CoreSafe → CoreSafe) (s : State) : (modSafe c f s).radio = s.radio := rfl
@[simp] theorem modSafe_latch (c : Fin 64) (f : CoreSafe → CoreSafe) (s : State) : (modSafe c f s).latch = s.latch := rfl
@[simp] theorem modSafe_fresh (c : Fin 64) (f : CoreSafe → CoreSafe) (s : State) : (modSafe c f s).fresh = s.fresh := rfl
@[simp] theorem modSafe_free (c : Fin 64) (f : CoreSafe → CoreSafe) (s : State) : (modSafe c f s).free = s.free := rfl
@[simp] theorem modSafe_pending (c : Fin 64) (f : CoreSafe → CoreSafe) (s : State) : (modSafe c f s).pending = s.pending := rfl

/-! ### modSeq -/

@[simp] theorem modSeq_part (i : Fin 256) (f : Seq → Seq) (s : State) : (modSeq i f s).part = s.part := rfl
@[simp] theorem modSeq_clk (i : Fin 256) (f : Seq → Seq) (s : State) : (modSeq i f s).clk = s.clk := rfl
@[simp] theorem modSeq_cfg (i : Fin 256) (f : Seq → Seq) (s : State) : (modSeq i f s).cfg = s.cfg := rfl
@[simp] theorem modSeq_con (i : Fin 256) (f : Seq → Seq) (s : State) : (modSeq i f s).con = s.con := rfl
@[simp] theorem modSeq_jobs (i : Fin 256) (f : Seq → Seq) (s : State) : (modSeq i f s).jobs = { s.jobs with seqs := modV s.jobs.seqs i f } := rfl
@[simp] theorem modSeq_det (i : Fin 256) (f : Seq → Seq) (s : State) : (modSeq i f s).det = s.det := rfl
@[simp] theorem modSeq_safe (i : Fin 256) (f : Seq → Seq) (s : State) : (modSeq i f s).safe = s.safe := rfl
@[simp] theorem modSeq_pwr (i : Fin 256) (f : Seq → Seq) (s : State) : (modSeq i f s).pwr = s.pwr := rfl
@[simp] theorem modSeq_dom (i : Fin 256) (f : Seq → Seq) (s : State) : (modSeq i f s).dom = s.dom := rfl
@[simp] theorem modSeq_rst (i : Fin 256) (f : Seq → Seq) (s : State) : (modSeq i f s).rst = s.rst := rfl
@[simp] theorem modSeq_boot (i : Fin 256) (f : Seq → Seq) (s : State) : (modSeq i f s).boot = s.boot := rfl
@[simp] theorem modSeq_jrnl (i : Fin 256) (f : Seq → Seq) (s : State) : (modSeq i f s).jrnl = s.jrnl := rfl
@[simp] theorem modSeq_card (i : Fin 256) (f : Seq → Seq) (s : State) : (modSeq i f s).card = s.card := rfl
@[simp] theorem modSeq_host (i : Fin 256) (f : Seq → Seq) (s : State) : (modSeq i f s).host = s.host := rfl
@[simp] theorem modSeq_sec (i : Fin 256) (f : Seq → Seq) (s : State) : (modSeq i f s).sec = s.sec := rfl
@[simp] theorem modSeq_mon (i : Fin 256) (f : Seq → Seq) (s : State) : (modSeq i f s).mon = s.mon := rfl
@[simp] theorem modSeq_pins (i : Fin 256) (f : Seq → Seq) (s : State) : (modSeq i f s).pins = s.pins := rfl
@[simp] theorem modSeq_dev (i : Fin 256) (f : Seq → Seq) (s : State) : (modSeq i f s).dev = s.dev := rfl
@[simp] theorem modSeq_cores (i : Fin 256) (f : Seq → Seq) (s : State) : (modSeq i f s).cores = s.cores := rfl
@[simp] theorem modSeq_rills (i : Fin 256) (f : Seq → Seq) (s : State) : (modSeq i f s).rills = s.rills := rfl
@[simp] theorem modSeq_chans (i : Fin 256) (f : Seq → Seq) (s : State) : (modSeq i f s).chans = s.chans := rfl
@[simp] theorem modSeq_mem (i : Fin 256) (f : Seq → Seq) (s : State) : (modSeq i f s).mem = s.mem := rfl
@[simp] theorem modSeq_sens (i : Fin 256) (f : Seq → Seq) (s : State) : (modSeq i f s).sens = s.sens := rfl
@[simp] theorem modSeq_time (i : Fin 256) (f : Seq → Seq) (s : State) : (modSeq i f s).time = s.time := rfl
@[simp] theorem modSeq_dsp (i : Fin 256) (f : Seq → Seq) (s : State) : (modSeq i f s).dsp = s.dsp := rfl
@[simp] theorem modSeq_iq (i : Fin 256) (f : Seq → Seq) (s : State) : (modSeq i f s).iq = s.iq := rfl
@[simp] theorem modSeq_radio (i : Fin 256) (f : Seq → Seq) (s : State) : (modSeq i f s).radio = s.radio := rfl
@[simp] theorem modSeq_latch (i : Fin 256) (f : Seq → Seq) (s : State) : (modSeq i f s).latch = s.latch := rfl
@[simp] theorem modSeq_fresh (i : Fin 256) (f : Seq → Seq) (s : State) : (modSeq i f s).fresh = s.fresh := rfl
@[simp] theorem modSeq_free (i : Fin 256) (f : Seq → Seq) (s : State) : (modSeq i f s).free = s.free := rfl
@[simp] theorem modSeq_pending (i : Fin 256) (f : Seq → Seq) (s : State) : (modSeq i f s).pending = s.pending := rfl

/-! ### modCtx -/

@[simp] theorem modCtx_part (n : Fin 24) (f : SnsCtx → SnsCtx) (s : State) : (modCtx n f s).part = s.part := rfl
@[simp] theorem modCtx_clk (n : Fin 24) (f : SnsCtx → SnsCtx) (s : State) : (modCtx n f s).clk = s.clk := rfl
@[simp] theorem modCtx_cfg (n : Fin 24) (f : SnsCtx → SnsCtx) (s : State) : (modCtx n f s).cfg = s.cfg := rfl
@[simp] theorem modCtx_con (n : Fin 24) (f : SnsCtx → SnsCtx) (s : State) : (modCtx n f s).con = s.con := rfl
@[simp] theorem modCtx_jobs (n : Fin 24) (f : SnsCtx → SnsCtx) (s : State) : (modCtx n f s).jobs = s.jobs := rfl
@[simp] theorem modCtx_det (n : Fin 24) (f : SnsCtx → SnsCtx) (s : State) : (modCtx n f s).det = s.det := rfl
@[simp] theorem modCtx_safe (n : Fin 24) (f : SnsCtx → SnsCtx) (s : State) : (modCtx n f s).safe = s.safe := rfl
@[simp] theorem modCtx_pwr (n : Fin 24) (f : SnsCtx → SnsCtx) (s : State) : (modCtx n f s).pwr = s.pwr := rfl
@[simp] theorem modCtx_dom (n : Fin 24) (f : SnsCtx → SnsCtx) (s : State) : (modCtx n f s).dom = s.dom := rfl
@[simp] theorem modCtx_rst (n : Fin 24) (f : SnsCtx → SnsCtx) (s : State) : (modCtx n f s).rst = s.rst := rfl
@[simp] theorem modCtx_boot (n : Fin 24) (f : SnsCtx → SnsCtx) (s : State) : (modCtx n f s).boot = s.boot := rfl
@[simp] theorem modCtx_jrnl (n : Fin 24) (f : SnsCtx → SnsCtx) (s : State) : (modCtx n f s).jrnl = s.jrnl := rfl
@[simp] theorem modCtx_card (n : Fin 24) (f : SnsCtx → SnsCtx) (s : State) : (modCtx n f s).card = s.card := rfl
@[simp] theorem modCtx_host (n : Fin 24) (f : SnsCtx → SnsCtx) (s : State) : (modCtx n f s).host = s.host := rfl
@[simp] theorem modCtx_sec (n : Fin 24) (f : SnsCtx → SnsCtx) (s : State) : (modCtx n f s).sec = s.sec := rfl
@[simp] theorem modCtx_mon (n : Fin 24) (f : SnsCtx → SnsCtx) (s : State) : (modCtx n f s).mon = s.mon := rfl
@[simp] theorem modCtx_pins (n : Fin 24) (f : SnsCtx → SnsCtx) (s : State) : (modCtx n f s).pins = s.pins := rfl
@[simp] theorem modCtx_dev (n : Fin 24) (f : SnsCtx → SnsCtx) (s : State) : (modCtx n f s).dev = s.dev := rfl
@[simp] theorem modCtx_cores (n : Fin 24) (f : SnsCtx → SnsCtx) (s : State) : (modCtx n f s).cores = s.cores := rfl
@[simp] theorem modCtx_rills (n : Fin 24) (f : SnsCtx → SnsCtx) (s : State) : (modCtx n f s).rills = s.rills := rfl
@[simp] theorem modCtx_chans (n : Fin 24) (f : SnsCtx → SnsCtx) (s : State) : (modCtx n f s).chans = s.chans := rfl
@[simp] theorem modCtx_mem (n : Fin 24) (f : SnsCtx → SnsCtx) (s : State) : (modCtx n f s).mem = s.mem := rfl
@[simp] theorem modCtx_sens (n : Fin 24) (f : SnsCtx → SnsCtx) (s : State) : (modCtx n f s).sens = { s.sens with ctxs := modV s.sens.ctxs n f } := rfl
@[simp] theorem modCtx_time (n : Fin 24) (f : SnsCtx → SnsCtx) (s : State) : (modCtx n f s).time = s.time := rfl
@[simp] theorem modCtx_dsp (n : Fin 24) (f : SnsCtx → SnsCtx) (s : State) : (modCtx n f s).dsp = s.dsp := rfl
@[simp] theorem modCtx_iq (n : Fin 24) (f : SnsCtx → SnsCtx) (s : State) : (modCtx n f s).iq = s.iq := rfl
@[simp] theorem modCtx_radio (n : Fin 24) (f : SnsCtx → SnsCtx) (s : State) : (modCtx n f s).radio = s.radio := rfl
@[simp] theorem modCtx_latch (n : Fin 24) (f : SnsCtx → SnsCtx) (s : State) : (modCtx n f s).latch = s.latch := rfl
@[simp] theorem modCtx_fresh (n : Fin 24) (f : SnsCtx → SnsCtx) (s : State) : (modCtx n f s).fresh = s.fresh := rfl
@[simp] theorem modCtx_free (n : Fin 24) (f : SnsCtx → SnsCtx) (s : State) : (modCtx n f s).free = s.free := rfl
@[simp] theorem modCtx_pending (n : Fin 24) (f : SnsCtx → SnsCtx) (s : State) : (modCtx n f s).pending = s.pending := rfl

/-! ### modCsi -/

@[simp] theorem modCsi_part (n : Fin 8) (f : Csi → Csi) (s : State) : (modCsi n f s).part = s.part := rfl
@[simp] theorem modCsi_clk (n : Fin 8) (f : Csi → Csi) (s : State) : (modCsi n f s).clk = s.clk := rfl
@[simp] theorem modCsi_cfg (n : Fin 8) (f : Csi → Csi) (s : State) : (modCsi n f s).cfg = s.cfg := rfl
@[simp] theorem modCsi_con (n : Fin 8) (f : Csi → Csi) (s : State) : (modCsi n f s).con = s.con := rfl
@[simp] theorem modCsi_jobs (n : Fin 8) (f : Csi → Csi) (s : State) : (modCsi n f s).jobs = s.jobs := rfl
@[simp] theorem modCsi_det (n : Fin 8) (f : Csi → Csi) (s : State) : (modCsi n f s).det = s.det := rfl
@[simp] theorem modCsi_safe (n : Fin 8) (f : Csi → Csi) (s : State) : (modCsi n f s).safe = s.safe := rfl
@[simp] theorem modCsi_pwr (n : Fin 8) (f : Csi → Csi) (s : State) : (modCsi n f s).pwr = s.pwr := rfl
@[simp] theorem modCsi_dom (n : Fin 8) (f : Csi → Csi) (s : State) : (modCsi n f s).dom = s.dom := rfl
@[simp] theorem modCsi_rst (n : Fin 8) (f : Csi → Csi) (s : State) : (modCsi n f s).rst = s.rst := rfl
@[simp] theorem modCsi_boot (n : Fin 8) (f : Csi → Csi) (s : State) : (modCsi n f s).boot = s.boot := rfl
@[simp] theorem modCsi_jrnl (n : Fin 8) (f : Csi → Csi) (s : State) : (modCsi n f s).jrnl = s.jrnl := rfl
@[simp] theorem modCsi_card (n : Fin 8) (f : Csi → Csi) (s : State) : (modCsi n f s).card = s.card := rfl
@[simp] theorem modCsi_host (n : Fin 8) (f : Csi → Csi) (s : State) : (modCsi n f s).host = s.host := rfl
@[simp] theorem modCsi_sec (n : Fin 8) (f : Csi → Csi) (s : State) : (modCsi n f s).sec = s.sec := rfl
@[simp] theorem modCsi_mon (n : Fin 8) (f : Csi → Csi) (s : State) : (modCsi n f s).mon = s.mon := rfl
@[simp] theorem modCsi_pins (n : Fin 8) (f : Csi → Csi) (s : State) : (modCsi n f s).pins = s.pins := rfl
@[simp] theorem modCsi_dev (n : Fin 8) (f : Csi → Csi) (s : State) : (modCsi n f s).dev = s.dev := rfl
@[simp] theorem modCsi_cores (n : Fin 8) (f : Csi → Csi) (s : State) : (modCsi n f s).cores = s.cores := rfl
@[simp] theorem modCsi_rills (n : Fin 8) (f : Csi → Csi) (s : State) : (modCsi n f s).rills = s.rills := rfl
@[simp] theorem modCsi_chans (n : Fin 8) (f : Csi → Csi) (s : State) : (modCsi n f s).chans = s.chans := rfl
@[simp] theorem modCsi_mem (n : Fin 8) (f : Csi → Csi) (s : State) : (modCsi n f s).mem = s.mem := rfl
@[simp] theorem modCsi_sens (n : Fin 8) (f : Csi → Csi) (s : State) : (modCsi n f s).sens = { s.sens with csis := modV s.sens.csis n f } := rfl
@[simp] theorem modCsi_time (n : Fin 8) (f : Csi → Csi) (s : State) : (modCsi n f s).time = s.time := rfl
@[simp] theorem modCsi_dsp (n : Fin 8) (f : Csi → Csi) (s : State) : (modCsi n f s).dsp = s.dsp := rfl
@[simp] theorem modCsi_iq (n : Fin 8) (f : Csi → Csi) (s : State) : (modCsi n f s).iq = s.iq := rfl
@[simp] theorem modCsi_radio (n : Fin 8) (f : Csi → Csi) (s : State) : (modCsi n f s).radio = s.radio := rfl
@[simp] theorem modCsi_latch (n : Fin 8) (f : Csi → Csi) (s : State) : (modCsi n f s).latch = s.latch := rfl
@[simp] theorem modCsi_fresh (n : Fin 8) (f : Csi → Csi) (s : State) : (modCsi n f s).fresh = s.fresh := rfl
@[simp] theorem modCsi_free (n : Fin 8) (f : Csi → Csi) (s : State) : (modCsi n f s).free = s.free := rfl
@[simp] theorem modCsi_pending (n : Fin 8) (f : Csi → Csi) (s : State) : (modCsi n f s).pending = s.pending := rfl

/-! ### modPort -/

@[simp] theorem modPort_part (p : Fin 4) (f : Port → Port) (s : State) : (modPort p f s).part = s.part := rfl
@[simp] theorem modPort_clk (p : Fin 4) (f : Port → Port) (s : State) : (modPort p f s).clk = s.clk := rfl
@[simp] theorem modPort_cfg (p : Fin 4) (f : Port → Port) (s : State) : (modPort p f s).cfg = s.cfg := rfl
@[simp] theorem modPort_con (p : Fin 4) (f : Port → Port) (s : State) : (modPort p f s).con = s.con := rfl
@[simp] theorem modPort_jobs (p : Fin 4) (f : Port → Port) (s : State) : (modPort p f s).jobs = s.jobs := rfl
@[simp] theorem modPort_det (p : Fin 4) (f : Port → Port) (s : State) : (modPort p f s).det = s.det := rfl
@[simp] theorem modPort_safe (p : Fin 4) (f : Port → Port) (s : State) : (modPort p f s).safe = s.safe := rfl
@[simp] theorem modPort_pwr (p : Fin 4) (f : Port → Port) (s : State) : (modPort p f s).pwr = s.pwr := rfl
@[simp] theorem modPort_dom (p : Fin 4) (f : Port → Port) (s : State) : (modPort p f s).dom = s.dom := rfl
@[simp] theorem modPort_rst (p : Fin 4) (f : Port → Port) (s : State) : (modPort p f s).rst = s.rst := rfl
@[simp] theorem modPort_boot (p : Fin 4) (f : Port → Port) (s : State) : (modPort p f s).boot = s.boot := rfl
@[simp] theorem modPort_jrnl (p : Fin 4) (f : Port → Port) (s : State) : (modPort p f s).jrnl = s.jrnl := rfl
@[simp] theorem modPort_card (p : Fin 4) (f : Port → Port) (s : State) : (modPort p f s).card = s.card := rfl
@[simp] theorem modPort_host (p : Fin 4) (f : Port → Port) (s : State) : (modPort p f s).host = s.host := rfl
@[simp] theorem modPort_sec (p : Fin 4) (f : Port → Port) (s : State) : (modPort p f s).sec = s.sec := rfl
@[simp] theorem modPort_mon (p : Fin 4) (f : Port → Port) (s : State) : (modPort p f s).mon = s.mon := rfl
@[simp] theorem modPort_pins (p : Fin 4) (f : Port → Port) (s : State) : (modPort p f s).pins = s.pins := rfl
@[simp] theorem modPort_dev (p : Fin 4) (f : Port → Port) (s : State) : (modPort p f s).dev = s.dev := rfl
@[simp] theorem modPort_cores (p : Fin 4) (f : Port → Port) (s : State) : (modPort p f s).cores = s.cores := rfl
@[simp] theorem modPort_rills (p : Fin 4) (f : Port → Port) (s : State) : (modPort p f s).rills = s.rills := rfl
@[simp] theorem modPort_chans (p : Fin 4) (f : Port → Port) (s : State) : (modPort p f s).chans = s.chans := rfl
@[simp] theorem modPort_mem (p : Fin 4) (f : Port → Port) (s : State) : (modPort p f s).mem = s.mem := rfl
@[simp] theorem modPort_sens (p : Fin 4) (f : Port → Port) (s : State) : (modPort p f s).sens = { s.sens with ports := modV s.sens.ports p f } := rfl
@[simp] theorem modPort_time (p : Fin 4) (f : Port → Port) (s : State) : (modPort p f s).time = s.time := rfl
@[simp] theorem modPort_dsp (p : Fin 4) (f : Port → Port) (s : State) : (modPort p f s).dsp = s.dsp := rfl
@[simp] theorem modPort_iq (p : Fin 4) (f : Port → Port) (s : State) : (modPort p f s).iq = s.iq := rfl
@[simp] theorem modPort_radio (p : Fin 4) (f : Port → Port) (s : State) : (modPort p f s).radio = s.radio := rfl
@[simp] theorem modPort_latch (p : Fin 4) (f : Port → Port) (s : State) : (modPort p f s).latch = s.latch := rfl
@[simp] theorem modPort_fresh (p : Fin 4) (f : Port → Port) (s : State) : (modPort p f s).fresh = s.fresh := rfl
@[simp] theorem modPort_free (p : Fin 4) (f : Port → Port) (s : State) : (modPort p f s).free = s.free := rfl
@[simp] theorem modPort_pending (p : Fin 4) (f : Port → Port) (s : State) : (modPort p f s).pending = s.pending := rfl

/-! ### setHandoff -/

@[simp] theorem setHandoff_part (e : Fin 2) (o : Nat) (w : Word) (s : State) : (setHandoff e o w s).part = s.part := rfl
@[simp] theorem setHandoff_clk (e : Fin 2) (o : Nat) (w : Word) (s : State) : (setHandoff e o w s).clk = s.clk := rfl
@[simp] theorem setHandoff_cfg (e : Fin 2) (o : Nat) (w : Word) (s : State) : (setHandoff e o w s).cfg = s.cfg := rfl
@[simp] theorem setHandoff_con (e : Fin 2) (o : Nat) (w : Word) (s : State) : (setHandoff e o w s).con = s.con := rfl
@[simp] theorem setHandoff_jobs (e : Fin 2) (o : Nat) (w : Word) (s : State) : (setHandoff e o w s).jobs = s.jobs := rfl
@[simp] theorem setHandoff_det (e : Fin 2) (o : Nat) (w : Word) (s : State) : (setHandoff e o w s).det = s.det := rfl
@[simp] theorem setHandoff_safe (e : Fin 2) (o : Nat) (w : Word) (s : State) : (setHandoff e o w s).safe = s.safe := rfl
@[simp] theorem setHandoff_pwr (e : Fin 2) (o : Nat) (w : Word) (s : State) : (setHandoff e o w s).pwr = s.pwr := rfl
@[simp] theorem setHandoff_dom (e : Fin 2) (o : Nat) (w : Word) (s : State) : (setHandoff e o w s).dom = s.dom := rfl
@[simp] theorem setHandoff_rst (e : Fin 2) (o : Nat) (w : Word) (s : State) : (setHandoff e o w s).rst = s.rst := rfl
@[simp] theorem setHandoff_boot (e : Fin 2) (o : Nat) (w : Word) (s : State) : (setHandoff e o w s).boot = s.boot := rfl
@[simp] theorem setHandoff_jrnl (e : Fin 2) (o : Nat) (w : Word) (s : State) : (setHandoff e o w s).jrnl = s.jrnl := rfl
@[simp] theorem setHandoff_card (e : Fin 2) (o : Nat) (w : Word) (s : State) : (setHandoff e o w s).card = s.card := rfl
@[simp] theorem setHandoff_host (e : Fin 2) (o : Nat) (w : Word) (s : State) : (setHandoff e o w s).host = s.host := rfl
@[simp] theorem setHandoff_sec (e : Fin 2) (o : Nat) (w : Word) (s : State) : (setHandoff e o w s).sec = s.sec := rfl
@[simp] theorem setHandoff_mon (e : Fin 2) (o : Nat) (w : Word) (s : State) : (setHandoff e o w s).mon = s.mon := rfl
@[simp] theorem setHandoff_pins (e : Fin 2) (o : Nat) (w : Word) (s : State) : (setHandoff e o w s).pins = s.pins := rfl
@[simp] theorem setHandoff_dev (e : Fin 2) (o : Nat) (w : Word) (s : State) : (setHandoff e o w s).dev = s.dev := rfl
@[simp] theorem setHandoff_cores (e : Fin 2) (o : Nat) (w : Word) (s : State) : (setHandoff e o w s).cores = s.cores := rfl
@[simp] theorem setHandoff_rills (e : Fin 2) (o : Nat) (w : Word) (s : State) : (setHandoff e o w s).rills = s.rills := rfl
@[simp] theorem setHandoff_chans (e : Fin 2) (o : Nat) (w : Word) (s : State) : (setHandoff e o w s).chans = s.chans := rfl
@[simp] theorem setHandoff_mem (e : Fin 2) (o : Nat) (w : Word) (s : State) : (setHandoff e o w s).mem = s.mem := rfl
@[simp] theorem setHandoff_sens (e : Fin 2) (o : Nat) (w : Word) (s : State) : (setHandoff e o w s).sens = s.sens := rfl
@[simp] theorem setHandoff_time (e : Fin 2) (o : Nat) (w : Word) (s : State) : (setHandoff e o w s).time = s.time := rfl
@[simp] theorem setHandoff_dsp (e : Fin 2) (o : Nat) (w : Word) (s : State) : (setHandoff e o w s).dsp = { s.dsp with y := Cells.put 0 s.dsp.y (8192 + 4096 * e.1 + o) w } := rfl
@[simp] theorem setHandoff_iq (e : Fin 2) (o : Nat) (w : Word) (s : State) : (setHandoff e o w s).iq = s.iq := rfl
@[simp] theorem setHandoff_radio (e : Fin 2) (o : Nat) (w : Word) (s : State) : (setHandoff e o w s).radio = s.radio := rfl
@[simp] theorem setHandoff_latch (e : Fin 2) (o : Nat) (w : Word) (s : State) : (setHandoff e o w s).latch = s.latch := rfl
@[simp] theorem setHandoff_fresh (e : Fin 2) (o : Nat) (w : Word) (s : State) : (setHandoff e o w s).fresh = s.fresh := rfl
@[simp] theorem setHandoff_free (e : Fin 2) (o : Nat) (w : Word) (s : State) : (setHandoff e o w s).free = s.free := rfl
@[simp] theorem setHandoff_pending (e : Fin 2) (o : Nat) (w : Word) (s : State) : (setHandoff e o w s).pending = s.pending := rfl

/-! ### writeX -/

@[simp] theorem writeX_part (a : Nat) (ws : List Word) (s : State) : (writeX a ws s).part = s.part := rfl
@[simp] theorem writeX_clk (a : Nat) (ws : List Word) (s : State) : (writeX a ws s).clk = s.clk := rfl
@[simp] theorem writeX_cfg (a : Nat) (ws : List Word) (s : State) : (writeX a ws s).cfg = s.cfg := rfl
@[simp] theorem writeX_con (a : Nat) (ws : List Word) (s : State) : (writeX a ws s).con = s.con := rfl
@[simp] theorem writeX_jobs (a : Nat) (ws : List Word) (s : State) : (writeX a ws s).jobs = s.jobs := rfl
@[simp] theorem writeX_det (a : Nat) (ws : List Word) (s : State) : (writeX a ws s).det = s.det := rfl
@[simp] theorem writeX_safe (a : Nat) (ws : List Word) (s : State) : (writeX a ws s).safe = s.safe := rfl
@[simp] theorem writeX_pwr (a : Nat) (ws : List Word) (s : State) : (writeX a ws s).pwr = s.pwr := rfl
@[simp] theorem writeX_dom (a : Nat) (ws : List Word) (s : State) : (writeX a ws s).dom = s.dom := rfl
@[simp] theorem writeX_rst (a : Nat) (ws : List Word) (s : State) : (writeX a ws s).rst = s.rst := rfl
@[simp] theorem writeX_boot (a : Nat) (ws : List Word) (s : State) : (writeX a ws s).boot = s.boot := rfl
@[simp] theorem writeX_jrnl (a : Nat) (ws : List Word) (s : State) : (writeX a ws s).jrnl = s.jrnl := rfl
@[simp] theorem writeX_card (a : Nat) (ws : List Word) (s : State) : (writeX a ws s).card = s.card := rfl
@[simp] theorem writeX_host (a : Nat) (ws : List Word) (s : State) : (writeX a ws s).host = s.host := rfl
@[simp] theorem writeX_sec (a : Nat) (ws : List Word) (s : State) : (writeX a ws s).sec = s.sec := rfl
@[simp] theorem writeX_mon (a : Nat) (ws : List Word) (s : State) : (writeX a ws s).mon = s.mon := rfl
@[simp] theorem writeX_pins (a : Nat) (ws : List Word) (s : State) : (writeX a ws s).pins = s.pins := rfl
@[simp] theorem writeX_dev (a : Nat) (ws : List Word) (s : State) : (writeX a ws s).dev = s.dev := rfl
@[simp] theorem writeX_cores (a : Nat) (ws : List Word) (s : State) : (writeX a ws s).cores = s.cores := rfl
@[simp] theorem writeX_rills (a : Nat) (ws : List Word) (s : State) : (writeX a ws s).rills = s.rills := rfl
@[simp] theorem writeX_chans (a : Nat) (ws : List Word) (s : State) : (writeX a ws s).chans = s.chans := rfl
@[simp] theorem writeX_mem (a : Nat) (ws : List Word) (s : State) : (writeX a ws s).mem = s.mem := rfl
@[simp] theorem writeX_sens (a : Nat) (ws : List Word) (s : State) : (writeX a ws s).sens = s.sens := rfl
@[simp] theorem writeX_time (a : Nat) (ws : List Word) (s : State) : (writeX a ws s).time = s.time := rfl
@[simp] theorem writeX_dsp (a : Nat) (ws : List Word) (s : State) : (writeX a ws s).dsp = { s.dsp with x := Cells.puts 0 s.dsp.x a ws } := rfl
@[simp] theorem writeX_iq (a : Nat) (ws : List Word) (s : State) : (writeX a ws s).iq = s.iq := rfl
@[simp] theorem writeX_radio (a : Nat) (ws : List Word) (s : State) : (writeX a ws s).radio = s.radio := rfl
@[simp] theorem writeX_latch (a : Nat) (ws : List Word) (s : State) : (writeX a ws s).latch = s.latch := rfl
@[simp] theorem writeX_fresh (a : Nat) (ws : List Word) (s : State) : (writeX a ws s).fresh = s.fresh := rfl
@[simp] theorem writeX_free (a : Nat) (ws : List Word) (s : State) : (writeX a ws s).free = s.free := rfl
@[simp] theorem writeX_pending (a : Nat) (ws : List Word) (s : State) : (writeX a ws s).pending = s.pending := rfl

/-! ### raiseIrq -/

@[simp] theorem raiseIrq_part (n : Nat) (s : State) : (raiseIrq n s).part = s.part := rfl
@[simp] theorem raiseIrq_clk (n : Nat) (s : State) : (raiseIrq n s).clk = s.clk := rfl
@[simp] theorem raiseIrq_cfg (n : Nat) (s : State) : (raiseIrq n s).cfg = s.cfg := rfl
@[simp] theorem raiseIrq_con (n : Nat) (s : State) : (raiseIrq n s).con = s.con := rfl
@[simp] theorem raiseIrq_jobs (n : Nat) (s : State) : (raiseIrq n s).jobs = s.jobs := rfl
@[simp] theorem raiseIrq_det (n : Nat) (s : State) : (raiseIrq n s).det = s.det := rfl
@[simp] theorem raiseIrq_safe (n : Nat) (s : State) : (raiseIrq n s).safe = s.safe := rfl
@[simp] theorem raiseIrq_pwr (n : Nat) (s : State) : (raiseIrq n s).pwr = s.pwr := rfl
@[simp] theorem raiseIrq_dom (n : Nat) (s : State) : (raiseIrq n s).dom = s.dom := rfl
@[simp] theorem raiseIrq_rst (n : Nat) (s : State) : (raiseIrq n s).rst = s.rst := rfl
@[simp] theorem raiseIrq_boot (n : Nat) (s : State) : (raiseIrq n s).boot = s.boot := rfl
@[simp] theorem raiseIrq_jrnl (n : Nat) (s : State) : (raiseIrq n s).jrnl = s.jrnl := rfl
@[simp] theorem raiseIrq_card (n : Nat) (s : State) : (raiseIrq n s).card = s.card := rfl
@[simp] theorem raiseIrq_host (n : Nat) (s : State) : (raiseIrq n s).host = s.host := rfl
@[simp] theorem raiseIrq_sec (n : Nat) (s : State) : (raiseIrq n s).sec = s.sec := rfl
@[simp] theorem raiseIrq_mon (n : Nat) (s : State) : (raiseIrq n s).mon = s.mon := rfl
@[simp] theorem raiseIrq_pins (n : Nat) (s : State) : (raiseIrq n s).pins = s.pins := rfl
@[simp] theorem raiseIrq_dev (n : Nat) (s : State) : (raiseIrq n s).dev = s.dev := rfl
@[simp] theorem raiseIrq_cores (n : Nat) (s : State) : (raiseIrq n s).cores = s.cores := rfl
@[simp] theorem raiseIrq_rills (n : Nat) (s : State) : (raiseIrq n s).rills = s.rills := rfl
@[simp] theorem raiseIrq_chans (n : Nat) (s : State) : (raiseIrq n s).chans = s.chans := rfl
@[simp] theorem raiseIrq_mem (n : Nat) (s : State) : (raiseIrq n s).mem = s.mem := rfl
@[simp] theorem raiseIrq_sens (n : Nat) (s : State) : (raiseIrq n s).sens = s.sens := rfl
@[simp] theorem raiseIrq_time (n : Nat) (s : State) : (raiseIrq n s).time = s.time := rfl
@[simp] theorem raiseIrq_iq (n : Nat) (s : State) : (raiseIrq n s).iq = s.iq := rfl
@[simp] theorem raiseIrq_radio (n : Nat) (s : State) : (raiseIrq n s).radio = s.radio := rfl
@[simp] theorem raiseIrq_latch (n : Nat) (s : State) : (raiseIrq n s).latch = s.latch := rfl
@[simp] theorem raiseIrq_fresh (n : Nat) (s : State) : (raiseIrq n s).fresh = s.fresh := rfl
@[simp] theorem raiseIrq_free (n : Nat) (s : State) : (raiseIrq n s).free = s.free := rfl
@[simp] theorem raiseIrq_pending (n : Nat) (s : State) : (raiseIrq n s).pending = s.pending := rfl

/-! ### emit -/

@[simp] theorem emit_part (h : RecordHead) (p : List Byte) (s : State) : (emit h p s).part = s.part := rfl
@[simp] theorem emit_clk (h : RecordHead) (p : List Byte) (s : State) : (emit h p s).clk = s.clk := rfl
@[simp] theorem emit_cfg (h : RecordHead) (p : List Byte) (s : State) : (emit h p s).cfg = s.cfg := rfl
@[simp] theorem emit_con (h : RecordHead) (p : List Byte) (s : State) : (emit h p s).con = s.con := rfl
@[simp] theorem emit_jobs (h : RecordHead) (p : List Byte) (s : State) : (emit h p s).jobs = s.jobs := rfl
@[simp] theorem emit_det (h : RecordHead) (p : List Byte) (s : State) : (emit h p s).det = s.det := rfl
@[simp] theorem emit_safe (h : RecordHead) (p : List Byte) (s : State) : (emit h p s).safe = s.safe := rfl
@[simp] theorem emit_pwr (h : RecordHead) (p : List Byte) (s : State) : (emit h p s).pwr = s.pwr := rfl
@[simp] theorem emit_dom (h : RecordHead) (p : List Byte) (s : State) : (emit h p s).dom = s.dom := rfl
@[simp] theorem emit_rst (h : RecordHead) (p : List Byte) (s : State) : (emit h p s).rst = s.rst := rfl
@[simp] theorem emit_boot (h : RecordHead) (p : List Byte) (s : State) : (emit h p s).boot = s.boot := rfl
@[simp] theorem emit_jrnl (h : RecordHead) (p : List Byte) (s : State) : (emit h p s).jrnl = s.jrnl := rfl
@[simp] theorem emit_card (h : RecordHead) (p : List Byte) (s : State) : (emit h p s).card = s.card := rfl
@[simp] theorem emit_sec (h : RecordHead) (p : List Byte) (s : State) : (emit h p s).sec = s.sec := rfl
@[simp] theorem emit_mon (h : RecordHead) (p : List Byte) (s : State) : (emit h p s).mon = s.mon := rfl
@[simp] theorem emit_pins (h : RecordHead) (p : List Byte) (s : State) : (emit h p s).pins = s.pins := rfl
@[simp] theorem emit_dev (h : RecordHead) (p : List Byte) (s : State) : (emit h p s).dev = s.dev := rfl
@[simp] theorem emit_cores (h : RecordHead) (p : List Byte) (s : State) : (emit h p s).cores = s.cores := rfl
@[simp] theorem emit_rills (h : RecordHead) (p : List Byte) (s : State) : (emit h p s).rills = s.rills := rfl
@[simp] theorem emit_chans (h : RecordHead) (p : List Byte) (s : State) : (emit h p s).chans = s.chans := rfl
@[simp] theorem emit_mem (h : RecordHead) (p : List Byte) (s : State) : (emit h p s).mem = s.mem := rfl
@[simp] theorem emit_sens (h : RecordHead) (p : List Byte) (s : State) : (emit h p s).sens = s.sens := rfl
@[simp] theorem emit_time (h : RecordHead) (p : List Byte) (s : State) : (emit h p s).time = s.time := rfl
@[simp] theorem emit_dsp (h : RecordHead) (p : List Byte) (s : State) : (emit h p s).dsp = s.dsp := rfl
@[simp] theorem emit_iq (h : RecordHead) (p : List Byte) (s : State) : (emit h p s).iq = s.iq := rfl
@[simp] theorem emit_radio (h : RecordHead) (p : List Byte) (s : State) : (emit h p s).radio = s.radio := rfl
@[simp] theorem emit_latch (h : RecordHead) (p : List Byte) (s : State) : (emit h p s).latch = s.latch := rfl
@[simp] theorem emit_fresh (h : RecordHead) (p : List Byte) (s : State) : (emit h p s).fresh = s.fresh := rfl
@[simp] theorem emit_free (h : RecordHead) (p : List Byte) (s : State) : (emit h p s).free = s.free := rfl
@[simp] theorem emit_pending (h : RecordHead) (p : List Byte) (s : State) : (emit h p s).pending = s.pending := rfl

/-! ### diagnose -/

@[simp] theorem diagnose_part (code : Nat) (info : List Nat) (s : State) : (diagnose code info s).part = s.part := by simp only [diagnose]
@[simp] theorem diagnose_clk (code : Nat) (info : List Nat) (s : State) : (diagnose code info s).clk = s.clk := by simp only [diagnose]
@[simp] theorem diagnose_cfg (code : Nat) (info : List Nat) (s : State) : (diagnose code info s).cfg = s.cfg := by simp only [diagnose]
@[simp] theorem diagnose_con (code : Nat) (info : List Nat) (s : State) : (diagnose code info s).con = s.con := by simp only [diagnose]
@[simp] theorem diagnose_jobs (code : Nat) (info : List Nat) (s : State) : (diagnose code info s).jobs = s.jobs := by simp only [diagnose]
@[simp] theorem diagnose_det (code : Nat) (info : List Nat) (s : State) : (diagnose code info s).det = s.det := by simp only [diagnose]
@[simp] theorem diagnose_safe (code : Nat) (info : List Nat) (s : State) : (diagnose code info s).safe = s.safe := by simp only [diagnose]
@[simp] theorem diagnose_pwr (code : Nat) (info : List Nat) (s : State) : (diagnose code info s).pwr = s.pwr := by simp only [diagnose]
@[simp] theorem diagnose_dom (code : Nat) (info : List Nat) (s : State) : (diagnose code info s).dom = s.dom := by simp only [diagnose]
@[simp] theorem diagnose_rst (code : Nat) (info : List Nat) (s : State) : (diagnose code info s).rst = s.rst := by simp only [diagnose]
@[simp] theorem diagnose_boot (code : Nat) (info : List Nat) (s : State) : (diagnose code info s).boot = s.boot := by simp only [diagnose]
@[simp] theorem diagnose_card (code : Nat) (info : List Nat) (s : State) : (diagnose code info s).card = s.card := by simp only [diagnose]
@[simp] theorem diagnose_host (code : Nat) (info : List Nat) (s : State) : (diagnose code info s).host = s.host := by simp only [diagnose]
@[simp] theorem diagnose_sec (code : Nat) (info : List Nat) (s : State) : (diagnose code info s).sec = s.sec := by simp only [diagnose]
@[simp] theorem diagnose_mon (code : Nat) (info : List Nat) (s : State) : (diagnose code info s).mon = s.mon := by simp only [diagnose]
@[simp] theorem diagnose_pins (code : Nat) (info : List Nat) (s : State) : (diagnose code info s).pins = s.pins := by simp only [diagnose]
@[simp] theorem diagnose_dev (code : Nat) (info : List Nat) (s : State) : (diagnose code info s).dev = s.dev := by simp only [diagnose]
@[simp] theorem diagnose_cores (code : Nat) (info : List Nat) (s : State) : (diagnose code info s).cores = s.cores := by simp only [diagnose]
@[simp] theorem diagnose_rills (code : Nat) (info : List Nat) (s : State) : (diagnose code info s).rills = s.rills := by simp only [diagnose]
@[simp] theorem diagnose_chans (code : Nat) (info : List Nat) (s : State) : (diagnose code info s).chans = s.chans := by simp only [diagnose]
@[simp] theorem diagnose_mem (code : Nat) (info : List Nat) (s : State) : (diagnose code info s).mem = s.mem := by simp only [diagnose]
@[simp] theorem diagnose_sens (code : Nat) (info : List Nat) (s : State) : (diagnose code info s).sens = s.sens := by simp only [diagnose]
@[simp] theorem diagnose_time (code : Nat) (info : List Nat) (s : State) : (diagnose code info s).time = s.time := by simp only [diagnose]
@[simp] theorem diagnose_dsp (code : Nat) (info : List Nat) (s : State) : (diagnose code info s).dsp = s.dsp := by simp only [diagnose]
@[simp] theorem diagnose_iq (code : Nat) (info : List Nat) (s : State) : (diagnose code info s).iq = s.iq := by simp only [diagnose]
@[simp] theorem diagnose_radio (code : Nat) (info : List Nat) (s : State) : (diagnose code info s).radio = s.radio := by simp only [diagnose]
@[simp] theorem diagnose_latch (code : Nat) (info : List Nat) (s : State) : (diagnose code info s).latch = s.latch := by simp only [diagnose]
@[simp] theorem diagnose_fresh (code : Nat) (info : List Nat) (s : State) : (diagnose code info s).fresh = s.fresh := by simp only [diagnose]
@[simp] theorem diagnose_free (code : Nat) (info : List Nat) (s : State) : (diagnose code info s).free = s.free := by simp only [diagnose]
@[simp] theorem diagnose_pending (code : Nat) (info : List Nat) (s : State) : (diagnose code info s).pending = s.pending := by simp only [diagnose]

/-! ### say -/

@[simp] theorem say_part (l : List MonLine) (s : State) : (say l s).part = s.part := rfl
@[simp] theorem say_clk (l : List MonLine) (s : State) : (say l s).clk = s.clk := rfl
@[simp] theorem say_cfg (l : List MonLine) (s : State) : (say l s).cfg = s.cfg := rfl
@[simp] theorem say_con (l : List MonLine) (s : State) : (say l s).con = s.con := rfl
@[simp] theorem say_jobs (l : List MonLine) (s : State) : (say l s).jobs = s.jobs := rfl
@[simp] theorem say_det (l : List MonLine) (s : State) : (say l s).det = s.det := rfl
@[simp] theorem say_safe (l : List MonLine) (s : State) : (say l s).safe = s.safe := rfl
@[simp] theorem say_pwr (l : List MonLine) (s : State) : (say l s).pwr = s.pwr := rfl
@[simp] theorem say_dom (l : List MonLine) (s : State) : (say l s).dom = s.dom := rfl
@[simp] theorem say_rst (l : List MonLine) (s : State) : (say l s).rst = s.rst := rfl
@[simp] theorem say_boot (l : List MonLine) (s : State) : (say l s).boot = s.boot := rfl
@[simp] theorem say_jrnl (l : List MonLine) (s : State) : (say l s).jrnl = s.jrnl := rfl
@[simp] theorem say_card (l : List MonLine) (s : State) : (say l s).card = s.card := rfl
@[simp] theorem say_host (l : List MonLine) (s : State) : (say l s).host = s.host := rfl
@[simp] theorem say_sec (l : List MonLine) (s : State) : (say l s).sec = s.sec := rfl
@[simp] theorem say_mon (l : List MonLine) (s : State) : (say l s).mon = { s.mon with out := l } := rfl
@[simp] theorem say_pins (l : List MonLine) (s : State) : (say l s).pins = s.pins := rfl
@[simp] theorem say_dev (l : List MonLine) (s : State) : (say l s).dev = s.dev := rfl
@[simp] theorem say_cores (l : List MonLine) (s : State) : (say l s).cores = s.cores := rfl
@[simp] theorem say_rills (l : List MonLine) (s : State) : (say l s).rills = s.rills := rfl
@[simp] theorem say_chans (l : List MonLine) (s : State) : (say l s).chans = s.chans := rfl
@[simp] theorem say_mem (l : List MonLine) (s : State) : (say l s).mem = s.mem := rfl
@[simp] theorem say_sens (l : List MonLine) (s : State) : (say l s).sens = s.sens := rfl
@[simp] theorem say_time (l : List MonLine) (s : State) : (say l s).time = s.time := rfl
@[simp] theorem say_dsp (l : List MonLine) (s : State) : (say l s).dsp = s.dsp := rfl
@[simp] theorem say_iq (l : List MonLine) (s : State) : (say l s).iq = s.iq := rfl
@[simp] theorem say_radio (l : List MonLine) (s : State) : (say l s).radio = s.radio := rfl
@[simp] theorem say_latch (l : List MonLine) (s : State) : (say l s).latch = s.latch := rfl
@[simp] theorem say_fresh (l : List MonLine) (s : State) : (say l s).fresh = s.fresh := rfl
@[simp] theorem say_free (l : List MonLine) (s : State) : (say l s).free = s.free := rfl
@[simp] theorem say_pending (l : List MonLine) (s : State) : (say l s).pending = s.pending := rfl

/-! ### countLine -/

@[simp] theorem countLine_part (s : State) : (countLine s).part = s.part := rfl
@[simp] theorem countLine_clk (s : State) : (countLine s).clk = s.clk := rfl
@[simp] theorem countLine_cfg (s : State) : (countLine s).cfg = s.cfg := rfl
@[simp] theorem countLine_con (s : State) : (countLine s).con = s.con := rfl
@[simp] theorem countLine_jobs (s : State) : (countLine s).jobs = s.jobs := rfl
@[simp] theorem countLine_det (s : State) : (countLine s).det = s.det := rfl
@[simp] theorem countLine_safe (s : State) : (countLine s).safe = s.safe := rfl
@[simp] theorem countLine_pwr (s : State) : (countLine s).pwr = s.pwr := rfl
@[simp] theorem countLine_dom (s : State) : (countLine s).dom = s.dom := rfl
@[simp] theorem countLine_rst (s : State) : (countLine s).rst = s.rst := rfl
@[simp] theorem countLine_boot (s : State) : (countLine s).boot = s.boot := rfl
@[simp] theorem countLine_jrnl (s : State) : (countLine s).jrnl = s.jrnl := rfl
@[simp] theorem countLine_card (s : State) : (countLine s).card = s.card := rfl
@[simp] theorem countLine_host (s : State) : (countLine s).host = s.host := rfl
@[simp] theorem countLine_sec (s : State) : (countLine s).sec = s.sec := rfl
@[simp] theorem countLine_mon (s : State) : (countLine s).mon = { s.mon with lines := s.mon.lines + 1 } := rfl
@[simp] theorem countLine_pins (s : State) : (countLine s).pins = s.pins := rfl
@[simp] theorem countLine_dev (s : State) : (countLine s).dev = s.dev := rfl
@[simp] theorem countLine_cores (s : State) : (countLine s).cores = s.cores := rfl
@[simp] theorem countLine_rills (s : State) : (countLine s).rills = s.rills := rfl
@[simp] theorem countLine_chans (s : State) : (countLine s).chans = s.chans := rfl
@[simp] theorem countLine_mem (s : State) : (countLine s).mem = s.mem := rfl
@[simp] theorem countLine_sens (s : State) : (countLine s).sens = s.sens := rfl
@[simp] theorem countLine_time (s : State) : (countLine s).time = s.time := rfl
@[simp] theorem countLine_dsp (s : State) : (countLine s).dsp = s.dsp := rfl
@[simp] theorem countLine_iq (s : State) : (countLine s).iq = s.iq := rfl
@[simp] theorem countLine_radio (s : State) : (countLine s).radio = s.radio := rfl
@[simp] theorem countLine_latch (s : State) : (countLine s).latch = s.latch := rfl
@[simp] theorem countLine_fresh (s : State) : (countLine s).fresh = s.fresh := rfl
@[simp] theorem countLine_free (s : State) : (countLine s).free = s.free := rfl
@[simp] theorem countLine_pending (s : State) : (countLine s).pending = s.pending := rfl

/-! ### modJob -/

@[simp] theorem modJob_part (k : Fin 12) (f : Job → Job) (s : State) : (modJob k f s).part = s.part := rfl
@[simp] theorem modJob_clk (k : Fin 12) (f : Job → Job) (s : State) : (modJob k f s).clk = s.clk := rfl
@[simp] theorem modJob_cfg (k : Fin 12) (f : Job → Job) (s : State) : (modJob k f s).cfg = s.cfg := rfl
@[simp] theorem modJob_con (k : Fin 12) (f : Job → Job) (s : State) : (modJob k f s).con = s.con := rfl
@[simp] theorem modJob_jobs (k : Fin 12) (f : Job → Job) (s : State) : (modJob k f s).jobs = { s.jobs with slots := modV s.jobs.slots k fun j => j.map f } := rfl
@[simp] theorem modJob_det (k : Fin 12) (f : Job → Job) (s : State) : (modJob k f s).det = s.det := rfl
@[simp] theorem modJob_safe (k : Fin 12) (f : Job → Job) (s : State) : (modJob k f s).safe = s.safe := rfl
@[simp] theorem modJob_pwr (k : Fin 12) (f : Job → Job) (s : State) : (modJob k f s).pwr = s.pwr := rfl
@[simp] theorem modJob_dom (k : Fin 12) (f : Job → Job) (s : State) : (modJob k f s).dom = s.dom := rfl
@[simp] theorem modJob_rst (k : Fin 12) (f : Job → Job) (s : State) : (modJob k f s).rst = s.rst := rfl
@[simp] theorem modJob_boot (k : Fin 12) (f : Job → Job) (s : State) : (modJob k f s).boot = s.boot := rfl
@[simp] theorem modJob_jrnl (k : Fin 12) (f : Job → Job) (s : State) : (modJob k f s).jrnl = s.jrnl := rfl
@[simp] theorem modJob_card (k : Fin 12) (f : Job → Job) (s : State) : (modJob k f s).card = s.card := rfl
@[simp] theorem modJob_host (k : Fin 12) (f : Job → Job) (s : State) : (modJob k f s).host = s.host := rfl
@[simp] theorem modJob_sec (k : Fin 12) (f : Job → Job) (s : State) : (modJob k f s).sec = s.sec := rfl
@[simp] theorem modJob_mon (k : Fin 12) (f : Job → Job) (s : State) : (modJob k f s).mon = s.mon := rfl
@[simp] theorem modJob_pins (k : Fin 12) (f : Job → Job) (s : State) : (modJob k f s).pins = s.pins := rfl
@[simp] theorem modJob_dev (k : Fin 12) (f : Job → Job) (s : State) : (modJob k f s).dev = s.dev := rfl
@[simp] theorem modJob_cores (k : Fin 12) (f : Job → Job) (s : State) : (modJob k f s).cores = s.cores := rfl
@[simp] theorem modJob_rills (k : Fin 12) (f : Job → Job) (s : State) : (modJob k f s).rills = s.rills := rfl
@[simp] theorem modJob_chans (k : Fin 12) (f : Job → Job) (s : State) : (modJob k f s).chans = s.chans := rfl
@[simp] theorem modJob_mem (k : Fin 12) (f : Job → Job) (s : State) : (modJob k f s).mem = s.mem := rfl
@[simp] theorem modJob_sens (k : Fin 12) (f : Job → Job) (s : State) : (modJob k f s).sens = s.sens := rfl
@[simp] theorem modJob_time (k : Fin 12) (f : Job → Job) (s : State) : (modJob k f s).time = s.time := rfl
@[simp] theorem modJob_dsp (k : Fin 12) (f : Job → Job) (s : State) : (modJob k f s).dsp = s.dsp := rfl
@[simp] theorem modJob_iq (k : Fin 12) (f : Job → Job) (s : State) : (modJob k f s).iq = s.iq := rfl
@[simp] theorem modJob_radio (k : Fin 12) (f : Job → Job) (s : State) : (modJob k f s).radio = s.radio := rfl
@[simp] theorem modJob_latch (k : Fin 12) (f : Job → Job) (s : State) : (modJob k f s).latch = s.latch := rfl
@[simp] theorem modJob_fresh (k : Fin 12) (f : Job → Job) (s : State) : (modJob k f s).fresh = s.fresh := rfl
@[simp] theorem modJob_free (k : Fin 12) (f : Job → Job) (s : State) : (modJob k f s).free = s.free := rfl
@[simp] theorem modJob_pending (k : Fin 12) (f : Job → Job) (s : State) : (modJob k f s).pending = s.pending := rfl

/-! ### journal -/

@[simp] theorem journal_part (code : Nat) (info : List Nat) (s : State) : (journal code info s).part = s.part := by unfold journal; split <;> rfl
@[simp] theorem journal_clk (code : Nat) (info : List Nat) (s : State) : (journal code info s).clk = s.clk := by unfold journal; split <;> rfl
@[simp] theorem journal_cfg (code : Nat) (info : List Nat) (s : State) : (journal code info s).cfg = s.cfg := by unfold journal; split <;> rfl
@[simp] theorem journal_con (code : Nat) (info : List Nat) (s : State) : (journal code info s).con = s.con := by unfold journal; split <;> rfl
@[simp] theorem journal_jobs (code : Nat) (info : List Nat) (s : State) : (journal code info s).jobs = s.jobs := by unfold journal; split <;> rfl
@[simp] theorem journal_det (code : Nat) (info : List Nat) (s : State) : (journal code info s).det = s.det := by unfold journal; split <;> rfl
@[simp] theorem journal_safe (code : Nat) (info : List Nat) (s : State) : (journal code info s).safe = s.safe := by unfold journal; split <;> rfl
@[simp] theorem journal_pwr (code : Nat) (info : List Nat) (s : State) : (journal code info s).pwr = s.pwr := by unfold journal; split <;> rfl
@[simp] theorem journal_dom (code : Nat) (info : List Nat) (s : State) : (journal code info s).dom = s.dom := by unfold journal; split <;> rfl
@[simp] theorem journal_rst (code : Nat) (info : List Nat) (s : State) : (journal code info s).rst = s.rst := by unfold journal; split <;> rfl
@[simp] theorem journal_boot (code : Nat) (info : List Nat) (s : State) : (journal code info s).boot = s.boot := by unfold journal; split <;> rfl
@[simp] theorem journal_card (code : Nat) (info : List Nat) (s : State) : (journal code info s).card = s.card := by unfold journal; split <;> rfl
@[simp] theorem journal_host (code : Nat) (info : List Nat) (s : State) : (journal code info s).host = s.host := by unfold journal; split <;> rfl
@[simp] theorem journal_sec (code : Nat) (info : List Nat) (s : State) : (journal code info s).sec = s.sec := by unfold journal; split <;> rfl
@[simp] theorem journal_mon (code : Nat) (info : List Nat) (s : State) : (journal code info s).mon = s.mon := by unfold journal; split <;> rfl
@[simp] theorem journal_pins (code : Nat) (info : List Nat) (s : State) : (journal code info s).pins = s.pins := by unfold journal; split <;> rfl
@[simp] theorem journal_dev (code : Nat) (info : List Nat) (s : State) : (journal code info s).dev = s.dev := by unfold journal; split <;> rfl
@[simp] theorem journal_cores (code : Nat) (info : List Nat) (s : State) : (journal code info s).cores = s.cores := by unfold journal; split <;> rfl
@[simp] theorem journal_rills (code : Nat) (info : List Nat) (s : State) : (journal code info s).rills = s.rills := by unfold journal; split <;> rfl
@[simp] theorem journal_chans (code : Nat) (info : List Nat) (s : State) : (journal code info s).chans = s.chans := by unfold journal; split <;> rfl
@[simp] theorem journal_mem (code : Nat) (info : List Nat) (s : State) : (journal code info s).mem = s.mem := by unfold journal; split <;> rfl
@[simp] theorem journal_sens (code : Nat) (info : List Nat) (s : State) : (journal code info s).sens = s.sens := by unfold journal; split <;> rfl
@[simp] theorem journal_time (code : Nat) (info : List Nat) (s : State) : (journal code info s).time = s.time := by unfold journal; split <;> rfl
@[simp] theorem journal_dsp (code : Nat) (info : List Nat) (s : State) : (journal code info s).dsp = s.dsp := by unfold journal; split <;> rfl
@[simp] theorem journal_iq (code : Nat) (info : List Nat) (s : State) : (journal code info s).iq = s.iq := by unfold journal; split <;> rfl
@[simp] theorem journal_radio (code : Nat) (info : List Nat) (s : State) : (journal code info s).radio = s.radio := by unfold journal; split <;> rfl
@[simp] theorem journal_latch (code : Nat) (info : List Nat) (s : State) : (journal code info s).latch = s.latch := by unfold journal; split <;> rfl
@[simp] theorem journal_fresh (code : Nat) (info : List Nat) (s : State) : (journal code info s).fresh = s.fresh := by unfold journal; split <;> rfl
@[simp] theorem journal_free (code : Nat) (info : List Nat) (s : State) : (journal code info s).free = s.free := by unfold journal; split <;> rfl
@[simp] theorem journal_pending (code : Nat) (info : List Nat) (s : State) : (journal code info s).pending = s.pending := by unfold journal; split <;> rfl

/-! ### note -/

@[simp] theorem note_part (a b : Nat) (s : State) : (note a b s).part = s.part := rfl
@[simp] theorem note_clk (a b : Nat) (s : State) : (note a b s).clk = s.clk := rfl
@[simp] theorem note_cfg (a b : Nat) (s : State) : (note a b s).cfg = s.cfg := rfl
@[simp] theorem note_con (a b : Nat) (s : State) : (note a b s).con = s.con := rfl
@[simp] theorem note_jobs (a b : Nat) (s : State) : (note a b s).jobs = s.jobs := rfl
@[simp] theorem note_det (a b : Nat) (s : State) : (note a b s).det = s.det := rfl
@[simp] theorem note_safe (a b : Nat) (s : State) : (note a b s).safe = s.safe := rfl
@[simp] theorem note_pwr (a b : Nat) (s : State) : (note a b s).pwr = s.pwr := rfl
@[simp] theorem note_dom (a b : Nat) (s : State) : (note a b s).dom = s.dom := rfl
@[simp] theorem note_rst (a b : Nat) (s : State) : (note a b s).rst = s.rst := rfl
@[simp] theorem note_boot (a b : Nat) (s : State) : (note a b s).boot = s.boot := rfl
@[simp] theorem note_jrnl (a b : Nat) (s : State) : (note a b s).jrnl = s.jrnl := rfl
@[simp] theorem note_card (a b : Nat) (s : State) : (note a b s).card = s.card := rfl
@[simp] theorem note_host (a b : Nat) (s : State) : (note a b s).host = s.host := rfl
@[simp] theorem note_sec (a b : Nat) (s : State) : (note a b s).sec = s.sec := rfl
@[simp] theorem note_mon (a b : Nat) (s : State) : (note a b s).mon = s.mon := rfl
@[simp] theorem note_pins (a b : Nat) (s : State) : (note a b s).pins = s.pins := rfl
@[simp] theorem note_dev (a b : Nat) (s : State) : (note a b s).dev = s.dev := rfl
@[simp] theorem note_cores (a b : Nat) (s : State) : (note a b s).cores = s.cores := rfl
@[simp] theorem note_rills (a b : Nat) (s : State) : (note a b s).rills = s.rills := rfl
@[simp] theorem note_chans (a b : Nat) (s : State) : (note a b s).chans = s.chans := rfl
@[simp] theorem note_mem (a b : Nat) (s : State) : (note a b s).mem = s.mem := rfl
@[simp] theorem note_sens (a b : Nat) (s : State) : (note a b s).sens = s.sens := rfl
@[simp] theorem note_time (a b : Nat) (s : State) : (note a b s).time = s.time := rfl
@[simp] theorem note_dsp (a b : Nat) (s : State) : (note a b s).dsp = s.dsp := rfl
@[simp] theorem note_iq (a b : Nat) (s : State) : (note a b s).iq = s.iq := rfl
@[simp] theorem note_radio (a b : Nat) (s : State) : (note a b s).radio = s.radio := rfl
@[simp] theorem note_latch (a b : Nat) (s : State) : (note a b s).latch = s.latch := rfl
@[simp] theorem note_free (a b : Nat) (s : State) : (note a b s).free = s.free := rfl
@[simp] theorem note_pending (a b : Nat) (s : State) : (note a b s).pending = s.pending := rfl

/-! ### noteIf -/

@[simp] theorem noteIf_part (c : Bool) (a b : Nat) (s : State) : (noteIf c a b s).part = s.part := by unfold noteIf; split <;> rfl
@[simp] theorem noteIf_clk (c : Bool) (a b : Nat) (s : State) : (noteIf c a b s).clk = s.clk := by unfold noteIf; split <;> rfl
@[simp] theorem noteIf_cfg (c : Bool) (a b : Nat) (s : State) : (noteIf c a b s).cfg = s.cfg := by unfold noteIf; split <;> rfl
@[simp] theorem noteIf_con (c : Bool) (a b : Nat) (s : State) : (noteIf c a b s).con = s.con := by unfold noteIf; split <;> rfl
@[simp] theorem noteIf_jobs (c : Bool) (a b : Nat) (s : State) : (noteIf c a b s).jobs = s.jobs := by unfold noteIf; split <;> rfl
@[simp] theorem noteIf_det (c : Bool) (a b : Nat) (s : State) : (noteIf c a b s).det = s.det := by unfold noteIf; split <;> rfl
@[simp] theorem noteIf_safe (c : Bool) (a b : Nat) (s : State) : (noteIf c a b s).safe = s.safe := by unfold noteIf; split <;> rfl
@[simp] theorem noteIf_pwr (c : Bool) (a b : Nat) (s : State) : (noteIf c a b s).pwr = s.pwr := by unfold noteIf; split <;> rfl
@[simp] theorem noteIf_dom (c : Bool) (a b : Nat) (s : State) : (noteIf c a b s).dom = s.dom := by unfold noteIf; split <;> rfl
@[simp] theorem noteIf_rst (c : Bool) (a b : Nat) (s : State) : (noteIf c a b s).rst = s.rst := by unfold noteIf; split <;> rfl
@[simp] theorem noteIf_boot (c : Bool) (a b : Nat) (s : State) : (noteIf c a b s).boot = s.boot := by unfold noteIf; split <;> rfl
@[simp] theorem noteIf_jrnl (c : Bool) (a b : Nat) (s : State) : (noteIf c a b s).jrnl = s.jrnl := by unfold noteIf; split <;> rfl
@[simp] theorem noteIf_card (c : Bool) (a b : Nat) (s : State) : (noteIf c a b s).card = s.card := by unfold noteIf; split <;> rfl
@[simp] theorem noteIf_host (c : Bool) (a b : Nat) (s : State) : (noteIf c a b s).host = s.host := by unfold noteIf; split <;> rfl
@[simp] theorem noteIf_sec (c : Bool) (a b : Nat) (s : State) : (noteIf c a b s).sec = s.sec := by unfold noteIf; split <;> rfl
@[simp] theorem noteIf_mon (c : Bool) (a b : Nat) (s : State) : (noteIf c a b s).mon = s.mon := by unfold noteIf; split <;> rfl
@[simp] theorem noteIf_pins (c : Bool) (a b : Nat) (s : State) : (noteIf c a b s).pins = s.pins := by unfold noteIf; split <;> rfl
@[simp] theorem noteIf_dev (c : Bool) (a b : Nat) (s : State) : (noteIf c a b s).dev = s.dev := by unfold noteIf; split <;> rfl
@[simp] theorem noteIf_cores (c : Bool) (a b : Nat) (s : State) : (noteIf c a b s).cores = s.cores := by unfold noteIf; split <;> rfl
@[simp] theorem noteIf_rills (c : Bool) (a b : Nat) (s : State) : (noteIf c a b s).rills = s.rills := by unfold noteIf; split <;> rfl
@[simp] theorem noteIf_chans (c : Bool) (a b : Nat) (s : State) : (noteIf c a b s).chans = s.chans := by unfold noteIf; split <;> rfl
@[simp] theorem noteIf_mem (c : Bool) (a b : Nat) (s : State) : (noteIf c a b s).mem = s.mem := by unfold noteIf; split <;> rfl
@[simp] theorem noteIf_sens (c : Bool) (a b : Nat) (s : State) : (noteIf c a b s).sens = s.sens := by unfold noteIf; split <;> rfl
@[simp] theorem noteIf_time (c : Bool) (a b : Nat) (s : State) : (noteIf c a b s).time = s.time := by unfold noteIf; split <;> rfl
@[simp] theorem noteIf_dsp (c : Bool) (a b : Nat) (s : State) : (noteIf c a b s).dsp = s.dsp := by unfold noteIf; split <;> rfl
@[simp] theorem noteIf_iq (c : Bool) (a b : Nat) (s : State) : (noteIf c a b s).iq = s.iq := by unfold noteIf; split <;> rfl
@[simp] theorem noteIf_radio (c : Bool) (a b : Nat) (s : State) : (noteIf c a b s).radio = s.radio := by unfold noteIf; split <;> rfl
@[simp] theorem noteIf_latch (c : Bool) (a b : Nat) (s : State) : (noteIf c a b s).latch = s.latch := by unfold noteIf; split <;> rfl
@[simp] theorem noteIf_free (c : Bool) (a b : Nat) (s : State) : (noteIf c a b s).free = s.free := by unfold noteIf; split <;> rfl
@[simp] theorem noteIf_pending (c : Bool) (a b : Nat) (s : State) : (noteIf c a b s).pending = s.pending := by unfold noteIf; split <;> rfl

/-! ### radioEvent -/

@[simp] theorem radioEvent_part (e : Fin 2) (b : Nat) (f : Radio → Radio) (s : State) : (radioEvent e b f s).part = s.part := rfl
@[simp] theorem radioEvent_clk (e : Fin 2) (b : Nat) (f : Radio → Radio) (s : State) : (radioEvent e b f s).clk = s.clk := rfl
@[simp] theorem radioEvent_cfg (e : Fin 2) (b : Nat) (f : Radio → Radio) (s : State) : (radioEvent e b f s).cfg = s.cfg := rfl
@[simp] theorem radioEvent_con (e : Fin 2) (b : Nat) (f : Radio → Radio) (s : State) : (radioEvent e b f s).con = s.con := rfl
@[simp] theorem radioEvent_jobs (e : Fin 2) (b : Nat) (f : Radio → Radio) (s : State) : (radioEvent e b f s).jobs = s.jobs := rfl
@[simp] theorem radioEvent_det (e : Fin 2) (b : Nat) (f : Radio → Radio) (s : State) : (radioEvent e b f s).det = s.det := rfl
@[simp] theorem radioEvent_safe (e : Fin 2) (b : Nat) (f : Radio → Radio) (s : State) : (radioEvent e b f s).safe = s.safe := rfl
@[simp] theorem radioEvent_pwr (e : Fin 2) (b : Nat) (f : Radio → Radio) (s : State) : (radioEvent e b f s).pwr = s.pwr := rfl
@[simp] theorem radioEvent_dom (e : Fin 2) (b : Nat) (f : Radio → Radio) (s : State) : (radioEvent e b f s).dom = s.dom := rfl
@[simp] theorem radioEvent_rst (e : Fin 2) (b : Nat) (f : Radio → Radio) (s : State) : (radioEvent e b f s).rst = s.rst := rfl
@[simp] theorem radioEvent_boot (e : Fin 2) (b : Nat) (f : Radio → Radio) (s : State) : (radioEvent e b f s).boot = s.boot := rfl
@[simp] theorem radioEvent_jrnl (e : Fin 2) (b : Nat) (f : Radio → Radio) (s : State) : (radioEvent e b f s).jrnl = s.jrnl := rfl
@[simp] theorem radioEvent_card (e : Fin 2) (b : Nat) (f : Radio → Radio) (s : State) : (radioEvent e b f s).card = s.card := rfl
@[simp] theorem radioEvent_host (e : Fin 2) (b : Nat) (f : Radio → Radio) (s : State) : (radioEvent e b f s).host = s.host := rfl
@[simp] theorem radioEvent_sec (e : Fin 2) (b : Nat) (f : Radio → Radio) (s : State) : (radioEvent e b f s).sec = s.sec := rfl
@[simp] theorem radioEvent_mon (e : Fin 2) (b : Nat) (f : Radio → Radio) (s : State) : (radioEvent e b f s).mon = s.mon := rfl
@[simp] theorem radioEvent_pins (e : Fin 2) (b : Nat) (f : Radio → Radio) (s : State) : (radioEvent e b f s).pins = s.pins := rfl
@[simp] theorem radioEvent_dev (e : Fin 2) (b : Nat) (f : Radio → Radio) (s : State) : (radioEvent e b f s).dev = s.dev := rfl
@[simp] theorem radioEvent_cores (e : Fin 2) (b : Nat) (f : Radio → Radio) (s : State) : (radioEvent e b f s).cores = s.cores := rfl
@[simp] theorem radioEvent_rills (e : Fin 2) (b : Nat) (f : Radio → Radio) (s : State) : (radioEvent e b f s).rills = s.rills := rfl
@[simp] theorem radioEvent_chans (e : Fin 2) (b : Nat) (f : Radio → Radio) (s : State) : (radioEvent e b f s).chans = s.chans := rfl
@[simp] theorem radioEvent_mem (e : Fin 2) (b : Nat) (f : Radio → Radio) (s : State) : (radioEvent e b f s).mem = s.mem := rfl
@[simp] theorem radioEvent_sens (e : Fin 2) (b : Nat) (f : Radio → Radio) (s : State) : (radioEvent e b f s).sens = s.sens := rfl
@[simp] theorem radioEvent_time (e : Fin 2) (b : Nat) (f : Radio → Radio) (s : State) : (radioEvent e b f s).time = s.time := rfl
@[simp] theorem radioEvent_dsp (e : Fin 2) (b : Nat) (f : Radio → Radio) (s : State) : (radioEvent e b f s).dsp = s.dsp := rfl
@[simp] theorem radioEvent_iq (e : Fin 2) (b : Nat) (f : Radio → Radio) (s : State) : (radioEvent e b f s).iq = s.iq := rfl
@[simp] theorem radioEvent_radio (e : Fin 2) (b : Nat) (f : Radio → Radio) (s : State) : (radioEvent e b f s).radio = modV s.radio e f := rfl
@[simp] theorem radioEvent_latch (e : Fin 2) (b : Nat) (f : Radio → Radio) (s : State) : (radioEvent e b f s).latch = s.latch := rfl
@[simp] theorem radioEvent_free (e : Fin 2) (b : Nat) (f : Radio → Radio) (s : State) : (radioEvent e b f s).free = s.free := rfl
@[simp] theorem radioEvent_pending (e : Fin 2) (b : Nat) (f : Radio → Radio) (s : State) : (radioEvent e b f s).pending = s.pending := rfl

/-! ### rillEvent -/

@[simp] theorem rillEvent_part (r : Fin 32) (b : Nat) (f : Rill → Rill) (s : State) : (rillEvent r b f s).part = s.part := rfl
@[simp] theorem rillEvent_clk (r : Fin 32) (b : Nat) (f : Rill → Rill) (s : State) : (rillEvent r b f s).clk = s.clk := rfl
@[simp] theorem rillEvent_cfg (r : Fin 32) (b : Nat) (f : Rill → Rill) (s : State) : (rillEvent r b f s).cfg = s.cfg := rfl
@[simp] theorem rillEvent_con (r : Fin 32) (b : Nat) (f : Rill → Rill) (s : State) : (rillEvent r b f s).con = s.con := rfl
@[simp] theorem rillEvent_jobs (r : Fin 32) (b : Nat) (f : Rill → Rill) (s : State) : (rillEvent r b f s).jobs = s.jobs := rfl
@[simp] theorem rillEvent_det (r : Fin 32) (b : Nat) (f : Rill → Rill) (s : State) : (rillEvent r b f s).det = s.det := rfl
@[simp] theorem rillEvent_safe (r : Fin 32) (b : Nat) (f : Rill → Rill) (s : State) : (rillEvent r b f s).safe = s.safe := rfl
@[simp] theorem rillEvent_pwr (r : Fin 32) (b : Nat) (f : Rill → Rill) (s : State) : (rillEvent r b f s).pwr = s.pwr := rfl
@[simp] theorem rillEvent_dom (r : Fin 32) (b : Nat) (f : Rill → Rill) (s : State) : (rillEvent r b f s).dom = s.dom := rfl
@[simp] theorem rillEvent_rst (r : Fin 32) (b : Nat) (f : Rill → Rill) (s : State) : (rillEvent r b f s).rst = s.rst := rfl
@[simp] theorem rillEvent_boot (r : Fin 32) (b : Nat) (f : Rill → Rill) (s : State) : (rillEvent r b f s).boot = s.boot := rfl
@[simp] theorem rillEvent_jrnl (r : Fin 32) (b : Nat) (f : Rill → Rill) (s : State) : (rillEvent r b f s).jrnl = s.jrnl := rfl
@[simp] theorem rillEvent_card (r : Fin 32) (b : Nat) (f : Rill → Rill) (s : State) : (rillEvent r b f s).card = s.card := rfl
@[simp] theorem rillEvent_host (r : Fin 32) (b : Nat) (f : Rill → Rill) (s : State) : (rillEvent r b f s).host = s.host := rfl
@[simp] theorem rillEvent_sec (r : Fin 32) (b : Nat) (f : Rill → Rill) (s : State) : (rillEvent r b f s).sec = s.sec := rfl
@[simp] theorem rillEvent_mon (r : Fin 32) (b : Nat) (f : Rill → Rill) (s : State) : (rillEvent r b f s).mon = s.mon := rfl
@[simp] theorem rillEvent_pins (r : Fin 32) (b : Nat) (f : Rill → Rill) (s : State) : (rillEvent r b f s).pins = s.pins := rfl
@[simp] theorem rillEvent_dev (r : Fin 32) (b : Nat) (f : Rill → Rill) (s : State) : (rillEvent r b f s).dev = s.dev := rfl
@[simp] theorem rillEvent_cores (r : Fin 32) (b : Nat) (f : Rill → Rill) (s : State) : (rillEvent r b f s).cores = s.cores := rfl
@[simp] theorem rillEvent_rills (r : Fin 32) (b : Nat) (f : Rill → Rill) (s : State) : (rillEvent r b f s).rills = modV s.rills r f := rfl
@[simp] theorem rillEvent_chans (r : Fin 32) (b : Nat) (f : Rill → Rill) (s : State) : (rillEvent r b f s).chans = s.chans := rfl
@[simp] theorem rillEvent_mem (r : Fin 32) (b : Nat) (f : Rill → Rill) (s : State) : (rillEvent r b f s).mem = s.mem := rfl
@[simp] theorem rillEvent_sens (r : Fin 32) (b : Nat) (f : Rill → Rill) (s : State) : (rillEvent r b f s).sens = s.sens := rfl
@[simp] theorem rillEvent_time (r : Fin 32) (b : Nat) (f : Rill → Rill) (s : State) : (rillEvent r b f s).time = s.time := rfl
@[simp] theorem rillEvent_dsp (r : Fin 32) (b : Nat) (f : Rill → Rill) (s : State) : (rillEvent r b f s).dsp = s.dsp := rfl
@[simp] theorem rillEvent_iq (r : Fin 32) (b : Nat) (f : Rill → Rill) (s : State) : (rillEvent r b f s).iq = s.iq := rfl
@[simp] theorem rillEvent_radio (r : Fin 32) (b : Nat) (f : Rill → Rill) (s : State) : (rillEvent r b f s).radio = s.radio := rfl
@[simp] theorem rillEvent_latch (r : Fin 32) (b : Nat) (f : Rill → Rill) (s : State) : (rillEvent r b f s).latch = s.latch := rfl
@[simp] theorem rillEvent_free (r : Fin 32) (b : Nat) (f : Rill → Rill) (s : State) : (rillEvent r b f s).free = s.free := rfl
@[simp] theorem rillEvent_pending (r : Fin 32) (b : Nat) (f : Rill → Rill) (s : State) : (rillEvent r b f s).pending = s.pending := rfl

/-! ### drivePins -/

@[simp] theorem drivePins_part (s : State) : (drivePins s).part = s.part := rfl
@[simp] theorem drivePins_clk (s : State) : (drivePins s).clk = s.clk := rfl
@[simp] theorem drivePins_cfg (s : State) : (drivePins s).cfg = s.cfg := rfl
@[simp] theorem drivePins_con (s : State) : (drivePins s).con = s.con := rfl
@[simp] theorem drivePins_jobs (s : State) : (drivePins s).jobs = s.jobs := rfl
@[simp] theorem drivePins_det (s : State) : (drivePins s).det = s.det := rfl
@[simp] theorem drivePins_safe (s : State) : (drivePins s).safe = s.safe := rfl
@[simp] theorem drivePins_pwr (s : State) : (drivePins s).pwr = s.pwr := rfl
@[simp] theorem drivePins_dom (s : State) : (drivePins s).dom = s.dom := rfl
@[simp] theorem drivePins_rst (s : State) : (drivePins s).rst = s.rst := rfl
@[simp] theorem drivePins_boot (s : State) : (drivePins s).boot = s.boot := rfl
@[simp] theorem drivePins_jrnl (s : State) : (drivePins s).jrnl = s.jrnl := rfl
@[simp] theorem drivePins_card (s : State) : (drivePins s).card = s.card := rfl
@[simp] theorem drivePins_host (s : State) : (drivePins s).host = s.host := rfl
@[simp] theorem drivePins_sec (s : State) : (drivePins s).sec = s.sec := rfl
@[simp] theorem drivePins_mon (s : State) : (drivePins s).mon = s.mon := rfl
@[simp] theorem drivePins_dev (s : State) : (drivePins s).dev = s.dev := rfl
@[simp] theorem drivePins_cores (s : State) : (drivePins s).cores = s.cores := rfl
@[simp] theorem drivePins_rills (s : State) : (drivePins s).rills = s.rills := rfl
@[simp] theorem drivePins_chans (s : State) : (drivePins s).chans = s.chans := rfl
@[simp] theorem drivePins_mem (s : State) : (drivePins s).mem = s.mem := rfl
@[simp] theorem drivePins_sens (s : State) : (drivePins s).sens = s.sens := rfl
@[simp] theorem drivePins_time (s : State) : (drivePins s).time = s.time := rfl
@[simp] theorem drivePins_dsp (s : State) : (drivePins s).dsp = s.dsp := rfl
@[simp] theorem drivePins_iq (s : State) : (drivePins s).iq = s.iq := rfl
@[simp] theorem drivePins_radio (s : State) : (drivePins s).radio = s.radio := rfl
@[simp] theorem drivePins_latch (s : State) : (drivePins s).latch = s.latch := rfl
@[simp] theorem drivePins_fresh (s : State) : (drivePins s).fresh = s.fresh := rfl
@[simp] theorem drivePins_free (s : State) : (drivePins s).free = s.free := rfl
@[simp] theorem drivePins_pending (s : State) : (drivePins s).pending = s.pending := rfl

end Sys2Proof.Machine
end

