-- ==== Sys2Proof/Laws/Ops.lean ====
section
/-! SUPPORT. What the shared operations can do, each said once: the clock's advance to a stated cycle, contract events, faults and
state changes, the ways a mailbox command, a timetable entry, a channel entry and a DSP instruction can come out. -/

namespace Sys2Proof.Machine

/-! ### The clock (log entries 8 and 33) -/

@[simp] theorem Clock.plus_zero (c : Clock) : c.plus 0 = c := by cases c with | mk a r b y => cases r <;> rfl

@[simp] theorem advance_zero (s : State) : advance 0 s = s := rfl

/-- Where nothing waits for a cycle to pass, only the clock moves. -/
theorem advance_settled {n : Nat} {s : State} (h : s.settled = true) : advance n s = { s with clk := s.clk.plus n } := by
  unfold advance
  split
  · rename_i h0; subst h0; simp
  · rfl

/-- A cycle that can be reached moves the clock within the present beat, and nothing else where nothing waits for a cycle to pass. -/
theorem reach_some {t : Nat} {s u : State} (hs : s.settled = true) (h : reach t s = some u) :
    u = { s with clk := u.clk } ∧ u.clk.beat = s.clk.beat ∧ u.clk.running = s.clk.running ∧ s.clk.raw ≤ u.clk.raw ∧
    t ≤ u.clk.raw ∧ (s.clk.raw < t → u.clk.raw = t) ∧ (s.clk.cyc < beatCycles → u.clk.cyc < beatCycles) := by
  unfold reach at h
  split at h
  · cases h; simp; omega
  · split at h
    · rename_i h1 h2
      cases h
      rw [advance_settled hs]
      cases hr : s.clk.running <;> simp [Clock.plus, hr] at h2 ⊢ <;> omega
    · cases h

/-- A cycle that is not ahead is reached at once. -/
theorem reach_past {t : Nat} {s : State} (h : t ≤ s.clk.raw) : reach t s = some s := by simp [reach, h]

/-- What atCycle can answer. -/
theorem atCycle_cases (t : Nat) (s : State) (f : State → State) :
    atCycle t s f = s ∨ ∃ u, reach t s = some u ∧ atCycle t s f = f u := by
  unfold atCycle
  split
  · exact .inl rfl
  · rename_i u h; exact .inr ⟨u, h, rfl⟩

/-- atCycle at a cycle that is not ahead acts now. -/
theorem atCycle_past {t : Nat} {s : State} (f : State → State) (h : t ≤ s.clk.raw) : atCycle t s f = f s := by
  simp [atCycle, reach_past h]

/-- toCycle moves the clock within the beat, and nothing else where nothing waits for a cycle to pass. -/
theorem toCycle_eq (c : Nat) (s : State) (hs : s.settled = true) (hr : s.clk.running = true) :
    toCycle c s = { s with clk := { s.clk with raw := s.clk.raw + (c - s.clk.cyc), cyc := max c s.clk.cyc } } := by
  unfold toCycle
  split
  · rename_i h
    rw [advance_settled hs, Nat.max_eq_left (by omega)]
    have : s.clk.cyc + (c - s.clk.cyc) = c := by omega
    simp [Clock.plus, hr, this]
  · rename_i h; rw [Nat.max_eq_right (by omega), Nat.sub_eq_zero_of_le (by omega)]; rfl

/-- A grid cycle that can be reached moves the clock within the present beat, and nothing else where nothing waits for a cycle to
pass. -/
theorem reachGrid_some {g : Nat} {s u : State} (hs : s.settled = true) (hr : s.clk.running = true) (h : reachGrid g s = some u) :
    u = { s with clk := u.clk } ∧ u.clk.beat = s.clk.beat ∧ s.clk.raw ≤ u.clk.raw ∧
    (s.clk.cyc < beatCycles → u.clk.cyc < beatCycles) := by
  unfold reachGrid at h
  split at h
  · cases h; simp
  · split at h
    · rename_i h2
      cases h
      rw [toCycle_eq _ _ hs hr]
      have : g - s.clk.beat * beatCycles < beatCycles := by
        rw [Nat.add_one_mul] at h2
        have : 0 < beatCycles := by decide
        omega
      simp; omega
    · cases h

/-! ### What passes with a cycle (R269, R271, R280, R281, R475) -/

/-- What the end of jobs and the work lists leave: everything but jobs, records, the journal, the device state, memory and the units'
work for jobs. -/
def SameUnits (s t : State) : Prop :=
  t.part = s.part ∧ t.clk = s.clk ∧ t.cfg = s.cfg ∧ t.con = s.con ∧ t.det = s.det ∧ t.safe = s.safe ∧ t.pwr = s.pwr ∧ t.dom = s.dom ∧
  t.rst = s.rst ∧ t.boot = s.boot ∧ t.card = s.card ∧ t.sec = s.sec ∧ t.mon = s.mon ∧ t.pins = s.pins ∧ t.sens = s.sens ∧
  t.time = s.time ∧ t.dsp = s.dsp ∧ t.iq = s.iq ∧ t.radio = s.radio ∧ t.latch = s.latch ∧ t.free = s.free ∧ t.pending = s.pending

theorem SameUnits.rfl {s : State} : SameUnits s s := by simp [SameUnits]

theorem SameUnits.trans {s t u : State} (h : SameUnits s t) (h2 : SameUnits t u) : SameUnits s u := by
  unfold SameUnits at *
  simp_all

/-- A list of steps, each of which leaves the units, leaves them. -/
theorem SameUnits.foldl {α : Type} (f : State → α → State) (h : ∀ s x, SameUnits s (f s x)) (l : List α) (s : State) :
    SameUnits s (l.foldl f s) := by
  induction l generalizing s with
  | nil => exact .rfl
  | cons x l ih => exact (h s x).trans (ih (f s x))

theorem stepSeqs_same (j : Job) (p : Period) (s : State) : SameUnits s (stepSeqs j p s) := by simp [SameUnits, stepSeqs]

theorem stepPeriods_same (xs : List (Fin 12 × BitVec 8 × Nat)) (s : State) : SameUnits s (stepPeriods xs s) := by
  refine SameUnits.foldl _ (fun s x => ?_) xs s
  split
  · exact .rfl
  · split
    · exact .rfl
    · split
      · exact .rfl
      · exact stepSeqs_same ..

/-- The end of a job leaves the units (R188, R274). -/
theorem finishJob_same (k : Fin 12) (cause code : Nat) (fault : Bool) (s : State) : SameUnits s (finishJob k cause code fault s) := by
  unfold finishJob
  split
  · exact .rfl
  · rename_i j h
    refine (stepPeriods_same (s.jobs.stepping.filter fun x => x.1 == k && x.2.1 == j.id) s).trans ?_
    simp [SameUnits, dropWork]

theorem freeJob_same (x : Leaving) (s : State) : SameUnits s (freeJob x s) := by
  simp only [freeJob]
  split <;> simp [SameUnits]

theorem settle_same (s : State) : SameUnits s (settle s) := by
  unfold settle
  split
  · unfold setDev; split <;> simp [SameUnits]
  · exact .rfl

theorem buildList_same (k : Fin 12) (idx : Nat) (s : State) : SameUnits s (buildList k idx s) := by
  unfold buildList
  split
  · exact .rfl
  · split
    · exact .rfl
    · simp [SameUnits]

theorem buildLists_same (s : State) : SameUnits s (buildLists s) := by
  unfold buildLists
  have h : ∀ t, SameUnits s t → SameUnits s { t with jobs := { t.jobs with listing := false } } := fun t h => h.trans (by simp [SameUnits])
  refine h _ (SameUnits.foldl _ (fun s x => ?_) _ _)
  simp only
  split
  · exact buildList_same ..
  · exact .rfl

theorem nextCycle_same (s : State) : SameUnits s (nextCycle s) := by
  have key : ∀ a b : State, SameUnits s a → (b = a ∨ b = settle a) → SameUnits s b := by
    rintro a b h (rfl | rfl)
    · exact h
    · exact h.trans (settle_same a)
  have h0 : SameUnits s { s with jobs := { s.jobs with leaving := [], stepping := [], once := [] } } := by simp [SameUnits]
  have h1 := h0.trans (SameUnits.foldl (fun s x => freeJob x s) (fun s x => freeJob_same x s) s.jobs.leaving _)
  refine (key _ _ h1 ?_).trans ((stepPeriods_same s.jobs.stepping _).trans (SameUnits.foldl
    (fun s x => if (s.job x.1).any (·.id == x.2) then finishJob x.1 6 0 false s else s) (fun s x => ?_) s.jobs.once _))
  · split <;> simp
  · split
    · exact finishJob_same ..
    · exact .rfl

theorem Clock.plus_plus (a b : Nat) (c : Clock) : (c.plus a).plus b = c.plus (a + b) := by
  cases h : c.running <;> simp [Clock.plus, h] <;> omega

/-- The state a cycle further on: the clock has moved by one, the units are as they were. -/
theorem oneCycle_same (s : State) : SameUnits { s with clk := s.clk.plus 1 } (oneCycle s) := by
  unfold oneCycle
  split
  · exact .rfl
  · split
    · refine SameUnits.trans ?_ (nextCycle_same _)
      have := buildLists_same s
      simp [SameUnits] at this ⊢
      simp_all
    · exact nextCycle_same _

/-- The state n cycles further on: the clock has moved by n, the units are as they were. -/
theorem advance_same (n : Nat) (s : State) : SameUnits { s with clk := s.clk.plus n } (advance n s) := by
  by_cases hs : s.settled = true
  · rw [advance_settled hs]; exact .rfl
  · unfold advance
    split
    · rename_i h; subst h
      rw [Clock.plus_zero]; exact .rfl
    · split
      · rename_i h; subst h; exact oneCycle_same s
      · rename_i h0 h1
        have a := oneCycle_same s
        have b := oneCycle_same (oneCycle s)
        have c : (s.clk.plus 1).plus 1 = s.clk.plus 2 := Clock.plus_plus ..
        have d : (s.clk.plus 2).plus (n - 2) = s.clk.plus n := by rw [Clock.plus_plus]; congr 1; omega
        simp only [SameUnits] at a b ⊢
        simp_all

/-- A cycle that can be reached: the clock shows it, the units are as they were. -/
theorem reach_same {t : Nat} {s u : State} (h : reach t s = some u) : SameUnits { s with clk := s.clk.plus (t - s.clk.raw) } u := by
  unfold reach at h
  split at h
  · rename_i h1
    cases h
    rw [Nat.sub_eq_zero_of_le h1]
    rw [Clock.plus_zero]; exact .rfl
  · split at h
    · cases h; exact advance_same ..
    · cases h

/-! ### Events, faults and state changes leave the rest of the machine as it is -/


/-! ### setDev -/

@[simp] theorem setDev_part (d : DevState) (s : State) : (setDev d s).part = s.part := by unfold setDev; split <;> simp
@[simp] theorem setDev_clk (d : DevState) (s : State) : (setDev d s).clk = s.clk := by unfold setDev; split <;> simp
@[simp] theorem setDev_cfg (d : DevState) (s : State) : (setDev d s).cfg = s.cfg := by unfold setDev; split <;> simp
@[simp] theorem setDev_con (d : DevState) (s : State) : (setDev d s).con = s.con := by unfold setDev; split <;> simp
@[simp] theorem setDev_jobs (d : DevState) (s : State) : (setDev d s).jobs = s.jobs := by unfold setDev; split <;> simp
@[simp] theorem setDev_det (d : DevState) (s : State) : (setDev d s).det = s.det := by unfold setDev; split <;> simp
@[simp] theorem setDev_safe (d : DevState) (s : State) : (setDev d s).safe = s.safe := by unfold setDev; split <;> simp
@[simp] theorem setDev_pwr (d : DevState) (s : State) : (setDev d s).pwr = s.pwr := by unfold setDev; split <;> simp
@[simp] theorem setDev_dom (d : DevState) (s : State) : (setDev d s).dom = s.dom := by unfold setDev; split <;> simp
@[simp] theorem setDev_rst (d : DevState) (s : State) : (setDev d s).rst = s.rst := by unfold setDev; split <;> simp
@[simp] theorem setDev_boot (d : DevState) (s : State) : (setDev d s).boot = s.boot := by unfold setDev; split <;> simp
@[simp] theorem setDev_card (d : DevState) (s : State) : (setDev d s).card = s.card := by unfold setDev; split <;> simp
@[simp] theorem setDev_sec (d : DevState) (s : State) : (setDev d s).sec = s.sec := by unfold setDev; split <;> simp
@[simp] theorem setDev_mon (d : DevState) (s : State) : (setDev d s).mon = s.mon := by unfold setDev; split <;> simp
@[simp] theorem setDev_pins (d : DevState) (s : State) : (setDev d s).pins = s.pins := by unfold setDev; split <;> simp
@[simp] theorem setDev_cores (d : DevState) (s : State) : (setDev d s).cores = s.cores := by unfold setDev; split <;> simp
@[simp] theorem setDev_rills (d : DevState) (s : State) : (setDev d s).rills = s.rills := by unfold setDev; split <;> simp
@[simp] theorem setDev_chans (d : DevState) (s : State) : (setDev d s).chans = s.chans := by unfold setDev; split <;> simp
@[simp] theorem setDev_mem (d : DevState) (s : State) : (setDev d s).mem = s.mem := by unfold setDev; split <;> simp
@[simp] theorem setDev_sens (d : DevState) (s : State) : (setDev d s).sens = s.sens := by unfold setDev; split <;> simp
@[simp] theorem setDev_time (d : DevState) (s : State) : (setDev d s).time = s.time := by unfold setDev; split <;> simp
@[simp] theorem setDev_dsp (d : DevState) (s : State) : (setDev d s).dsp = s.dsp := by unfold setDev; split <;> simp
@[simp] theorem setDev_iq (d : DevState) (s : State) : (setDev d s).iq = s.iq := by unfold setDev; split <;> simp
@[simp] theorem setDev_radio (d : DevState) (s : State) : (setDev d s).radio = s.radio := by unfold setDev; split <;> simp
@[simp] theorem setDev_latch (d : DevState) (s : State) : (setDev d s).latch = s.latch := by unfold setDev; split <;> simp
@[simp] theorem setDev_free (d : DevState) (s : State) : (setDev d s).free = s.free := by unfold setDev; split <;> simp
@[simp] theorem setDev_pending (d : DevState) (s : State) : (setDev d s).pending = s.pending := by unfold setDev; split <;> simp

/-- After a change of state the device is in that state. -/
@[simp] theorem setDev_dev (d : DevState) (s : State) : (setDev d s).dev = d := by
  unfold setDev; split
  · assumption
  · simp


/-! ### contractEvent -/

@[simp] theorem contractEvent_part (bit : Nat) (k : Option (Fin 12)) (s : State) : (contractEvent bit k s).part = s.part := by simp [contractEvent]
@[simp] theorem contractEvent_clk (bit : Nat) (k : Option (Fin 12)) (s : State) : (contractEvent bit k s).clk = s.clk := by simp [contractEvent]
@[simp] theorem contractEvent_cfg (bit : Nat) (k : Option (Fin 12)) (s : State) : (contractEvent bit k s).cfg = s.cfg := by simp [contractEvent]
@[simp] theorem contractEvent_jobs (bit : Nat) (k : Option (Fin 12)) (s : State) : (contractEvent bit k s).jobs = s.jobs := by simp [contractEvent]
@[simp] theorem contractEvent_det (bit : Nat) (k : Option (Fin 12)) (s : State) : (contractEvent bit k s).det = s.det := by simp [contractEvent]
@[simp] theorem contractEvent_safe (bit : Nat) (k : Option (Fin 12)) (s : State) : (contractEvent bit k s).safe = s.safe := by simp [contractEvent]
@[simp] theorem contractEvent_pwr (bit : Nat) (k : Option (Fin 12)) (s : State) : (contractEvent bit k s).pwr = s.pwr := by simp [contractEvent]
@[simp] theorem contractEvent_dom (bit : Nat) (k : Option (Fin 12)) (s : State) : (contractEvent bit k s).dom = s.dom := by simp [contractEvent]
@[simp] theorem contractEvent_rst (bit : Nat) (k : Option (Fin 12)) (s : State) : (contractEvent bit k s).rst = s.rst := by simp [contractEvent]
@[simp] theorem contractEvent_boot (bit : Nat) (k : Option (Fin 12)) (s : State) : (contractEvent bit k s).boot = s.boot := by simp [contractEvent]
@[simp] theorem contractEvent_card (bit : Nat) (k : Option (Fin 12)) (s : State) : (contractEvent bit k s).card = s.card := by simp [contractEvent]
@[simp] theorem contractEvent_sec (bit : Nat) (k : Option (Fin 12)) (s : State) : (contractEvent bit k s).sec = s.sec := by simp [contractEvent]
@[simp] theorem contractEvent_mon (bit : Nat) (k : Option (Fin 12)) (s : State) : (contractEvent bit k s).mon = s.mon := by simp [contractEvent]
@[simp] theorem contractEvent_pins (bit : Nat) (k : Option (Fin 12)) (s : State) : (contractEvent bit k s).pins = s.pins := by simp [contractEvent]
@[simp] theorem contractEvent_dev (bit : Nat) (k : Option (Fin 12)) (s : State) : (contractEvent bit k s).dev = s.dev := by simp [contractEvent]
@[simp] theorem contractEvent_cores (bit : Nat) (k : Option (Fin 12)) (s : State) : (contractEvent bit k s).cores = s.cores := by simp [contractEvent]
@[simp] theorem contractEvent_rills (bit : Nat) (k : Option (Fin 12)) (s : State) : (contractEvent bit k s).rills = s.rills := by simp [contractEvent]
@[simp] theorem contractEvent_chans (bit : Nat) (k : Option (Fin 12)) (s : State) : (contractEvent bit k s).chans = s.chans := by simp [contractEvent]
@[simp] theorem contractEvent_mem (bit : Nat) (k : Option (Fin 12)) (s : State) : (contractEvent bit k s).mem = s.mem := by simp [contractEvent]
@[simp] theorem contractEvent_sens (bit : Nat) (k : Option (Fin 12)) (s : State) : (contractEvent bit k s).sens = s.sens := by simp [contractEvent]
@[simp] theorem contractEvent_time (bit : Nat) (k : Option (Fin 12)) (s : State) : (contractEvent bit k s).time = s.time := by simp [contractEvent]
@[simp] theorem contractEvent_dsp (bit : Nat) (k : Option (Fin 12)) (s : State) : (contractEvent bit k s).dsp = s.dsp := by simp [contractEvent]
@[simp] theorem contractEvent_iq (bit : Nat) (k : Option (Fin 12)) (s : State) : (contractEvent bit k s).iq = s.iq := by simp [contractEvent]
@[simp] theorem contractEvent_radio (bit : Nat) (k : Option (Fin 12)) (s : State) : (contractEvent bit k s).radio = s.radio := by simp [contractEvent]
@[simp] theorem contractEvent_latch (bit : Nat) (k : Option (Fin 12)) (s : State) : (contractEvent bit k s).latch = s.latch := by simp [contractEvent]
@[simp] theorem contractEvent_free (bit : Nat) (k : Option (Fin 12)) (s : State) : (contractEvent bit k s).free = s.free := by simp [contractEvent]
@[simp] theorem contractEvent_pending (bit : Nat) (k : Option (Fin 12)) (s : State) : (contractEvent bit k s).pending = s.pending := by simp [contractEvent]

/-- A contract event sets its status bit and clears none. -/
theorem contractEvent_status (bit : Nat) (k : Option (Fin 12)) (s : State) :
    (contractEvent bit k s).con.status = s.con.status ||| BitVec.ofNat 7 (2 ^ bit) := by simp [contractEvent]


/-! ### raiseFault -/

@[simp] theorem raiseFault_part (code unit detail : Nat) (k : Option (Fin 12)) (s : State) : (raiseFault code unit detail k s).part = s.part := by simp [raiseFault]
@[simp] theorem raiseFault_clk (code unit detail : Nat) (k : Option (Fin 12)) (s : State) : (raiseFault code unit detail k s).clk = s.clk := by simp [raiseFault]
@[simp] theorem raiseFault_cfg (code unit detail : Nat) (k : Option (Fin 12)) (s : State) : (raiseFault code unit detail k s).cfg = s.cfg := by simp [raiseFault]
@[simp] theorem raiseFault_con (code unit detail : Nat) (k : Option (Fin 12)) (s : State) : (raiseFault code unit detail k s).con = s.con := by simp [raiseFault]
@[simp] theorem raiseFault_jobs (code unit detail : Nat) (k : Option (Fin 12)) (s : State) : (raiseFault code unit detail k s).jobs = s.jobs := by simp [raiseFault]
@[simp] theorem raiseFault_det (code unit detail : Nat) (k : Option (Fin 12)) (s : State) : (raiseFault code unit detail k s).det = s.det := by simp [raiseFault]
@[simp] theorem raiseFault_pwr (code unit detail : Nat) (k : Option (Fin 12)) (s : State) : (raiseFault code unit detail k s).pwr = s.pwr := by simp [raiseFault]
@[simp] theorem raiseFault_dom (code unit detail : Nat) (k : Option (Fin 12)) (s : State) : (raiseFault code unit detail k s).dom = s.dom := by simp [raiseFault]
@[simp] theorem raiseFault_rst (code unit detail : Nat) (k : Option (Fin 12)) (s : State) : (raiseFault code unit detail k s).rst = s.rst := by simp [raiseFault]
@[simp] theorem raiseFault_boot (code unit detail : Nat) (k : Option (Fin 12)) (s : State) : (raiseFault code unit detail k s).boot = s.boot := by simp [raiseFault]
@[simp] theorem raiseFault_card (code unit detail : Nat) (k : Option (Fin 12)) (s : State) : (raiseFault code unit detail k s).card = s.card := by simp [raiseFault]
@[simp] theorem raiseFault_sec (code unit detail : Nat) (k : Option (Fin 12)) (s : State) : (raiseFault code unit detail k s).sec = s.sec := by simp [raiseFault]
@[simp] theorem raiseFault_mon (code unit detail : Nat) (k : Option (Fin 12)) (s : State) : (raiseFault code unit detail k s).mon = s.mon := by simp [raiseFault]
@[simp] theorem raiseFault_pins (code unit detail : Nat) (k : Option (Fin 12)) (s : State) : (raiseFault code unit detail k s).pins = s.pins := by simp [raiseFault]
@[simp] theorem raiseFault_dev (code unit detail : Nat) (k : Option (Fin 12)) (s : State) : (raiseFault code unit detail k s).dev = s.dev := by simp [raiseFault]
@[simp] theorem raiseFault_cores (code unit detail : Nat) (k : Option (Fin 12)) (s : State) : (raiseFault code unit detail k s).cores = s.cores := by simp [raiseFault]
@[simp] theorem raiseFault_rills (code unit detail : Nat) (k : Option (Fin 12)) (s : State) : (raiseFault code unit detail k s).rills = s.rills := by simp [raiseFault]
@[simp] theorem raiseFault_chans (code unit detail : Nat) (k : Option (Fin 12)) (s : State) : (raiseFault code unit detail k s).chans = s.chans := by simp [raiseFault]
@[simp] theorem raiseFault_mem (code unit detail : Nat) (k : Option (Fin 12)) (s : State) : (raiseFault code unit detail k s).mem = s.mem := by simp [raiseFault]
@[simp] theorem raiseFault_sens (code unit detail : Nat) (k : Option (Fin 12)) (s : State) : (raiseFault code unit detail k s).sens = s.sens := by simp [raiseFault]
@[simp] theorem raiseFault_time (code unit detail : Nat) (k : Option (Fin 12)) (s : State) : (raiseFault code unit detail k s).time = s.time := by simp [raiseFault]
@[simp] theorem raiseFault_dsp (code unit detail : Nat) (k : Option (Fin 12)) (s : State) : (raiseFault code unit detail k s).dsp = s.dsp := by simp [raiseFault]
@[simp] theorem raiseFault_iq (code unit detail : Nat) (k : Option (Fin 12)) (s : State) : (raiseFault code unit detail k s).iq = s.iq := by simp [raiseFault]
@[simp] theorem raiseFault_radio (code unit detail : Nat) (k : Option (Fin 12)) (s : State) : (raiseFault code unit detail k s).radio = s.radio := by simp [raiseFault]
@[simp] theorem raiseFault_latch (code unit detail : Nat) (k : Option (Fin 12)) (s : State) : (raiseFault code unit detail k s).latch = s.latch := by simp [raiseFault]
@[simp] theorem raiseFault_free (code unit detail : Nat) (k : Option (Fin 12)) (s : State) : (raiseFault code unit detail k s).free = s.free := by simp [raiseFault]
@[simp] theorem raiseFault_pending (code unit detail : Nat) (k : Option (Fin 12)) (s : State) : (raiseFault code unit detail k s).pending = s.pending := by simp [raiseFault]

/-- A fault sets its bit of SAFE_FAULT and LAST_FAULT. -/
theorem raiseFault_safe (code unit detail : Nat) (k : Option (Fin 12)) (s : State) :
    (raiseFault code unit detail k s).safe =
      { s.safe with lastFault := BitVec.ofNat 8 code, faults := s.safe.faults ||| BitVec.ofNat 15 (2 ^ code) } := by
  simp [raiseFault]

/-! ### The mailbox (R463, R464) -/

/-- A GO while function 1 takes none changes nothing. -/
theorem go_off (c : CmdRow) (act : List Byte → State → (Nat × List Byte) × State) (f : Frame) (s : State) (h : s.mailboxOn = false) :
    go c act f s = s := by simp [go, h]

/-- A GO while BUSY is ignored. -/
theorem go_busy (c : CmdRow) (act : List Byte → State → (Nat × List Byte) × State) (f : Frame) (s : State)
    (h : s.mailboxOn = true) (hb : s.host.busy = true) : go c act f s = ignoreGo s := by simp [go, h, hb]

/-- A command that a check refuses. -/
theorem go_refused (c : CmdRow) (act : List Byte → State → (Nat × List Byte) × State) (f : Frame) (s : State) (st : Nat)
    (h : s.mailboxOn = true) (hb : s.host.busy = false) (h0 : st ≠ 0) (hc : c.check f (acceptGo s) = st) :
    go c act f s = refuseCmd c.op f.tag st (acceptGo s) := by
  simp [go, h, hb, hc]

/-- A command that passes its checks. -/
theorem go_ok (c : CmdRow) (act : List Byte → State → (Nat × List Byte) × State) (f : Frame) (s : State)
    (h : s.mailboxOn = true) (hb : s.host.busy = false) (hc : c.check f (acceptGo s) = 0) :
    go c act f s = holdReply (replyBytes (replyHead c.op f.tag (act (frameBody f) (acceptGo s)).1.1 s.dev.code)
      (act (frameBody f) (acceptGo s)).1.2) (act (frameBody f) (acceptGo s)).2 := by
  simp only [go, h, hb, hc]; simp; rfl

/-- The same of a command whose operation runs on. -/
theorem goLater_refused (c : CmdRow) (act : List Byte → State → State) (f : Frame) (s : State) (st : Nat)
    (h : s.mailboxOn = true) (hb : s.host.busy = false) (h0 : st ≠ 0) (hc : c.check f (acceptGo s) = st) :
    goLater c act f s = refuseCmd c.op f.tag st (acceptGo s) := by
  simp [goLater, h, hb, hc]

/-- The same of a command whose operation runs on. -/
theorem goLater_ok (c : CmdRow) (act : List Byte → State → State) (f : Frame) (s : State)
    (h : s.mailboxOn = true) (hb : s.host.busy = false) (hc : c.check f (acceptGo s) = 0) :
    goLater c act f s = { act (frameBody f) (acceptGo s) with host := { (act (frameBody f) (acceptGo s)).host with
      header := replyHead c.op f.tag 0 s.dev.code } } := by
  simp only [goLater, h, hb, hc]; simp; rfl

/-- The conditions under which every check of a command passes. -/
theorem check_ok (c : CmdRow) (f : Frame) (s : State) (n : Nat) (h1 : f.len = n) (hn : n ≤ 4080) (h2 : f.crcOk = true)
    (h3 : s.dev ∈ c.legal) (h4 : s.parked = false ∨ c.parked = true) (h5 : c.lenOk n = true) (h6 : f.hdrZero = true)
    (h7 : c.zero (frameBody f) = true) (h8 : c.busy s = false) (h9 : c.args (frameBody f) s = true) : c.check f s = 0 := by
  unfold CmdRow.check
  have : ¬ 4080 < n := by omega
  have h3' : (s.parked && !c.parked) = false := by rcases h4 with h3|h3 <;> simp [h3]
  subst h1
  simp [this, h2, h3, h3', h5, h6, h7, h8, h9]

/-! ### Memories (R29, R170, R227, R279) -/

/-- Bytes written at runs keep the canonical form. -/
@[simp] theorem wf_putRuns (rs : List (Nat × Nat)) (bs : List Byte) (m : Memory) (h : Cells.wf 0 m = true) :
    Cells.wf 0 (putRuns m rs bs) = true := by
  induction rs generalizing m bs with
  | nil => exact h
  | cons r rs ih => exact ih _ _ (Cells.wf_puts h)

/-- A write through a port of a core keeps the scratchpad's canonical form. -/
@[simp] theorem wf_writeRuns (now : Nat) (rs : List (Nat × Nat)) (bs : List Byte) (c : Core) (h : Cells.wf 0 c.pad = true) :
    Cells.wf 0 (c.writeRuns now rs bs).pad = true := wf_putRuns rs bs c.pad h

/-- Cistern words written keep the canonical form. -/
@[simp] theorem wf_writeCistern (ws : List (Nat × Word)) (m : Cells 32) (h : Cells.wf 0 m = true) :
    Cells.wf 0 (writeCistern m ws) = true := by
  induction ws with
  | nil => exact h
  | cons x xs ih => exact Cells.wf_put ih

/-- A work list written keeps the canonical form. -/
@[simp] theorem wf_writeList (base idx : Nat) (es : List (Fin 256)) (seqs : Vector Seq 256) (m : Memory) (h : Cells.wf 0 m = true) :
    Cells.wf 0 (writeList base idx es seqs m) = true := by
  have key : ∀ (f : Fin 256 × Nat → Nat) (bs : Fin 256 × Nat → List Byte) (l : List (Fin 256 × Nat)) (m : Memory),
      Cells.wf 0 m = true → Cells.wf 0 (l.foldl (fun m x => Cells.puts 0 m (f x) (bs x)) m) = true := by
    intro f bs l
    induction l with
    | nil => exact fun _ h => h
    | cons x l ih => exact fun m h => ih _ (Cells.wf_puts h)
  unfold writeList
  generalize List.replicate (32 * (64 - es.length)) (0 : Byte) = z
  generalize natLE 4 idx ++ natLE 4 es.length ++ List.replicate 56 (0 : Byte) = y
  exact Cells.wf_puts (key (fun x => base + 0x40 + 32 * x.2) (fun x => (seqs[x.1]).position x.1) _ _ (Cells.wf_puts h))

/-- DRAM after a start without self-refresh: canonical, free where it was written, and as unwritten elsewhere (log entry 5). -/
theorem lostDram_get (free : Nat) (m : Memory) (h : Cells.wf 0 m = true) :
    Cells.wf 0 (lostDram free m) = true ∧
    ∀ a, Cells.get 0 (lostDram free m) a = if Cells.get 0 m a = 0 then 0 else Config.freeByte (free + a) :=
  ⟨Cells.wf_refill (fun a => Config.freeByte (free + a)) h, Cells.get_refill (fun a => Config.freeByte (free + a)) h⟩

/-! ### Entries (R185, R532) -/

/-- What the issue of a core's entry can come to: nothing; the MANIFEST event of an entry on the core of another job; the MANIFEST
event of an entry that breaks its rule, which has left its context; its run. -/
theorem issueEntry_cases (u : UnitIdx) (op : Nat) (e : Entry) (chk : State → Ready) (run : Work → State → State) (s : State) :
    issueEntry u op e chk run s = s ∨
    ∃ s1, (toEntry u op e s).map (takeOver u op e) = some s1 ∧
      ((s1.mayIssue u op e = false ∧ ∃ k, s1.intruder u op e = some k ∧ issueEntry u op e chk run s = manifestEvent k s1) ∨
       (s1.mayIssue u op e = true ∧ chk s1 = .bad ∧
          issueEntry u op e chk run s = manifestAt u (s1.workOf u op e) (popNext u op e s1)) ∨
       (s1.mayIssue u op e = true ∧ chk s1 = .go ∧ issueEntry u op e chk run s = run (s1.workOf u op e) (popNext u op e s1))) := by
  unfold issueEntry
  split
  · exact .inl rfl
  · rename_i s1 h
    cases hm : s1.mayIssue u op e
    · cases hi : s1.intruder u op e with
      | none => simp
      | some k => exact .inr ⟨s1, h, .inl ⟨hm, k, hi, by simp⟩⟩
    · cases hc : chk s1 with
      | hold c => simp
      | bad => exact .inr ⟨s1, h, .inr (.inl ⟨hm, hc, by simp⟩)⟩
      | go => exact .inr ⟨s1, h, .inr (.inr ⟨hm, hc, by simp⟩)⟩

/-- What the issue of a channel's entry can come to: nothing; the MANIFEST event of one in another job's lot; its run in its cycle,
the channel no longer holding. -/
theorem issueChan_cases (ch : Fin 128) (op : Nat) (e : Entry) (run : Fin 12 → Job → Nat → State → State) (s : State) :
    issueChan ch op e run s = s ∨
    ∃ k j x t, statedFirst ((s.chanHeads ch).filter fun x => x.2.2.1 == op && x.2.2.2.1 == e) = some (k, j, x) ∧
      (reachGrid (chanStated j x + s.chans[ch].slip) s).map (serveSlot ch) = some t ∧
      ((t.chanWaits ch k (chanStated j x) = true ∧ issueChan ch op e run s = manifestEvent k t) ∨
       (t.chanWaits ch k (chanStated j x) = false ∧ t.chanReady ch k j x.2.2 op e = true ∧
          issueChan ch op e run s = run k j x.2.2 (modChan ch (fun c => { c.issues j.id with holding := false, permitted := false }) t))) := by
  unfold issueChan
  split
  · exact .inl rfl
  · rename_i k j x hx
    simp only
    split
    · exact .inl rfl
    · rename_i t ht
      split
      · exact .inl rfl
      · split
        · rename_i hw
          split
          · exact .inr ⟨k, j, x, serveSlot ch t, hx, by rw [ht]; rfl, .inl ⟨hw, rfl⟩⟩
          · exact .inl rfl
        · rename_i hw
          split
          · exact .inl rfl
          · rename_i hr
            refine .inr ⟨k, j, x, serveSlot ch t, hx, by rw [ht]; rfl, .inr ⟨by simpa using hw, by simpa using hr, rfl⟩⟩

/-! ### Monitor lines (R495 to R498) -/

/-- What a line with its command can come to: ignored, an ERR line, or its action. -/
theorem monLine_cases (r : MonRow) (l : List (Option Nat)) (act : List Nat → State → State) (s : State) :
    (s.monTakes = false ∧ monLine r l act s = s) ∨
    (s.monTakes = true ∧ r.check l (countLine s) = 0 ∧ monLine r l act s = act ((numbers l).getD []) (countLine s)) ∨
    (s.monTakes = true ∧ r.check l (countLine s) ≠ 0 ∧ monLine r l act s = say [.err (r.check l (countLine s))] (countLine s)) := by
  unfold monLine
  cases h : s.monTakes
  · simp
  · simp only [Bool.not_true]
    split
    · simp_all
    · refine .inr ?_
      split
      · rename_i h0; exact .inl ⟨trivial, h0, rfl⟩
      · rename_i c h0; exact .inr ⟨trivial, fun h1 => h0 (h1), rfl⟩

/-! ### DSP instructions (R337 to R342) -/

/-- A DSP that does not run, or whose next word is another, does not carry the instruction out. -/
theorem issue_not_next (w : Word) (control store : Bool) (f : State → State) (s : State)
    (h : s.dsp.run ≠ .running ∨ s.dsp.fetched ≠ w) : issue w control store f s = s := by simp [issue, h]

end Sys2Proof.Machine
end

