-- ==== Sys2Proof/WellFormed.lean ====
section
/-! DEFINITION. Which terms of Instr stand for something that can reach the block: the checks on a command's operands, each with its
name. The machine gives every term a meaning; an ill-formed one stands for no command. -/

namespace Sys2Proof

/-- The checks on operands, named by what breaks them. -/
inductive Flaw where
  /-- A command frame whose payload is not its LEN bytes (R462), at most the 4,080 of the buffer. -/
  | frame
  /-- UNKNOWN_OPCODE with an OPCODE of R468. -/
  | knownOpcode
  /-- CMD53: a read with data, or a byte-mode write whose data is not its count (R456). -/
  | cmd53Data
  /-- An I/O abort of function 0 (R457). -/
  | abortFunction
  /-- A register address that is no multiple of 4 (R12). -/
  | address
  /-- A set of readings that is not one per sensor or channel (R207, R425). -/
  | readings
  /-- An entry whose CYCLE, WORDS or BEAT does not fit its header (R45). -/
  | entry
  /-- A scratchpad error that SEC-DED does not find so: no corrected word, or a double error of other than two bits (R406). -/
  | upset
  /-- An upset of a tile that names no element of it or flips nothing (R75, R389). -/
  | tileUpset
  /-- A read-out of no blocks (R242). -/
  | blocks
  /-- Symbol errors outside a code word, of no flip, or twice on one symbol (R197). -/
  | symbols
  /-- A packet longer than its word count can say, or a frame shorter than an Ethernet header (R303, R306). -/
  | packet
  /-- A field of an 802.1AS message out of its range (R324). -/
  | time
  /-- A list of extents or cores that names one twice, or extents of a training that failed (R226, R398). -/
  | repeats
  /-- A hold of no cause that R54 lists. -/
  | cause
  /-- A monitor line of more than 128 characters (R495), whatever its arguments are. -/
  | line
  deriving DecidableEq, Repr

/-- The first check that fails. -/
def needs : List (Bool × Flaw) → Option Flaw
  | [] => none
  | (ok, f) :: rest => if ok then needs rest else some f

/-- The payload is what LEN says, as far as the buffer holds it (R460, R462). -/
def Frame.wf (f : Frame) : Bool := decide (f.len < 65536) && f.payload.length == min f.len 4080

/-- CYCLE, WORDS and BEAT fit the header of R45. -/
def Entry.wf (e : Entry) : Bool := decide (e.cycle < 250000 ∧ e.words.length < 256 ∧ e.beat < 2 ^ 17)

/-- The number of ones. -/
def ones (q : Quad) : Nat := ((List.range 64).filter fun i => q.getLsbD i).length

/-- What SEC-DED can find on the reads of a step (R406). -/
def SramUpset.wf : SramUpset → Bool
  | .none => true
  | .corrected n => n != 0
  | .double a flip => a % 8 == 0 && ones flip == 2

/-- No element stands twice. -/
def noRepeats : List Nat → Bool
  | [] => true
  | x :: xs => !xs.contains x && noRepeats xs

/-- Errors on distinct symbols of the 68 of a code word (R197). -/
def symErrsWf (es : List SymErr) : Bool :=
  (es.all fun x => decide (x.symbol < 68) && x.flip != 0) && noRepeats (es.map fun x => x.block * 68 + x.symbol)

/-- Ranges of the header of a PTP message (R324). -/
def SyncMsg.wf (m : SyncMsg) : Bool := decide (m.domain < 256 ∧ m.seq < 65536 ∧ -128 ≤ m.logInt ∧ m.logInt ≤ 127)

/-- The data of a CMD53 (R456): none of a read, as many bytes as a byte-mode write counts. -/
def cmd53Data (write block : Bool) (count : Nat) (data : List Byte) : Bool :=
  if !write then data.isEmpty else block || data.length == (if count = 0 then 512 else count)

/-- The opcodes of R468. -/
def opcodes : List Nat :=
  [0x0001, 0x0002, 0x0003, 0x0004, 0x0005, 0x0006, 0x0010, 0x0011, 0x0012, 0x0013, 0x0014, 0x0020, 0x0021, 0x0022, 0x0023, 0x0024, 0x0030, 0x0031, 0x0032, 0x0033, 0x0040, 0x0041, 0x0050]

/-- The check that the operands of a command fail. -/
def Instr.flaw : Instr → Option Flaw
  | .statusCmd f | .readReg f | .writeReg f | .resetCmd f | .journalRead f | .certRead f | .memWrite f | .memRead f |
    .storeWrite f | .load f | .park f | .admitJob f | .jobStop f | .jobShares f | .radioAdmit f | .dspMsg f | .seqOpen f | .seqFeed
    f | .seqClose f | .seqRebind f | .flashWrite f | .flashVerify f | .attest f => needs [(f.wf, .frame)]
  | .engLoadCb _ e | .vecCistern _ e | .basinDef _ e | .basinPop _ e | .basinFree _ e | .bankSleep _ e | .bankWake _ e | .seqPut
    _ e | .seqMark _ e | .chRead _ e | .chWrite _ e | .chRefresh _ e | .chRetry _ e => needs [(e.wf, .entry)]
  | .rr l | .wr l | .mr l | .sr l | .sw l | .log l | .jr l | .fw l => needs [(decide (l.length ≤ 63), .line)]
  | .cmd53 write block _ _ _ count data => needs [(cmd53Data write block count.toNat data, .cmd53Data)]
  | .ioAbortAs fn => needs [(fn != 0, .abortFunction)]
  | .unknownOpcode op f => needs [(!opcodes.contains op.toNat, .knownOpcode), (f.wf, .frame)]
  | .registerWrite a _ => needs [(a.toNat % 4 == 0, .address)]
  | .latchingRead a => needs [(a.toNat % 4 == 0, .address)]
  | .mr4Read ops => needs [(ops.length == 64 || ops.length == 128, .readings)]
  | .tjSample rs => needs [(rs.length == 36, .readings)]
  | .engPass _ e up => needs [(e.wf, .entry), (up.wf, .upset)]
  | .passComplete _ up => needs [(up.all fun x => decide (x.1 < 1024) && x.2 != 0, .tileUpset)]
  | .vecCascade _ e up => needs [(e.wf, .entry), (up.wf, .upset)]
  | .vecInsn _ e up => needs [(e.wf, .entry), (up.wf, .upset)]
  | .rillOutReadout _ _ _ blocks up => needs [(blocks != 0, .blocks), (up.wf, .upset)]
  | .eccCheckDone _ _ errs => needs [(symErrsWf errs, .symbols)]
  | .patrolScrub _ errs => needs [(symErrsWf errs, .symbols)]
  | .longPacket _ _ _ _ _ bs => needs [(decide (bs.length < 65536), .packet)]
  | .ethernetFrame _ _ bs => needs [(decide (14 ≤ bs.length), .packet)]
  | .sync _ m => needs [(m.wf, .time)]
  | .followUp _ m => needs [(m.wf, .time)]
  | .pdelayReq _ d => needs [(decide (d < 256), .time)]
  | .pdelayResp _ d q => needs [(decide (d < 256 ∧ q < 65536), .time)]
  | .pdelayRespFollowUp _ d q _ => needs [(decide (d < 256 ∧ q < 65536), .time)]
  | .announce _ m => needs [(decide (m.domain < 256), .time)]
  | .signaling _ d => needs [(decide (d < 256), .time)]
  | .dramTrainingDone ok bad => needs [(noRepeats (bad.map (·.1)) && (ok || bad.isEmpty), .repeats)]
  | .selfTestDone dirty => needs [(noRepeats (dirty.map (·.1)), .repeats)]
  | .entryHold _ cause => needs [(decide (1 ≤ cause.toNat ∧ cause.toNat ≤ 6), .cause)]
  | .cmd0 | .cmd3 | .cmd5 | .cmd7 _ | .cmd11 | .cmd15 _ | .cmd19 | .cmd52 _ _ _ _ | .ioAbortRes | .streamPortRead | .goIgnored |
    .commandReply | .rillBlockReset _ | .rillResetDone _ | .coreBlockReset _ | .coreResetDone | .fuseProgram _ _ | .fuseRevoke _
    _ | .fuseRaise _ _ | .fuseOperationDone _ | .ctlStrictWrite _ | .contextEnable _ _ | .contextDisable _ _ | .dspRun |
    .dspStop | .iqCfgWrite _ | .txArm _ _ _ | .txCancel _ | .beatBoundary | .zqCalibration | .ownerChangeWake | .energyDecision
    | .fastCurrentLimit | .throttleQuietEnd | .supplyOutOfRange _ | .hotSwapTrip | .coldPlateCut | .coldPlateRestore |
    .proofTileSlot _ | .goldenTileDone _ _ _ _ | .rerunOutcome _ | .weirVerdict _ | .hopParity _ | .engineDrainDone _ |
    .vecEntryCommit _ | .vadd _ _ _ | .vsub _ _ _ | .vmul _ _ _ | .vdiv _ _ _ | .vmax _ _ _ | .vmin _ _ _ | .vrelu _ _ _ | .vcvt
    _ _ _ | .vfunc _ _ _ | .vquant _ _ _ | .vbcast _ _ _ | .vldt _ _ _ | .vldb _ _ _ | .vstb _ _ _ | .vldc _ _ _ | .vstc _ _ _ |
    .vrelt _ _ _ | .vredmax _ _ _ | .vredsum _ _ _ | .vhad _ _ _ | .bankWakeDone _ _ | .contextFetch _ _ | .rillIn _ _ |
    .rillOut _ _ | .rillNop _ _ | .completionArrival _ _ | .basinLanding _ | .rillRetire _ _ | .descriptorFetch _ _ |
    .fetchLanded _ | .arbRequest _ | .arbiterGrant _ | .rillTimeout _ _ | .controllerRetry _ | .controllerRefresh _ |
    .loadRecordDone _ | .ufsError _ | .frameStart _ _ _ _ | .frameEnd _ _ _ | .frameDigestDone _ | .frameComplete _ |
    .frameTimeout _ | .pdelayReqTimer | .syncReceiptTimeout | .announceReceiptTimeout _ | .cmac _ | .cmacj _ | .cmul _ | .mac2 _
    | .sqmag _ | .adda _ | .suba _ | .shra _ | .shla _ | .clra _ | .movda _ | .movs _ | .movsd _ | .ld _ | .st _ | .str _ | .br
    _ | .brneg _ _ | .call _ | .ret | .reti | .loop _ _ | .setag _ _ | .setm _ _ _ | .setl _ _ | .di | .ei | .wait _ | .halt |
    .illegalInstruction _ | .dspInterrupt | .iqRxSample _ _ | .iqTxSample _ | .txArmDecision _ | .paRampStep _ | .iqPllLock |
    .rclkLockChange _ | .train _ | .header _ | .endSlot _ | .classic _ | .decode _ | .bridgeCopyDone _ | .phaseStart _ |
    .phaseComplete _ | .phaseDeadline _ | .radioExit _ _ | .classicLate _ | .decodeDone _ | .dspMessagePoll | .powerOn |
    .powerGood | .mrstAssert | .mrstRelease | .resetGlitch | .prsntAssert | .prsntRelease | .removalPowerOn | .watchdogTimeout |
    .bootTimeout | .resetRequestTimer | .watchdogRelease | .lockstepMismatch | .lockstepReset | .clockFault | .refclkLoss |
    .refclkReturn | .pllLockTimeout | .resetRelease _ | .bootInterval | .enterReady | .backupSupplyLoss | .mainInputReturn |
    .journalProgramDone | .journalEraseDone | .bootFlashDone | .beatEnergy _ | .blockLockChange _ _ | .monitorSt | .fwDataByte _
    | .fwDataTimeout | .fv | .monitorReset | .lineTooLong | .uartBreak | .uartFramingError | .unknownCommandWord => none

/-- A command whose operands pass every check. -/
def Instr.wf (i : Instr) : Bool := i.flaw.isNone

end Sys2Proof
end

