-- ==== Sys2Proof/Tests/Slice0.lean ====
section
/-! SUPPORT. Tests: the checks of WellFormed each refuse a term; single commands on small states against the spec's words and worked
values; for the hypotheses of every statement, a state and operands that meet them. -/

open Sys2Proof Sys2Proof.Machine

set_option Elab.async false

namespace Sys2Proof.Tests

/-! ### Small states -/

/-- Cycle c of beat b. -/
def at_ (b c : Nat) : Clock := { raw := 300000 + 250000 * b + c, running := true, beat := b, cyc := c }

/-- A device in READY, in cycle 1,000 of beat 90, which is beat 10 of frame 1, with every domain on and the card selected. -/
def ready : State :=
  { State.reset with
    rst := { episode := none }
    dev := .ready
    clk := at_ 90 1000
    dom := { core := 0xFFFFFFFFFFFFFFFF, fabric := 0xFF, uncore := 3, phy := 15, hub := 0x7F }
    pins := { sdio := true, ether := true, iq := true, uart := true, csi := true }
    card := { init := true, rca := 1, selected := true, ioe1 := true, ioe2 := true } }

/-- A frame of n payload bytes that passes the checks before the arguments. -/
def frame (bs : List Byte) : Frame := { tag := 7, len := bs.length, hdrZero := true, crcOk := true, payload := bs }

/-- Payload words. -/
def words (ws : List Nat) : List Byte := ws.flatMap fun w => natLE 4 w

/-! ### WellFormed -/

theorem test_wf_frame : (Instr.memRead { frame [1, 2] with len := 3 }).flaw = some .frame := by decide
theorem test_wf_knownOpcode : (Instr.unknownOpcode 0x14 (frame [])).flaw = some .knownOpcode := by decide
theorem test_wf_cmd53Data : (Instr.cmd53 true false true 1 0 2 [5]).flaw = some .cmd53Data := by decide
theorem test_wf_abortFunction : (Instr.ioAbortAs 0).flaw = some .abortFunction := by decide
theorem test_wf_address : (Instr.registerWrite 0xF000000102 0).flaw = some .address := by decide
theorem test_wf_readings : (Instr.tjSample [0]).flaw = some .readings := by decide
theorem test_wf_entry : (Instr.bankWake 0 { beat := 0, cycle := 250000, words := [] }).flaw = some .entry := by decide
theorem test_wf_upset : (Instr.rillOutReadout 0 0 0 1 (.double 8 1)).flaw = some .upset := by decide
theorem test_wf_tileUpset : (Instr.passComplete 0 [(1024, 1)]).flaw = some .tileUpset := by decide
theorem test_wf_blocks : (Instr.rillOutReadout 0 0 0 0 .none).flaw = some .blocks := by decide
theorem test_wf_symbols : (Instr.patrolScrub 0 [{ block := 0, symbol := 68, flip := 1 }]).flaw = some .symbols := by decide
theorem test_wf_packet : (Instr.ethernetFrame 0 true [0]).flaw = some .packet := by decide
theorem test_wf_time : (Instr.pdelayResp 0 0 65536).flaw = some .time := by decide
theorem test_wf_repeats : (Instr.selfTestDone [3, 3]).flaw = some .repeats := by decide
theorem test_wf_cause : (Instr.entryHold (.chan 0) 0).flaw = some .cause := by decide
theorem test_wf_line : (Instr.rr (List.replicate 64 none)).flaw = some .line := by decide
theorem test_wf_taken : (Instr.cmd53 true false true 1 0 2 [5, 6]).wf = true := by decide

/-! ### States and operands that meet the hypotheses of the statements -/

theorem witness_idleStepTicks : ready.pending = [] ∧ State.reset.rst.episode ≠ none ∧ State.reset.pending = [] ∧
    ready.rst.episode = none ∧ ({ ready with clk := {} } : State).clk.running = false ∧ ready.clk.running = true ∧
    ({ ready with clk := at_ 81 249998 } : State).clk.cyc < 249999 ∧ ({ ready with clk := at_ 81 249999 } : State).clk.cyc = 249999 ∧
    ready.settled = true ∧ ({ ready with clk := {} } : State).settled = true ∧ ready.jobs.once = [] := by
  decide +kernel

/-- The device in READY is sound, whatever commands wait. -/
theorem ready_isSound : ready.Sound := by
  refine ⟨by decide, ⟨by decide, by decide, ?_, ?_⟩, ?_⟩
  · intro k h e; cases e
  · intro v e; cases e
  · refine ⟨by decide, by decide, by decide, by decide, by decide, by decide, by decide, by decide, by decide, by decide,
      by decide, by decide, fun u => ⟨?_, ?_, ?_, ?_⟩⟩ <;> simp [ready, State.reset] <;> decide

theorem ready_sound (q : List Instr) : ({ ready with pending := q } : State).Sound := ready_isSound

theorem witness_everyStepKeepsSoundness :
    ({ ready with pending := [.rclkLockChange true] } : State).Sound ∧
    ∃ t, step { ready with pending := [.rclkLockChange true] } = .next t := ⟨ready_sound _, _, rfl⟩

theorem witness_noStepUndoesAFuse :
    ({ ready with pending := [.powerOn] } : State).Sound ∧ ∃ t, step { ready with pending := [.powerOn] } = .next t :=
  ⟨ready_sound _, _, rfl⟩

/-! The card -/

theorem witness_cardCommands : ready.pins.sdio = true ∧ ready.card.inactive = false ∧ ready.cardOn = true ∧ ready.card.init = true ∧
    ({ ready with card := { ready.card with selected := false } } : State).card.selected = false ∧
    ready.card.rca ≠ 0 ∧ ready.card.selected = true ∧
    (∀ b : BitVec 3, b = 2 ∨ b = 3 → ({ ready with card := { ready.card with v18 := true, bss := b } } : State).card.v18 = true) ∧
    ready.cardBusy = true := by decide

theorem witness_cardByteAccess : ready.cardBusy = true ∧ Memory.wf 0 ready.host.cmdBuf = true ∧
    (2 : Byte).toNat * 256 + ready.card.blk1.toNat % 256 ≤ 512 ∧ 512 < (3 : Byte).toNat * 256 + ready.card.blk1.toNat % 256 ∧
    (0x14 : BitVec 17) ∈ [(0x00 : BitVec 17), 0x01, 0x03, 0x05, 0x12, 0x14] ∧ (4095 : BitVec 17).toNat < 4096 ∧
    (511 : BitVec 9) ≠ 0 ∧ (List.replicate 511 (1 : Byte)).length = (511 : BitVec 9).toNat ∧
    (3585 : BitVec 17).toNat + (511 : BitVec 9).toNat ≤ 4096 := by decide +kernel

theorem witness_streamPortTakesOneByte : ready.cardBusy = true ∧ ready.ior2 = true ∧ ready.host.stream = [] ∧
    ({ ready with host := { ready.host with stream := [[5], [6]] } } : State).host.stream = [5] :: [[6]] ∧
    ({ ready with host := { ready.host with stream := [[5, 6]] } } : State).host.stream = (5 :: 6 :: []) :: [] := by decide

/-! The mailbox -/

/-- READY with a flash operation in progress. -/
def flashing : State := { ready with boot := { ready.boot with flashOp := some { forHost := true, isCheck := true } } }

/-- FLASH_WRITE of one byte into the first block. -/
def oneByte : Frame := frame (words [0, 1])

theorem witness_mailboxRefusalOrder :
    (Instr.flashWrite, flashWriteRow) ∈ mailboxRows ∧ ready.mailboxOn = true ∧ ready.host.busy = false ∧
    ({ ready with host := { ready.host with busy := true } } : State).host.busy = true ∧
    -- 0x13 by length, 0x12, 0x10, 0x13 by another length, 0x14 by the header, 0x15, 0x14 by an argument
    4080 < ({ oneByte with len := 4081 } : Frame).len ∧ ({ oneByte with crcOk := false } : Frame).crcOk = false ∧
    DevState.running ∉ flashWriteRow.legal ∧ oneByte.len ≤ 4080 ∧ oneByte.crcOk = true ∧ ready.dev ∈ flashWriteRow.legal ∧
    ready.parked = false ∧ flashWriteRow.lenOk 9 = false ∧ flashWriteRow.lenOk oneByte.len = true ∧
    (({ oneByte with hdrZero := false } : Frame).hdrZero && flashWriteRow.zero (frameBody oneByte)) = false ∧
    (oneByte.hdrZero && flashWriteRow.zero (frameBody oneByte)) = true ∧ flashWriteRow.busy flashing = true ∧
    flashWriteRow.busy ready = false ∧ flashWriteRow.args (frameBody (frame (words [0, 0]))) ready = false ∧
    ({ ready with mem := { ready.mem with parkValid := true } } : State).parked = true ∧ flashWriteRow.parked = false := by
  refine ⟨by simp [mailboxRows], ?_⟩
  decide

theorem witness_unknownOpcodeAndIgnoredGo :
    ready.mailboxOn = true ∧ ({ ready with host := { ready.host with busy := true } } : State).host.busy = true ∧
    ready.host.busy = false ∧ (0x15 : BitVec 16).toNat ∉ knownOps ∧
    ({ ready with host := { ready.host with reply := some [4, 0, 0, 0] } } : State).host.reply = some [4, 0, 0, 0] ∧
    Memory.wf 0 ready.host.replyBuf = true := by decide

/-- The conditions of Takes on the device in READY. -/
theorem ready_takes {l : List DevState} {n : Nat} {f : Frame} (h : .ready ∈ l) (hf : f.crcOk = true ∧ f.hdrZero = true ∧ f.len = n) :
    Takes l n f ready := ⟨rfl, rfl, h, rfl, hf.1, hf.2.1, hf.2.2⟩

theorem witness_mailboxReadsAndRegisters :
    TakesParked allStates 0 (frame []) ready ∧
    -- the last 1,020 words of the register space, the last word, the first word
    TakesParked allStates 8 (frame (words [0xFFFFF010, 0x3FCFF])) ready ∧
    (let b := frameBody (frame (words [0xFFFFF010, 0x3FCFF]))
     bits (wordOf b 1) 31 18 = 0 ∧ bits (wordOf b 1) 17 8 = 1020 ∧ 0xF000000000 ≤ payAddr b 0 ∧ payAddr b 0 + 4 * 1020 ≤ 2 ^ 40) ∧
    Takes notBooting 12 (frame (words [0, 0xF0, 5])) ready ∧
    (let b := frameBody (frame (words [0, 0xF0, 5]))
     bits (wordOf b 1) 31 8 = 0 ∧ 0xF000000000 ≤ payAddr b 0 ∧ payAddr b 0 + 4 ≤ 2 ^ 40) ∧
    TakesParked notBooting 8 (frame (words [0, 63])) ready ∧ wordOf (frameBody (frame (words [0, 63]))) 1 = 63 ∧
    TakesParked notBooting 8 (frame (words [61456, 4080])) ready ∧
    (let b := frameBody (frame (words [61456, 4080]))
     wordOf b 1 = 4080 ∧ wordOf b 0 + 4080 ≤ 65536) ∧
    Takes [.ready, .running, .degraded, .safeStop] 32 (frame (List.replicate 32 9)) ready := by
  unfold Takes TakesParked
  decide

theorem witness_mailboxMovesMemory :
    Memory.wf 0 ready.mem.dram = true ∧ Memory.wf 0 ready.host.window = true ∧ (∀ i : Fin 2, Memory.wf 0 ready.mem.store[i] = true) ∧
    (let f := frame (words [0xC0, 0, 65536])
     let b := frameBody f
     payAddr b 0 = 192 ∧ wordOf b 2 = 65536 ∧ bits (wordOf b 1) 31 8 = 0 ∧ 192 + 65536 ≤ ready.part.dramBytes ∧ Takes workStates 12 f ready ∧
     ready.memHeld 192 65536 = false ∧ Takes [.ready, .running, .degraded, .safeStop] 12 f ready) ∧
    (let f := frame (words [1, 0, 0, 4096])
     let w := frameBody f
     Takes [.ready] 16 f ready ∧ wordOf w 0 < 2 ∧ wordOf w 3 = 4096 ∧ wordOf w 1 + 2 ^ 32 * wordOf w 2 = 0 ∧ ready.mem.loadState ≠ 1) ∧
    0 + 4096 / 4096 ≤ Config.storeBlocks 1 := by
  refine ⟨by decide, by decide, by decide, ?_, ?_, ?_⟩
  · unfold Takes; decide +kernel
  · unfold Takes; decide
  · unfold Config.storeBlocks; omega

/-- A load record of one zero-filled 4 KiB page at 0. -/
def zeroPage : List Byte := words [1, 0, 0, 0, 0, 4096, 0, 0]

theorem witness_loadAndPark :
    (let s : State := { ready with host := { ready.host with window := Cells.puts 0 [] 0 zeroPage } }
     let f := frame (words [1])
     Takes workStates 4 f s ∧ s.mem.loadState ≠ 1 ∧ wordOf (frameBody f) 0 = 1 ∧
     loadCause s (parseLoads 1 (Cells.gets 0 s.host.window 0 32)) = 0) ∧
    (let f := frame (words [512])
     Takes workStates 4 f ready ∧ wordOf (frameBody f) 0 = 512 ∧
     loadCause ready (parseLoads 512 (Cells.gets 0 ready.host.window 0 (32 * 512))) ≠ 0) ∧
    Takes [.ready] 0 (frame []) ready ∧ ready.canPark = true := by
  unfold Takes
  refine ⟨by decide +kernel, ?_, by decide⟩
  refine ⟨by decide, by decide, ?_⟩
  decide +kernel

/-- A manifest of class SERVICE for FRAME_BEATS 8, with one cluster and an empty timetable. Its WEIGHTS_DIGEST is SHA3-256 of no bytes, as
FIPS 202 gives it. -/
def manifest : List Byte :=
  words [0x4B4D4E46, 0x00010001, 0xA1, 0x00050008, 0, 0x00000101, 0, 0, 0, 5, 116, 0] ++
  words [0x6CE3A3DB, 0x09755AFB, 0xCD3175B3, 0x79C240A8, 0x764C57FA, 0x722B5CE9, 0x6EE804A9, 0x93C7E6BF] ++
  words [0xF8C6FFA7, 0x66D71EBF, 0x5647C151, 0x62D661A0, 0x4DFF80F5, 0xFA493BE4, 0x4B0AD882, 0x4A43F880] ++
  words [0, 0, 0, 0, 1, 0xD0, 0, 0, 4, 0xD0, 0, 0, 5, 0xD0, 0, 4, 8, 0xD4, 0, 32, 9, 0xF4, 0, 0] ++ words [0, 0, 0, 0, 0, 0, 0, 0, 0]

/-- The device in READY with frames of 8 beats and the manifest at DRAM address 0. -/
def admitting : State :=
  { ready with cfg := { ready.cfg with frameBeats := 8 }, mem := { ready.mem with dram := Cells.puts 0 [] 0 manifest } }

theorem witness_admitPlacesAJob_code : (admitting.readMan 0).code (replyCycle admitting.begun).published = 0 := by decide +kernel

theorem witness_admitPlacesAJob :
    (let f := frame (words [0, 0, 0, 0, 0])
     let b := frameBody f
     Takes workStates 20 f admitting ∧ bits (wordOf b 1) 31 9 = 0 ∧ bits (wordOf b 3) 31 8 = 0 ∧ payAddr b 0 = 0 ∧ payAddr b 2 = 0 ∧ wordOf b 4 = 0 ∧
     0 + 0x80 ≤ admitting.part.dramBytes ∧ admitting.resultOk 0 0 0 = true) ∧
    (replyCycle admitting.begun).published.job 0 = none ∧ (∀ i < (0 : Fin 12), (replyCycle admitting.begun).published.job i ≠ none) ∧
    Memory.wf 0 admitting.host.replyBuf = true := by
  unfold Takes
  refine ⟨by decide +kernel, by decide +kernel, by decide, by decide⟩

/-- A radio manifest of engine 0 with phases of 1,024 cycles, no entry and no extent. -/
def radioManifest : List Byte :=
  words [0x4B524D46, 1, 0xA1, 1024, 1024, 0, 0, 0, 0, 2, 32, 0] ++
  words [0xF943ABC9, 0x528C75D6, 0x79FE3CEE, 0x91172C3F, 0x73779235, 0xF7731CE5, 0x02A1BACE, 0xD6F0E7B5] ++
  words [0xF8C6FFA7, 0x66D71EBF, 0x5647C151, 0x62D661A0, 0x4DFF80F5, 0xFA493BE4, 0x4B0AD882, 0x4A43F880] ++
  words [0, 0, 0, 0, 1, 0xA0, 0, 0, 9, 0xA0, 0, 0]

/-- The device in READY with pair 0 in HAWSER mode and the radio manifest at DRAM address 0. -/
def tuning : State :=
  { ready with
    iq := { ready.iq with pairs := modV ready.iq.pairs 0 fun p => { p with mode := 1 } }
    mem := { ready.mem with dram := Cells.puts 0 [] 0 radioManifest } }

theorem witness_radioAdmitTakesAManifest_code : (tuning.readMan 0).radioCode tuning.published = 0 := by decide +kernel

theorem witness_radioAdmitTakesAManifest :
    (let f := frame (words [0, 0])
     let b := frameBody f
     Takes workStates 8 f tuning ∧ bits (wordOf b 1) 31 8 = 0 ∧ payAddr b 0 = 0 ∧ 0 + 0x80 ≤ tuning.part.dramBytes) ∧
    Memory.wf 0 tuning.host.replyBuf = true ∧ (ready.readMan 0).radioCode ready.published ≠ 0 := by
  unfold Takes
  refine ⟨by decide, by decide, by decide +kernel⟩

/-- A SERVICE job in slot 0, with JOB_ID 1, that runs from beat 80 on; its period is one frame. -/
def service : Job :=
  { id := 1, hdr := { (admitting.readMan 0).hdr with frameBeats := 80, periodFrames := 1, completeBeat := 70 }, base := 0, ctx := 4, image := 0
    startBeat := 80, extents := [], streams := [], lots := [], beatMap := [], energy := [], resBase := 0, resLen := 0, prov := false }

/-- A SAFETY job whose window is beats 2 to 5 of every frame. -/
def safety : Job := { service with id := 2, hdr := { service.hdr with cls := 0, clusters := 8, windowFirst := 2, windowBeats := 4 }, ctx := 0 }

/-- A device in RUNNING with those jobs. -/
def withJobs (l : List (Fin 12 × Job)) : State :=
  { ready with dev := .running, jobs := { ready.jobs with slots := l.foldl (fun v x => setV v x.1 (some x.2)) ready.jobs.slots } }

/-- The service job alone. -/
def running : State := withJobs [(0, service)]

/-- A job with a stop scheduled. -/
def stopping : Job := { service with stop := some { cause := 1, at_ := .boundary } }

theorem witness_jobCommands :
    Takes [.running, .degraded] 4 (frame (words [1])) running ∧ bits (wordOf (frameBody (frame (words [1]))) 0) 31 8 = 0 ∧
    running.slotOf (bits (wordOf (frameBody (frame (words [9]))) 0) 7 0) = none ∧
    running.slotOf (bits (wordOf (frameBody (frame (words [1]))) 0) 7 0) = some 0 ∧ running.job 0 = some service ∧ service.stop = none ∧
    (withJobs [(0, stopping)]).job 0 = some stopping ∧ stopping.stop = some { cause := 1, at_ := .boundary } ∧
    (let f := frame (words [1, 1000, 0])
     Takes [.running, .degraded] 12 f running ∧ bits (wordOf (frameBody f) 0) 31 8 = 0 ∧ bits (wordOf (frameBody f) 0) 7 0 = 1 ∧
     service.hdr.cls ≠ 0 ∧ wordOf (frameBody f) 1 = 1000) := by
  unfold Takes
  decide +kernel

/-- RUNNING with one entry of the sequence table as given. -/
def seqAt (i : Fin 256) (q : Seq) (s : State) : State := modSeq i (fun _ => q) s

/-- The service job with a lane window and with writable storage from address 0 on. -/
def serving : Job := { service with extents :=
  [{ base := 0, len := 983040, ro := false, shared := false, kind := 1, lanes := 1 },
   { base := 0, len := 983040, ro := false, shared := false, kind := 0, lanes := 1 }] }

theorem witness_sequenceCommands :
    (let f := frame (words [1, 5, 100, 0, 0, 0])
     let b := frameBody f
     let s := withJobs [(0, serving)]
     Takes [.running, .degraded] 24 f s ∧ seqOpenRow.zero b = true ∧ (s.jobs.seqs[(0 : Fin 256)]).state = .free ∧
     (∀ x < (0 : Fin 256), (s.jobs.seqs[x]).state ≠ .free) ∧ s.jobOf (bits (wordOf b 0) 7 0) = some serving ∧
     s.cacheOk none (payAddr b 3) (wordOf b 5) serving = true) ∧
    (let f := frame (words [255, 65535])
     let s := seqAt 255 { state := .waiting, job := 1 } running
     Takes [.running, .degraded] 8 f s ∧ wordOf (frameBody f) 0 = 255 ∧ (s.jobs.seqs[(255 : Fin 256)]).state = .waiting ∧
     wordOf (frameBody f) 1 = 65535) ∧
    (let f := frame (words [0])
     let s := seqAt 0 { state := .ready, job := 1 } running
     let l := seqAt 0 { state := .listed, job := 1 } (withJobs [(0, { serving with run := [{ index := 0, list := [0] }] })])
     Takes workStates 4 f s ∧ wordOf (frameBody f) 0 = 0 ∧ (s.jobs.seqs[(0 : Fin 256)]).state ≠ .free ∧
     (s.jobs.seqs[(0 : Fin 256)]).state ≠ .listed ∧ Takes workStates 4 f l ∧ (l.jobs.seqs[(0 : Fin 256)]).state = .listed ∧
     ∃ j p, l.job 0 = some j ∧ j.id = (l.jobs.seqs[(0 : Fin 256)]).job ∧ p ∈ j.run ∧ (0 : Fin 256) ∈ p.list) ∧
    (let f := frame (words [0, 1])
     let s := seqAt 0 { state := .orphaned, kept := .waiting } (withJobs [(0, serving)])
     Takes [.running, .degraded] 8 f s ∧ wordOf (frameBody f) 0 = 0 ∧ bits (wordOf (frameBody f) 1) 31 8 = 0 ∧
     (s.jobs.seqs[(0 : Fin 256)]).state = .orphaned ∧ s.jobOf (bits (wordOf (frameBody f) 1) 7 0) = some serving ∧
     s.cacheOk (some 0) (s.jobs.seqs[(0 : Fin 256)]).kvBase.toNat (s.jobs.seqs[(0 : Fin 256)]).pages.toNat serving = true) := by
  unfold Takes
  refine ⟨by decide +kernel, by decide +kernel, ?_, by decide +kernel⟩
  refine ⟨by decide +kernel, by decide +kernel, by decide +kernel, by decide +kernel, by decide +kernel, by decide +kernel, ?_⟩
  exact ⟨_, _, rfl, by decide, List.mem_singleton.mpr rfl, by decide⟩

theorem witness_dspMessageAndFlash :
    (let f := frame (List.replicate 252 1)
     ready.mailboxOn = true ∧ ready.host.busy = false ∧ ready.dev ∈ workStates ∧ ready.parked = false ∧ f.crcOk = true ∧ f.hdrZero = true ∧ f.len = 252) ∧
    Cells.get 0 ready.dsp.x 0x3EC0 = 0 ∧ Cells.wf 0 ready.dsp.x = true ∧
    (let f := frame (words [0x1000000, 65536])
     Takes [.moored, .ready] 8 f ready ∧ ready.boot.flashOp = none ∧ wordOf (frameBody f) 0 = 0x1000000 ∧ 0x1000000 % 65536 = 0 ∧
     0x1000000 < 0x1010000 ∧ wordOf (frameBody f) 1 = 65536) ∧
    Takes [.moored, .ready] 0 (frame []) ready ∧
    (let s : State := { flashing with
       boot := { flashing.boot with flashOp := some { forHost := true, isCheck := false, offset := 65536, length := 65536 } }
       host := { flashing.host with busy := true, header := [1] } }
     s.boot.flashOp = some { forHost := true, isCheck := false, offset := 65536, length := 65536, data := [] } ∧ s.host.busy = true ∧
     s.host.header ≠ [] ∧ Memory.wf 0xFF s.boot.flash = true) ∧
    (let s : State := { flashing with host := { flashing.host with busy := true, header := [1] } }
     s.boot.flashOp = some { forHost := true, isCheck := true, offset := 0, length := 0, data := [] } ∧ s.host.busy = true ∧ s.host.header ≠ []) := by
  unfold Takes
  refine ⟨by decide +kernel, by decide, by decide, by decide, by decide, by decide, by decide⟩

/-! Registers, fuses, contexts -/

theorem witness_registerAccessAndLatches : ready.rst.episode = none ∧ Cells.wf 0 ready.latch = true ∧
    (90 ≤ (103 : Word).toNat % 256 ∧ (103 : Word).toNat % 256 ≤ 103) ∧ ¬(90 ≤ (89 : Word).toNat % 256 ∧ (89 : Word).toNat % 256 ≤ 103) ∧
    (0xEFFFFFFFFC : BitVec 40).toNat < 0xF000000000 ∧ (0xF000000115 : BitVec 40).toNat % 4 ≠ 0 ∧ State.reset.rst.episode ≠ none ∧
    ready.fresh.1 ≠ ready.clk.raw ∧ (eventBits 0xF020041004).getLsbD 17 = true ∧ (eventBits 0xF060000004).getLsbD 14 = true ∧
    (eventBits 0xF070000008).getLsbD 0 = false := by decide

theorem witness_beatNumberReads : ready.rst.episode = none := by decide

/-- Step 9 of BOOTING. -/
def booting9 : State := { ready with dev := .booting, boot := { ready.boot with step := 9 }, clk := { raw := 300000 } }

theorem witness_strictControl : booting9.booting 9 = true ∧ ready.rst.episode = none ∧ (0 : Word).getLsbD 0 = ready.det.strict ∧
    (1 : Word).getLsbD 0 ≠ ready.det.strict ∧ ready.dev = .ready ∧
    ready.published.jobCount = 0 ∧ ready.det.replyAt ≠ some ready.clk.raw ∧
    (running.dev ≠ .ready ∧ running.published.jobCount ≠ 0 ∧ (1 : Word).getLsbD 0 ≠ running.det.strict) := by decide +kernel

/-- Rill r changed. -/
def rillAt (r : Fin 32) (x : Rill) (s : State) : State := modRill r (fun _ => x) s

theorem witness_blockResets :
    ready.dom.fabric.getLsbD ((31 : Fin 32).1 / 4) = true ∧ ready.rillIdle 31 = true ∧ running.dom.fabric.getLsbD ((0 : Fin 32).1 / 4) = true ∧
    running.rillIdle 0 = false ∧
    (let s := rillAt 31 { resetAt := some 22800968 } ready
     (s.rills[(31 : Fin 32)]).resetAt = some 22800968 ∧ 22800968 + 32 ≤ s.clk.raw ∧ 22800968 ≤ s.clk.raw ∧ s.settled = true) ∧
    (let s := rillAt 31 { resetAt := some 22801000 } ready
     (s.rills[(31 : Fin 32)]).resetAt = some 22801000 ∧ s.clk.cyc + 32 < 250000 ∧ 22801000 ≤ s.clk.raw ∧ s.settled = true) ∧
    ready.rst.episode = none ∧ (settleCore (coreUnit 63) ready).coreIdle 63 = true ∧ (settleCore (coreUnit 0) running).coreIdle 0 = false ∧
    (let s : State := { ready with boot := { ready.boot with coreRst := [(0, 22800700)] } }
     s.boot.coreRst = (0, 22800700) :: [] ∧ 22800700 ≤ s.clk.raw ∧ 22800700 + 300 ≤ s.clk.raw ∧ s.settled = true) := by
  decide +kernel

/-- READY with the security block changed. -/
def fused (f : Security → Security) : State := { ready with sec := f ready.sec }

/-- Two good keys in slots 0 and 1, slots 2 and 3 as manufacture left them, hash words of one. -/
def twoKeys (x : Security) : Security :=
  { x with
    slots := setV (setV x.slots 0 { hash := [1], burnt := true, valid := true }) 1 { hash := [1], burnt := true, valid := true }
    fuseData := Vector.replicate 8 1, runSlot := 0, secVersion := 64, secverMin := 3 }

theorem witness_fuseWrites :
    (fused twoKeys).rst.episode = none ∧ (0x4B47 : BitVec 16) ≠ 0x4B46 ∧ running.dev ≠ .ready ∧ running.rst.episode = none ∧
    (let x := (fused twoKeys).sec
     ¬((fused twoKeys).dev ≠ .ready ∨ (fused twoKeys).published.jobCount ≠ 0 ∨ x.fuseOp ≠ none) ∧
     -- programming slot 3 is allowed, slot 0 refused
     ((x.slots[(3 : Fin 4)]).valid = false ∧ (x.slots[(3 : Fin 4)]).burnt = false ∧ x.fuseData[(0 : Fin 8)] ≠ 0) ∧ (x.slots[(0 : Fin 4)]).valid = true ∧
     -- revoking slot 1 is allowed, slot 0 (which runs) refused
     ((x.slots[(1 : Fin 4)]).valid = true ∧ x.revoked.getLsbD 1 = false ∧ x.runSlot.toNat ≠ 1 ∧ (x.slots[(0 : Fin 4)]).valid = true ∧ x.revoked.getLsbD 0 = false) ∧
     x.runSlot.toNat = 0 ∧
     -- a raise to 4 and to 64 is allowed, to 3 and to 65 refused
     ¬((4 : BitVec 7).toNat ≤ x.secverMin ∨ 64 < (4 : BitVec 7).toNat ∨ x.secVersion.toNat < (4 : BitVec 7).toNat) ∧
     ¬((64 : BitVec 7).toNat ≤ x.secverMin ∨ 64 < (64 : BitVec 7).toNat ∨ x.secVersion.toNat < (64 : BitVec 7).toNat) ∧
     (3 : BitVec 7).toNat ≤ x.secverMin ∧ 64 < (65 : BitVec 7).toNat) ∧
    (fused fun x => { x with fuseOp := some (.program 3 [1]) }).sec.fuseOp = some (.program 3 [1]) ∧
    (fused fun x => { x with fuseOp := some (.revoke 1) }).sec.fuseOp = some (.revoke 1) ∧
    (fused fun x => { x with fuseOp := some (.raise 4) }).sec.fuseOp = some (.raise 4) := by decide

/-- A context that keeps every rule of its chapter. -/
def context : SnsCtx :=
  { dt := 0x2B, slotsM1 := 2, lineUnits := 1, maxLines := 1, pages := 1, rate := 1, tmo := 1, limit := 1, base := 0 }

/-- Context n as given. -/
def ctxAt (n : Fin 24) (c : SnsCtx) (s : State) : State := modCtx n (fun _ => c) s

/-- ENABLE with three slots and the data type 0x2B. -/
def enableWord : Word := 0x00022B01

theorem witness_sensorContextControl :
    ready.hubOn 2 = true ∧ enableWord.getLsbD 0 = true ∧
    ((ctxAt 23 { context with enable := true } ready).sens.ctxs[(23 : Fin 24)]).enable = true ∧
    ((ctxAt 23 context ready).sens.ctxs[(23 : Fin 24)]).enable = false ∧
    (((ctxAt 23 context ready).sens.ctxs[(23 : Fin 24)]).withCfg enableWord).legal 23 (ctxAt 23 context ready) = true ∧
    (ctxAt 23 context ready).mem.parkValid = false ∧ ((ready.sens.ctxs[(0 : Fin 24)]).withCfg enableWord).legal 0 ready = false ∧
    ({ ready with mem := { ready.mem with parkValid := true } } : State).mem.parkValid = true ∧ (0 : Word).getLsbD 0 = false ∧
    (let j : Job := { service with streams := [(23, 0)] }
     (withJobs [(0, j)]).published.job 0 = some j ∧ (23, 0) ∈ j.streams ∧ (ctxAt 23 { context with enable := true } (withJobs [(0, j)])).hubOn 2 = true) ∧
    (∀ k, (ctxAt 23 { context with enable := true } ready).published.job k = none) := by
  decide +kernel

theorem witness_dspAndIqControl :
    ({ ready with dom := { ready.dom with hub := 3 } } : State).hubOn 4 = false ∧ ready.hubOn 4 = true ∧ ready.dsp.run = .stopped ∧
    -- RATE 0 with a mode of RATE 1, and RATE 2 with modes 1 and 2
    ¬(bits (0x10 : Word).toNat 5 4 = 0 ∨ bits (0x10 : Word).toNat 5 4 = 3) ∧ bits (0x10 : Word).toNat 1 0 = 0 ∧ bits (0x10 : Word).toNat 5 4 = 1 ∧
    (bits (0x92 : Word).toNat 1 0 = 2 ∧ bits (0x92 : Word).toNat 5 4 = 1 ∧ bits (0x92 : Word).toNat 7 6 = 2) ∧ ready.iq.busy = false ∧
    (modPair 0 (fun p => { p with arm := some (91, 0) }) ready).iq.busy = true ∧ (255 : BitVec 8) ≠ 0 ∧ ready.clk.cyc < 249999 ∧
    ({ ready with clk := at_ 90 249999 } : State).clk.cyc = 249999 ∧ ready.dev ≠ .safeStop ∧
    ({ ready with dev := .safeStop } : State).dev = .safeStop ∧ ({ ready with dev := .safeStop } : State).hubOn 4 = true := by decide +kernel

/-! The beat, power, proofs -/

theorem witness_beatBoundaryBeginsTheNextBeat :
    booting9.clk.running = false ∧ ready.clk.running = true ∧ ({ ready with clk := at_ 90 249999 } : State).clk.cyc < 250000 ∧
    (∀ k, ready.job k = none) ∧ (∀ c : Fin 64, (ready.safe.cores[c]).persistent = none) ∧ ready.dev ≠ .running ∧ ready.con.refreshStop = false ∧
    ready.pwr.thermal = false ∧ ready.settled = true ∧ ({ ready with iq := { ready.iq with pendCfg := some 2 } } : State).iq.pendCfg = some 2 := by decide +kernel

/-- The service job needing refresh at rate 1 only. -/
def atRateOne : State := withJobs [(0, { service with hdr := { service.hdr with refreshMult := 0 } })]

theorem witness_memoryTemperature :
    ready.clk.running = true ∧ ready.settled = true ∧ atRateOne.settled = true ∧ ready.parked = false ∧ ready.mem.mr4Beat ≠ some ready.clk.beat ∧
    ready.part.channels ≤ (List.replicate 128 ((4 : BitVec 3), (3 : BitVec 3))).length ∧
    (atRateOne.con.need < (mr4Read (List.replicate 128 (4, 3)) atRateOne).needAll ∧
      atRateOne.job 0 = some { service with hdr := { service.hdr with refreshMult := 0 } }) ∧
    (mr4Read (List.replicate 128 (3, 3)) atRateOne).needAll = atRateOne.con.need ∧
    (let s : State := { ready with clk := at_ 1024 247099 }
     s.clk.beat % 1024 = 0 ∧ s.clk.cyc < 247100 ∧ s.parked = false ∧ s.settled = true) ∧
    ({ running with clk := at_ 159 1000 } : State).ownerChanges 0 = true ∧ ready.ownerChanges 63 = false := by
  decide +kernel

/-- Beat b with the power block changed. -/
def powered (c : Clock) (f : Power → Power) (s : State) : State := modPwr f { s with clk := c }

theorem witness_energyAndTemperature :
    (ready.clk.running = true ∧ ready.settled = true ∧ ready.pwr.measured < ready.clk.beat ∧ ready.beatInFrame ≠ 0) ∧
    ({ ready with clk := at_ 80 0 } : State).beatInFrame = 0 ∧ ({ ready with clk := at_ 80 5 } : State).settled = true ∧
    (let s := powered (at_ 80 5) (fun p => { p with measured := 80, budgetUj := 9, frameUj := 9, tjShed := 90, tjMax := 1439 }) ready
     s.beatInFrame = 0 ∧ 0 < s.frame ∧ s.pwr.measured = s.clk.beat ∧ s.pwr.decided < s.frame ∧ s.pwr.frameUj.toNat ≤ s.pwr.budgetUj.toNat ∧
     s.pwr.tjMax.toInt < 16 * s.pwr.tjShed.toNat) ∧
    (let s := powered (at_ 80 5) (fun p => { p with measured := 80, budgetUj := 9, frameUj := 10, overRun := 1 }) ready
     s.beatInFrame = 0 ∧ 0 < s.frame ∧ s.pwr.measured = s.clk.beat ∧ s.pwr.decided < s.frame ∧ s.pwr.budgetUj.toNat < s.pwr.frameUj.toNat ∧
     s.pwr.ladder = false ∧ s.pwr.overRun ≠ 2 ∧ s.pwr.overRun ≠ 15 ∧ s.pwr.tjMax.toInt < 16 * s.pwr.tjShed.toNat) ∧
    (let s := powered (at_ 80 5) (fun p => { p with measured := 80, budgetUj := 9, frameUj := 10, overRun := 2 }) ready
     s.beatInFrame = 0 ∧ 0 < s.frame ∧ s.pwr.measured = s.clk.beat ∧ s.pwr.decided < s.frame ∧ s.pwr.budgetUj.toNat < s.pwr.frameUj.toNat ∧
     s.pwr.ladder = false ∧ s.pwr.overRun = 2) ∧
    (let s := powered (at_ 80 5) (fun p => { p with measured := 80, tjShed := 90, tjMax := 1440 }) ready
     s.beatInFrame = 0 ∧ 0 < s.frame ∧ s.pwr.measured = s.clk.beat ∧ s.pwr.decided < s.frame ∧ (16 * s.pwr.tjShed.toNat : Int) ≤ s.pwr.tjMax.toInt) ∧
    ready.rst.episode = none ∧ [(7 : BitVec 12), 1678].length + 1 + [(1679 : BitVec 12), 7].length ≤ 36 ∧
    (∀ y ∈ [(7 : BitVec 12), 1678], y.toInt < (1679 : BitVec 12).toInt) ∧ (∀ y ∈ [(1679 : BitVec 12), 7], y.toInt ≤ (1679 : BitVec 12).toInt) ∧ (1679 : BitVec 12).toInt < 1680 ∧
    (1680 ≤ (1839 : BitVec 12).toInt ∧ (1839 : BitVec 12).toInt < 1840) ∧ running.job 0 = some service ∧ service.hdr.cls ≠ 0 ∧
    running.rst.episode = none ∧ 1840 ≤ (1840 : BitVec 12).toInt ∧ running.dev = .running := by
  decide +kernel

/-- The SAFETY job in its window. -/
def inWindow : State := { withJobs [(1, safety), (0, service)] with clk := at_ 83 1000 }

/-- The same after a throttle of the window. -/
def throttled : State := modPwr (fun p => { p with windowHit := some (1, 1) }) inWindow

theorem witness_throttles :
    booting9.rst.episode = none ∧ booting9.clk.running = false ∧
    (running.rst.episode = none ∧ running.clk.running = true ∧ running.windowJob running.clk.beat = none ∧ running.proofBeat running.clk.beat = false) ∧
    (running.job 0 = some service ∧ service.hdr.cls ≠ 0) ∧ (withJobs [(1, safety)]).job 1 = some safety ∧ safety.hdr.cls = 0 ∧
    (inWindow.rst.episode = none ∧ inWindow.clk.running = true ∧ inWindow.windowJob inWindow.clk.beat = some 1 ∧
      inWindow.pwr.windowHit ≠ some (1, inWindow.frame)) ∧
    (throttled.windowJob throttled.clk.beat = some 1 ∧ throttled.pwr.windowHit = some (1, throttled.frame) ∧ throttled.dev = .running) ∧
    (let s := powered (at_ 83 1000) (fun p => { p with quietTo := some 21051000 }) ready
     s.pwr.quietTo = some 21051000 ∧ 21051000 ≤ s.clk.raw) := by decide +kernel

theorem witness_supplyAndInputSwitch :
    running.rst.episode = none ∧ (36000 ≤ (58000 : BitVec 16).toNat ∧ (58000 : BitVec 16).toNat ≤ 58000) ∧ (35999 : BitVec 16).toNat < 36000 ∧
    58000 < (58001 : BitVec 16).toNat ∧ running.dev = .running ∧ ready.host.storing = none ∧ ((fused twoKeys).sec.slots[(0 : Fin 4)]).burnt = true ∧
    (fused twoKeys).sec.fuseOp = none ∧ ({ ready with pins := { ready.pins with plateHot := true } } : State).pins.plateHot = true := by decide +kernel

/-- A proof beat. -/
def proofTime (f : Safety → Safety) : State := { ready with clk := at_ 81 128, safe := f ready.safe }

/-- Core c of the safety block as given. -/
def safeCore (c : Fin 64) (k : CoreSafe) (x : Safety) : Safety := { x with cores := setV x.cores c k }

theorem witness_proofSlotAndReruns :
    (let s := proofTime id
     s.settled = true ∧ s.proving = true ∧ s.safe.cutBeat ≠ some s.clk.beat ∧ s.clk.cyc ≤ 128 + 8192 * (0 : Fin 29).1 ∧
     (∀ u : UnitIdx, u.1 < 64 → (s.cores[u]).owes s.clk.beat = false) ∧ s.safe.slotAt = none ∧ s.safe.slots.toNat < 48 ∧
     (s.safe.cores[(63 : Fin 64)]).rerun = none ∧ (s.safe.cores[(63 : Fin 64)]).golden = none) ∧
    (let s := proofTime (safeCore 63 { golden := some (22, 20541936) })
     (s.safe.cores[(63 : Fin 64)]).golden = some (22, 20541936) ∧ 20541936 + 8192 ≤ s.clk.raw ∧ (22 : Fin 24) ≠ 23 ∧
     (s.safe.cores[(63 : Fin 64)]).rerun = none ∧ s.safe.fence.getLsbD 63 = false ∧ (s.safe.cores[(63 : Fin 64)]).persistent = none ∧
     (s.safe.cores[(63 : Fin 64)]).event = none) ∧
    (let s := proofTime (safeCore 0 { event := some (1, 2), rerun := some 24, log := [0] })
     (s.safe.cores[(0 : Fin 64)]).event = some (1, 2) ∧ (s.safe.cores[(0 : Fin 64)]).rerun = some 24 ∧ (s.safe.cores[(0 : Fin 64)]).rerunDirty = false ∧
     ((s.safe.cores[(0 : Fin 64)]).log.filter fun x => decide (1 ≤ x + 999)).length < 2) ∧
    (let s := proofTime (safeCore 0 { event := some (1000, 2), rerun := some 24, log := [1, 1] })
     (s.safe.cores[(0 : Fin 64)]).event = some (1000, 2) ∧ (s.safe.cores[(0 : Fin 64)]).rerun = some 24 ∧
     2 ≤ ((s.safe.cores[(0 : Fin 64)]).log.filter fun x => decide (1000 ≤ x + 999)).length) := by
  decide +kernel

/-! ### Timetable entries -/

/-- An entry that issues in a state of which P holds. -/
def issuesWith (u : UnitIdx) (op : Nat) (e : Entry) (s : State) (P : State → Bool) : Bool :=
  match (toEntry u op e s).map (takeOver u op e) with
  | none => false
  | some s1 => s1.mayIssue u op e && P s1

theorem issuesWith_spec {u : UnitIdx} {op : Nat} {e : Entry} {s : State} {P : State → Bool} (h : issuesWith u op e s P = true) :
    ∃ s1, Issues u op e s s1 ∧ P s1 = true := by
  unfold issuesWith at h
  split at h
  · simp at h
  · rename_i s1 h1
    rw [Bool.and_eq_true] at h
    exact ⟨s1, ⟨h1, h.1⟩, h.2⟩

/-- RUNNING with the service job, owner of core 0, whose other state f gives. -/
def coreAs (f : Core → Core) : State := modCore 0 (fun c => f { c with seq := { c.seq with owner := some 1 } }) running

/-- An entry of beat 90 in a cycle. -/
def entryAt (c : Nat) (ws : List Word) : Entry := { beat := 10, cycle := c, words := ws }

/-- A defined HOLD basin of 1 KiB at scratchpad address 0 that is full. -/
def fullBasin : Basin := { defined := true, hold := true, baseKib := 0, sizeKib := 1, twrap := true }

/-- An INT8 pass of one step on tile 0 with activations in basin 0 and weights in basin 1. -/
def intPass (c : Nat) : Entry := entryAt c [0, 0x00100001, 0]

/-- Core 0 with an entry at the head of its context for beat 90. -/
def holding (e : Nat × Entry) (f : Core → Core) : State :=
  coreAs fun c => f { c with seq := { c.seq with
    context := 4, halves := modV c.seq.halves 4 fun hs => setV hs 0 { beat := 90, entries := [e], complete := true } } }

/-- Basins 0 and 1 full. -/
def bothFull (c : Core) : Core := { c with basins := setV (setV c.basins 0 fullBasin) 1 fullBasin }

/-- The empty HOLD basin. -/
def empty0 (c : Core) : Core := { c with basins := setV c.basins 0 { fullBasin with twrap := false } }

/-- A STREAM basin with 16 bytes. -/
def stream0 (c : Core) : Core := { c with basins := setV c.basins 0 { fullBasin with hold := false, tail := 16, twrap := false } }

/-- Radio engine 0 with a phase that started in the present cycle. -/
def phased (slip : Nat) : State :=
  modCore 64 (fun c => { c with seq := { c.seq with slip := slip } })
    { ready with radio := modV ready.radio 0 fun r => { r with phase := some { dm := false, e := 0, ready := ready.clk.raw, deadline := 9 } } }

theorem witness_entriesHoldOrBreakTheirRule_late :
    ∀ r ∈ entryRows 0 (entryAt 249999 []) .none, toEntry 0 r.2.1 (entryAt 249999 []) (coreAs fun c => { c with seq := { c.seq with slip := 1 } }) = none := by
  decide +kernel

/-- Core 0, owned by the service job, with an entry of another job at the head of that job's context. -/
def intruded (e : Nat × Entry) : State :=
  modCore 0 (fun c => { c with seq := { c.seq with
    owner := some 1, context := 4, halves := modV c.seq.halves 3 fun hs => setV hs 0 { beat := 90, entries := [e], complete := true } } })
    (withJobs [(0, service), (1, { service with id := 2, ctx := 3 })])

theorem witness_entriesHoldOrBreakTheirRule_notInTurn :
    (∀ r ∈ entryRows 0 (entryAt 1000 []) .none,
      ((toEntry 0 r.2.1 (entryAt 1000 []) (coreAs id)).map (takeOver 0 r.2.1 (entryAt 1000 []))).any (fun s1 =>
        decide (s1.mayIssue 0 r.2.1 (entryAt 1000 []) = false ∧ s1.intruder 0 r.2.1 (entryAt 1000 []) = none)) = true) ∧
    ((toEntry 0 0x16 (entryAt 1000 [7]) (intruded (0x16, entryAt 1000 [7]))).map (takeOver 0 0x16 (entryAt 1000 [7]))).any (fun s1 => decide (
      s1.mayIssue 0 0x16 (entryAt 1000 [7]) = false ∧ s1.intruder 0 0x16 (entryAt 1000 [7]) = some 1 ∧
      s1.job 1 = some { service with id := 2, ctx := 3 } ∧ ({ service with id := 2, ctx := 3 } : Job).isSafety = false)) = true := by
  decide +kernel

theorem witness_entriesHoldOrBreakTheirRule_holds :
    ∃ s1, Issues 0 2 (entryAt 1000 [0]) (holding (2, entryAt 1000 [0]) empty0) s1 ∧ (loadCheck 0 (entryAt 1000 [0]) s1 == .hold 2) = true :=
  issuesWith_spec (by decide +kernel)

/-- An entry whose BEAT has a reserved bit set. -/
def reservedBit : Entry := { entryAt 1000 [0] with beat := 2 ^ 17 + 10 }

theorem witness_entriesHoldOrBreakTheirRule_bad :
    ∃ s1, Issues 0 0x14 reservedBit (holding (0x14, reservedBit) id) s1 ∧
      decide (must (headerOk reservedBit) = .bad ∧ s1.workOf 0 0x14 reservedBit = { job := some 0, period := 0 } ∧ s1.job 0 = some service ∧
        service.isSafety = false) = true :=
  issuesWith_spec (by decide +kernel)

theorem witness_entriesHoldOrBreakTheirRule_radio :
    ∃ s1, Issues 64 0x12 { beat := 0, cycle := 0, words := [0x10000] } (phased 0) s1 ∧
      decide (must (freeRules 64 { beat := 0, cycle := 0, words := [0x10000] } s1) = .bad) = true :=
  issuesWith_spec (by decide +kernel)

theorem witness_passEntersTheEngine :
    (∃ s1, Issues 0 1 (intPass 1000) (holding (1, intPass 1000) bothFull) s1 ∧
      decide (passCheck 0 (intPass 1000) s1 = .go ∧ passDepth (passFields (intPass 1000)).act (passFields (intPass 1000)).wgt = some (4, false)) = true) ∧
    (∃ s1, Issues 0 2 (entryAt 1000 [1]) (holding (2, entryAt 1000 [1]) bothFull) s1 ∧ decide (loadCheck 0 (entryAt 1000 [1]) s1 = .go) = true) ∧
    (∃ s1, Issues 0 2 (entryAt 1000 [0]) (holding (2, entryAt 1000 [0]) stream0) s1 ∧ decide (loadCheck 0 (entryAt 1000 [0]) s1 = .go) = true) :=
  ⟨issuesWith_spec (by decide +kernel), issuesWith_spec (by decide +kernel), issuesWith_spec (by decide +kernel)⟩

/-- A pass of four steps that entered in raw cycle t and fills tile 1. -/
def passFrom (t : Nat) : Pass :=
  { entry := intPass 900, entered := t, init := 0, len := 4, target := 1, fp := false, job := some 0, period := 0, result := [1], satAt := none, spans := []
    ref := { rows := [], cols := [], n := 0 }, slot := none, reads := [], named := [], slipless := true }

/-- Core 0 with passes in flight. -/
def flying (ps : List Pass) (g : Engine → Engine) : State := coreAs fun c => { c with eng := g { c.eng with passes := ps } }

/-- A cascade in progress. -/
def cascading : VecEntry := { op := 8, entry := entryAt 900 [], issued := 22800900, len := 40, job := some 0, period := 0, saved := Vector.replicate 32 (Vector.replicate 64 7) }

theorem witness_passCompletesOrIsInterrupted :
    (let s := flying [passFrom 22800990] id
     (s.cores[(0 : UnitIdx)]).eng.passes = [passFrom 22800990] ∧ (passFrom 22800990).bad = none ∧ (s.cores[(0 : UnitIdx)]).eng.completes (passFrom 22800990) = true ∧
     ((reach (passFrom 22800990).last s).any fun s1 => decide (s1.clk.cyc = 1007 ∧ s1.clk.cyc < s1.reserveAt)) = true) ∧
    (let s := flying [passFrom 22800990] fun g => { g with draining := some 22800995 }
     (s.cores[(0 : UnitIdx)]).stopCycle = some 22800995 ∧ ((reach (22800995 + 64) s).any fun s1 => s1.clk.cyc == 1059) = true ∧
     22800995 < (passFrom 22800990).last) ∧
    (let s := coreAs fun c => { c with vec := { c.vec with entry := some cascading, draining := some 22800995 } }
     (s.cores[(0 : UnitIdx)]).stopCycle = some 22800995 ∧ (reach (22800995 + 64) s).isSome = true ∧
     (s.cores[(0 : UnitIdx)]).vec.entry = some cascading ∧ (s.cores[(0 : UnitIdx)]).vec.draining = some 22800995) := by decide +kernel

theorem witness_accumulatorNeverBecomesMinusZero :
    (1 : Word) ≠ 0x80000000 ∧
    (let p : PassData := { f := passFields (intPass 0), d := 4, fp := true, act := #[], wgt := #[], init := #[], outa := #[], outw := #[], book := #[], bfmt := 0 }
     p.fp = true ∧ p.start 0 0 ≠ 0x80000000) := by decide +kernel

/-- The service job in the work of its period 0. -/
def inPeriod : Job := { service with run := [{ index := 0, weirPend := 1 }] }

/-- A verdict due in the present cycle. -/
def verdict (agree off : Bool) : WeirWait := { job := some 0, period := 0, due := 22801000, agree := agree, unchecked := off }

/-- Core 0 with a verdict to come for a job in its period. -/
def judged (w : WeirWait) : State := { withJobs [(0, inPeriod)] with
  cores := modV ready.cores 0 fun c => { c with eng := { c.eng with weir := [w] } } }

theorem witness_weirAndHopParity :
    (∀ w ∈ [verdict true true, verdict true false, verdict false false],
      ((judged w).cores[coreUnit 0]).eng.weir = [w] ∧ ((reach w.due (judged w)).any fun s1 => decide (s1.job 0 = some inPeriod ∧ s1.fenced 0 = false ∧
        (s1.safe.cores[(0 : Fin 64)]).persistent = none)) = true ∧ w.job = some 0 ∧ ∀ p ∈ inPeriod.run, p.index = w.period → p.workDone = false) ∧
    (let s := flying [passFrom 22800990] id
     (s.cores[coreUnit 0]).eng.passes.getLast? = some (passFrom 22800990) ∧ (passFrom 22800990).job = some 0 ∧ s.job 0 = some service ∧
     s.clk.raw < (passFrom 22800990).last ∧ (s.cores[coreUnit 0]).eng.stopping = false ∧ s.fenced 0 = false ∧ (s.safe.cores[(0 : Fin 64)]).persistent = none ∧
     (s.safe.cores[(0 : Fin 64)]).hopRerun ≠ some (passFrom 22800990).entry ∧ service.isSafety = false) ∧
    (let s : State := { flying [passFrom 22800990] id with jobs := (withJobs [(0, safety)]).jobs }
     (s.cores[coreUnit 0]).eng.passes.getLast? = some (passFrom 22800990) ∧ s.job 0 = some safety ∧ safety.isSafety = true) := by decide +kernel

/-- A codebook load whose basin is empty. -/
def emptyLoad (f : Core → Core) : State := holding (2, entryAt 1000 [0]) fun c => f (empty0 c)

/-- Radio engine 0 in a phase whose timetable begins with such a load. -/
def radioLoad : State :=
  let m : RadioMan := { image := 0, lenCe := 1024, lenDm := 1024, energy := 2, digest := [], timetable := [(2, { beat := 0, cycle := 0, words := [0] })] }
  modCore 64 empty0 { phased 0 with radio := modV (phased 0).radio 0 fun r => { r with active := some m } }

/-- A state in which that load holds with cause 2, permitted or not. -/
theorem witness_holdsAddToTheSlip_core :
    (∀ x ∈ [(emptyLoad fun c => { c with seq := { c.seq with permitted := true, held := 1 } }, true), (emptyLoad id, false)],
      x.1.pausing 0 = none ∧ x.1.nextEntry 0 = some (2, entryAt 1000 [0], true) ∧
      (toEntry 0 2 (entryAt 1000 [0]) x.1).any (fun s1 => decide (
        s1.holdCause 0 2 (entryAt 1000 [0]) true = some (2 : BitVec 3).toNat ∧ (s1.cores[(0 : UnitIdx)]).seq.permitted = x.2 ∧
        s1.corePermitted 0 2 (2 : BitVec 3).toNat (entryAt 1000 [0]) (s1.workOf 0 2 (entryAt 1000 [0])) = false ∧
        s1.workOf 0 2 (entryAt 1000 [0]) = { job := some 0, period := 0 } ∧ s1.job 0 = some service ∧ service.isSafety = false)) = true) ∧
    (let e : Entry := { beat := 0, cycle := 0, words := [0] }
     radioLoad.pausing 64 = none ∧ radioLoad.nextEntry 64 = some (2, e, true) ∧
     (toEntry 64 2 e radioLoad).any (fun s1 => decide (
       s1.holdCause 64 2 e true = some (2 : BitVec 3).toNat ∧ (s1.cores[(64 : UnitIdx)]).seq.permitted = false ∧
       s1.corePermitted 64 2 (2 : BitVec 3).toNat e (s1.workOf 64 2 e) = false)) = true) := by
  decide +kernel

/-- The manifest image of one section of a type and unit. -/
def sectionImage (type unit : Nat) (es : List (Nat × Entry)) : List Byte :=
  let body := words (es.flatMap fun x => [x.2.cycle + 2 ^ 18 * x.1 + 2 ^ 24 * x.2.words.length, x.2.beat] ++ x.2.words.map (·.toNat))
  List.replicate 0x80 0 ++ words [type + 65536 * unit, 0x90, 0, body.length] ++ body

/-- The service job with a lot of its beat 10 on channel 3 and a manifest image of one section. -/
def claiming : Job :=
  { service with hdr := { service.hdr with sections := 1, bodyLen := 0x40 }, lots := [{ beat := 10, chan := 3, lot := 1 }] }

/-- A RILL_IN of job 0 for one block into basin 0 of core 0, stated in a cycle of beat 90. -/
def rillDesc (op c : Nat) (slot : Fin 64) : Desc := { job := 0, slot := slot, op := op, entry := entryAt c [0, 0, 0, 0, 0, 0], seq := 0, period := 0 }

/-- RUNNING with job j and the descriptors of rills 0 and 1. -/
def rilled (j : Job) (a b : List Desc) (f : Rill → Rill) : State :=
  { withJobs [(0, j)] with rills := setV (setV ready.rills 0 (f { descs := a })) 1 { descs := b } }

/-- RUNNING with the claiming job, whose entries of channel 3 are those given, and rill 0 as given. -/
def onChan (es : List (Nat × Entry)) (a : List Desc) : State :=
  let s := rilled claiming a [] id
  { s with mem := { s.mem with dram := Cells.puts 0 [] 0 (sectionImage 3 3 es) } }

/-- An access of one block at address 2880, in lot 1 of beat 10 of channel 3. -/
def access (c : Nat) : Entry := entryAt c [2880, 0x100, 0]

/-- A RILL_IN that waits for its data. -/
def openIn : Desc := { rillDesc 1 900 0 with active := true, done := [false] }

/-- Its block, landed or waiting to. -/
def waitingBlock : Landing := { job := 0, slot := 0, block := 0, bytes := List.replicate 64 5, timed := true, chan := 7, tag := 9 }

theorem witness_holdsAddToTheSlip :
    (∀ s ∈ [rilled service [rillDesc 1 1000 0] [rillDesc 1 900 0] fun r => { r with slip := 1 }],
      (s.heldDesc 0).any (fun x => decide (x.1 = rillDesc 1 1000 0 ∧ x.2.1 = service ∧
        x.2.2.rillPermitted 0 x.1 service ((x.2.2.rills[(0 : Fin 32)]).descs.any (· == x.1)) = true)) = true) ∧
    (∀ s ∈ [rilled service [rillDesc 1 1000 0] [rillDesc 1 900 0] fun r => { r with permitted := true }],
      (s.heldDesc 0).any (fun x => decide ((x.2.2.rills[(0 : Fin 32)]).permitted = true)) = true) ∧
    (∀ x ∈ [(true, 0), (false, 1)], let s := rilled service [openIn] [] fun r => { r with landing := [{ waitingBlock with permitted := x.1 }], slip := x.2 }
     s.heldDesc 0 = none ∧ s.heldLanding 0 = some (openIn, { waitingBlock with permitted := x.1 }) ∧
     (x.1 = false → s.landPermitted 0 openIn { waitingBlock with permitted := x.1 } = true)) ∧
    (∀ x ∈ [(1, false), (0, true)], let s := modChan 3 (fun c => { c with slip := x.1, permitted := x.2, busFree := 22802000 }) (onChan [(1, access (1000 - x.1))] [])
     (s.heldChan 3).any (fun y => decide (y.1 = 0 ∧ y.2.1 = claiming ∧ y.2.2.1 = (1, access (1000 - x.1), 0) ∧
       ((y.2.2.2.chans[(3 : Fin 128)]).permitted = true ∨ y.2.2.2.chanPermitted 3 y.1 y.2.1 y.2.2.1 = true))) = true) := by
  decide +kernel

/-! ### The vector engine -/

/-- A cascade of one ReLU over tile 0. -/
def relu : Entry := entryAt 1000 [0, 0x00000008, 0]

/-- Core 0 with a FULL tile 0. -/
def tiled : State := holding (8, relu) fun c => { c with eng := { c.eng with tiles := setV c.eng.tiles 0 { st := .full } } }

/-- An operand word that reads and writes V1 to V3 in BF16. -/
def vop : VOp := { vd := 1, va := 2, vb := 3, dfmt := 0, aint := false, bint := false, zero := 0 }

/-- A block in progress whose instruction of an OPC issues in the present cycle. -/
def block (opc : Nat) (w : Word) : VecEntry :=
  { op := 9, entry := entryAt 999 [], issued := 22801000, len := 1, job := some 0, period := 0, left := [(vopWord vop opc, w)]
    saved := Vector.replicate 32 (Vector.replicate 64 0) }

/-- Core 0 with that block. -/
def blocked (opc : Nat) (w : Word) (f : Core → Core) : State := coreAs fun c => f { c with vec := { c.vec with entry := some (block opc w) } }

/-- An instruction that issues in a state of which P holds. -/
theorem insnIssues_of {opc : Nat} {u : UnitIdx} {o : VOp} {w : Word} {v : VecEntry} {s : State} {P : State → Bool}
    (h : (s.cores[u]).vec.entry = some v ∧ v.op = 9 ∧ v.left.head? = some (vopWord o opc, w) ∧ (s.cores[u]).vec.draining = none ∧
      ((reach v.issueAt s).map (settleCore u)).any P = true ∧ insnRules (vopWord o opc, w) = true) :
    ∃ s1, InsnIssues opc u o w v s s1 ∧ P s1 = true := by
  obtain ⟨a, b, c, d, e, f⟩ := h
  cases h1 : (reach v.issueAt s).map (settleCore u) with
  | none => simp [h1] at e
  | some s1 => exact ⟨s1, ⟨a, b, c, d, h1, f⟩, by simpa [h1] using e⟩

/-- A transfer of 64 cistern words to basin 0, and back. -/
def transfer (d : Nat) : Entry := entryAt 1000 [BitVec.ofNat 32 (64 * 256 + d), 0]

/-- An entry that ends in the present cycle, with nothing to store or with 64 bytes for basin 0. -/
def ending (stores : List (Fin 16 × List Byte)) (tiles : List (Fin 4)) : VecEntry :=
  { op := 8, entry := entryAt 984 [], issued := 22800985, len := 16, job := some 0, period := 0, slipless := true
    saved := Vector.replicate 32 (Vector.replicate 64 0), writes := { stores := stores, tiles := tiles } }

theorem witness_vectorEntriesIssueAndCommit :
    (∃ s1, Issues 0 8 relu tiled s1 ∧ decide (cascCheck 0 relu s1 = .go ∧ (cascHead relu).src = 0 ∧ (tiled.cores[(0 : UnitIdx)]).rereads relu = false) = true) ∧
    (let e := entryAt 1000 [vopWord vop 1, 0]
     (∃ s1, Issues 0 9 e (holding (9, e) id) s1 ∧ decide (insnCheck 0 e s1 = .go) = true) ∧
     ((insnPairs e.words).head?.all fun x => opcListed (bits x.1.toNat 7 0)) = true) ∧
    (∃ s1, Issues 0 10 (transfer 0) (holding (10, transfer 0) bothFull) s1 ∧ decide (moveCheck 0 (transfer 0) s1 = .go ∧ bitOf (wordAt (transfer 0).words 0) 0 = false) = true) ∧
    (∃ s1, Issues 0 10 (transfer 1) (holding (10, transfer 1) empty0) s1 ∧
      decide (moveCheck 0 (transfer 1) s1 = .go ∧ bitOf (wordAt (transfer 1).words 0) 0 = true) = true) ∧
    (∀ v ∈ [ending [] [2], ending [(0, List.replicate 64 1)] []],
      let s := coreAs fun c => { c with vec := { c.vec with entry := some v }, basins := setV c.basins 0 { fullBasin with twrap := false } }
      (s.cores[(0 : UnitIdx)]).vec.entry = some v ∧ v.left = [] ∧ v.bad = none ∧ (s.cores[(0 : UnitIdx)]).vec.draining = none ∧
      ((reach (v.issued + v.len - 1) s).map (settleCore 0)).any (fun s1 =>
        (v.storeRuns (s1.cores[(0 : UnitIdx)])).all ((s1.cores[(0 : UnitIdx)]).banksOn s1.clk.raw) && decide (s1.clk.cyc < s1.reserveAt)) = true) := by
  refine ⟨issuesWith_spec (by decide +kernel), ⟨issuesWith_spec (by decide +kernel), by decide +kernel⟩, issuesWith_spec (by decide +kernel),
    issuesWith_spec (by decide +kernel), by decide +kernel⟩

theorem witness_vectorArithmetic_formats :
    laneFmt vop.dfmt.toNat ≠ none ∧ laneFmt (2 : BitVec 2).toNat ≠ none := by decide

theorem witness_vectorArithmetic_lanes : ∀ opc ∈ [1, 2, 3, 4, 5, 6, 7, 8, 9, 0x0B],
    ∃ s1, InsnIssues opc 0 vop 0 (block opc 0) (blocked opc 0 id) s1 ∧ true = true := by
  intro opc h
  simp only [List.mem_cons, List.not_mem_nil, or_false] at h
  rcases h with rfl | rfl | rfl | rfl | rfl | rfl | rfl | rfl | rfl | rfl <;>
    exact insnIssues_of (P := fun _ => true) (by decide +kernel)

theorem witness_vectorArithmetic_vquant : ∃ s1, InsnIssues 0x0A 0 vop 1 (block 0x0A 1) (blocked 0x0A 1 id) s1 ∧ true = true :=
  insnIssues_of (P := fun _ => true) (by decide +kernel)

theorem witness_vectorArithmetic_halves : ∀ opc ∈ [0x12, 0x13, 0x14],
    ∃ s1, InsnIssues opc 0 vop 0 (block opc 0) (blocked opc 0 id) s1 ∧ true = true := by
  intro opc h
  simp only [List.mem_cons, List.not_mem_nil, or_false] at h
  rcases h with rfl | rfl | rfl <;> exact insnIssues_of (P := fun _ => true) (by decide +kernel)

theorem witness_vectorLoadsAndStores :
    (∃ s1, InsnIssues 0x0C 0 vop 0 (block 0x0C 0) (blocked 0x0C 0 id) s1 ∧
      decide (((s1.cores[(0 : UnitIdx)]).eng.tiles[(0 : Fin 4)]).readable s1.clk.raw = false) = true) ∧
    (∃ s1, InsnIssues 0x0C 0 vop 0 (block 0x0C 0) (blocked 0x0C 0 fun c => { c with eng := (tiled.cores[(0 : UnitIdx)]).eng }) s1 ∧
      decide (((s1.cores[(0 : UnitIdx)]).eng.tiles[(0 : Fin 4)]).readable s1.clk.raw = true) = true) ∧
    (∃ s1, InsnIssues 0x0D 0 vop 0 (block 0x0D 0) (blocked 0x0D 0 fun c => { c with basins := setV c.basins 0 fullBasin }) s1 ∧
      (let c := s1.cores[(0 : UnitIdx)]
       let b := c.basin 0
       let f := (fmtOf 0).getD .f32
       decide (laneFmt vop.dfmt.toNat ≠ none ∧ b.defined = true ∧ 64 * f.size ≤ b.size ∧ 64 * f.size ≤ b.usable s1.clk.raw ∧
         c.readable s1.clk.raw b b.head (min (64 * f.size) b.fill) = true)) = true) ∧
    (∃ s1, InsnIssues 0x0E 0 vop 0 (block 0x0E 0) (blocked 0x0E 0 id) s1 ∧ true = true) ∧
    (∃ s1, InsnIssues 0x0F 0 vop 65472 (block 0x0F 65472) (blocked 0x0F 65472 id) s1 ∧ decide (bits (65472 : Word).toNat 15 0 + 63 ≤ 65535) = true) ∧
    (∃ s1, InsnIssues 0x10 0 vop 65472 (block 0x10 65472) (blocked 0x10 65472 id) s1 ∧ true = true) ∧
    (∃ s1, InsnIssues 0x11 0 vop 3 (block 0x11 3) (blocked 0x11 3 id) s1 ∧ true = true) :=
  ⟨insnIssues_of (by decide +kernel), insnIssues_of (by decide +kernel), insnIssues_of (by decide +kernel),
   insnIssues_of (P := fun _ => true) (by decide +kernel), insnIssues_of (by decide +kernel), insnIssues_of (P := fun _ => true) (by decide +kernel),
   insnIssues_of (P := fun _ => true) (by decide +kernel)⟩

/-! ### Basins, banks, fetches -/

theorem witness_basinAndSequencerEntries :
    (∃ s1, Issues 0 0x10 (entryAt 1000 [0x0003FFF1, 1]) (holding (0x10, entryAt 1000 [0x0003FFF1, 1]) id) s1 ∧
      decide (defRules 0 (entryAt 1000 [0x0003FFF1, 1]) s1 = true) = true) ∧
    (∃ s1, Issues 0 0x11 (entryAt 1000 [0x4000]) (holding (0x11, entryAt 1000 [0x4000]) bothFull) s1 ∧
      decide (popRules s1.cores[(0 : UnitIdx)] (entryAt 1000 [0x4000]) s1.clk.raw = true) = true) ∧
    (∃ s1, Issues 0 0x12 (entryAt 1000 [0x8001]) (holding (0x12, entryAt 1000 [0x8001]) bothFull) s1 ∧
      decide (freeRules 0 (entryAt 1000 [0x8001]) s1 = true) = true) ∧
    (∃ s1, Issues 0 0x16 (entryAt 1000 [7]) (holding (0x16, entryAt 1000 [7]) id) s1 ∧ decide (headerOk (entryAt 1000 [7]) = true) = true) ∧
    (∃ s1, Issues 0 0x15 (entryAt 1000 [0, 1, 2, 3, 4]) (holding (0x15, entryAt 1000 [0, 1, 2, 3, 4]) empty0) s1 ∧
      decide (putCheck 0 (entryAt 1000 [0, 1, 2, 3, 4]) s1 = .go ∧ 1 < putWords (entryAt 1000 [0, 1, 2, 3, 4]) ∧ s1.putLate 0 (entryAt 1000 [0, 1, 2, 3, 4]) = false ∧
        (s1.cores[(0 : UnitIdx)]).banksOn s1.clk.raw (((s1.cores[(0 : UnitIdx)]).basin 0).runs ((s1.cores[(0 : UnitIdx)]).basin 0).tail 8) = true) = true) ∧
    (∃ s1, Issues 0 0x15 (entryAt 1000 [0, 1, 2]) (holding (0x15, entryAt 1000 [0, 1, 2]) empty0) s1 ∧
      decide (putCheck 0 (entryAt 1000 [0, 1, 2]) s1 = .go ∧ putWords (entryAt 1000 [0, 1, 2]) = 1 ∧ s1.putLate 0 (entryAt 1000 [0, 1, 2]) = false ∧
        (((entryAt 1000 [0, 1, 2]).words.drop 1).flatMap wordBytes).length = 8 ∧
        (s1.cores[(0 : UnitIdx)]).banksOn s1.clk.raw (((s1.cores[(0 : UnitIdx)]).basin 0).runs ((s1.cores[(0 : UnitIdx)]).basin 0).tail 8) = true) = true) :=
  ⟨issuesWith_spec (by decide +kernel), issuesWith_spec (by decide +kernel), issuesWith_spec (by decide +kernel),
   issuesWith_spec (by decide +kernel), issuesWith_spec (by decide +kernel), issuesWith_spec (by decide +kernel)⟩

theorem witness_basinAndSequencerEntries_reserve :
    ∃ s1, Issues 0 0x15 (entryAt 244999 [0, 1, 2, 3, 4]) (holding (0x15, entryAt 244999 [0, 1, 2, 3, 4]) empty0) s1 ∧
      decide (putCheck 0 (entryAt 244999 [0, 1, 2, 3, 4]) s1 = .go ∧ s1.putLate 0 (entryAt 244999 [0, 1, 2, 3, 4]) = true ∧
        s1.workOf 0 0x15 (entryAt 244999 [0, 1, 2, 3, 4]) = { job := some 0, period := 0 } ∧ s1.job 0 = some service ∧
        service.isSafety = false) = true :=
  issuesWith_spec (by decide +kernel)

/-- Bank 31 in a state since a raw cycle. -/
def bank31 (st : BankState) (since : Nat) (c : Core) : Core := { c with banks := setV c.banks 31 { st := st, since := since } }

theorem witness_banksSleepAndWake :
    (∃ s1, Issues 0 0x13 (entryAt 1000 [0x80000000, 1]) (holding (0x13, entryAt 1000 [0x80000000, 1]) id) s1 ∧
      decide (headerOk (entryAt 1000 [0x80000000, 1]) = true ∧ bits (wordAt (entryAt 1000 [0x80000000, 1]).words 1) 31 1 = 0 ∧
        bitOf (wordAt (entryAt 1000 [0x80000000, 1]).words 0) 31 = true ∧ ((s1.cores[(0 : UnitIdx)]).banks[(31 : Fin 32)]).at_ s1.clk.raw = .on) = true) ∧
    (∃ s1, Issues 0 0x14 (entryAt 1000 [0x80000000]) (holding (0x14, entryAt 1000 [0x80000000]) (bank31 .sleepOff 5)) s1 ∧
      decide (headerOk (entryAt 1000 [0x80000000]) = true ∧ Memory.wf 0 (s1.cores[(0 : UnitIdx)]).pad = true ∧
        ((s1.cores[(0 : UnitIdx)]).banks[(31 : Fin 32)]).at_ s1.clk.raw = .sleepOff) = true) ∧
    (let s := coreAs (bank31 .waking 22800801)
     ((s.cores[(0 : UnitIdx)]).banks[(31 : Fin 32)]).st = .waking ∧
     (reach (((s.cores[(0 : UnitIdx)]).banks[(31 : Fin 32)]).since + 200) s).any (fun s1 => decide (s1.clk.cyc = 1001 ∧
       (s1.cores[(0 : UnitIdx)]).vec.entry = none ∧ (s1.cores[(0 : UnitIdx)]).seq.put = none ∧ (s1.cores[(0 : UnitIdx)]).narrow = [] ∧ s1.waiting 0 = [])) = true) :=
  ⟨issuesWith_spec (by decide +kernel), issuesWith_spec (by decide +kernel), by decide +kernel⟩

/-- The service job with its beats marked. -/
def marking : Job := { service with beatMap := List.replicate 12 true }

/-- A descriptor of the service job in slot 17 that has retired. -/
def gone : Desc := { rillDesc 1 900 17 with retired := true, seq := 17 }

/-- A fetch of job 0 all of whose reads have landed. -/
def fetched (k : FetchKind) : Fetch := { kind := k, job := 0, jid := 1, due := 22750000, posted := 22500000, lines := [], left := 0 }

/-- A fetch under way. -/
def fetching (x : Fetch) (s : State) : State := { s with mem := { s.mem with fetches := [x] } }

theorem witness_timetableFetches :
    (let s := withJobs [(0, marking)]
     s.ctxJob 0 4 = some 0 ∧ s.job 0 = some marking ∧ marking.marks (s.clk.beat + 1) = true ∧
     (∀ i : Fin 2, (((s.cores[coreUnit 0]).seq.halves[(4 : Fin 5)])[i]).beat ≠ s.clk.beat + 1) ∧
     freeHalf s.clk.beat ((s.cores[coreUnit 0]).seq.halves[(4 : Fin 5)]) = some 0) ∧
    (let s := rilled service [gone] [] id
     (s.rills[(0 : Fin 32)]).refillJob 1 = some 0 ∧ s.job 0 = some service) ∧
    (running.mem.fetches.find? (fun x => x.kind == .group 0 1 && x.lines.isEmpty && x.left == 0) = none) ∧
    (∀ k ∈ [FetchKind.context 0 4, .group 0 1], let s := fetching (fetched k) (rilled service [gone] [] fun r => { r with fetching := [(0, 1)] })
     s.mem.fetches.find? (fun x => x.kind == k && x.lines.isEmpty && x.left == 0) = some (fetched k) ∧ s.job (fetched k).job = some service) := by
  decide +kernel

/-! ### Rills -/

/-- RUNNING with the writable job, descriptors on rills 0 and 1 and a defined basin 0. -/
def rilledOn (a b : List Desc) : State := { rilled serving a b id with cores := (coreAs bothFull).cores }

/-- An active descriptor whose block has moved. -/
def moved (op : Nat) : Desc := { rillDesc op 900 0 with active := true, done := [true], moved := 1, written := 1, ends := 22801000 }

/-- The service job with a period whose RILL_OUTs are not all done. -/
def outing (n : Nat) : Job := { service with run := [{ index := 0, weirPend := 1, outsLeft := n }] }

/-- A read of one block at an address in flight for rill 0. -/
def flight (addr : Nat) (checked : Bool) : Flight :=
  { rill := 0, slot := 0, block := 0, blocks := 1, addr := addr, job := 0, jid := 1, period := 0, timed := true, write := false, issued := 22800000
    ends := 22800990, data := List.replicate 64 9, checked := checked }

/-- Channel 0 with that flight in tag 63. -/
def inTag (f : Flight) (s : State) : State := modChan 0 (fun c => { c with slots := setV c.slots 63 (some f) }) s

theorem witness_rillDescriptors :
    (let s := rilledOn [rillDesc 1 1000 0] [rillDesc 1 900 0]
     s.nextDesc 0 0 1 = some (rillDesc 1 1000 0, serving) ∧
     (reachGrid ((rillDesc 1 1000 0).dueAt serving (s.rills[(0 : Fin 32)]).slip) s).any (fun s1 => decide (
       s1.ordered (rillDesc 1 1000 0) = true ∧ s1.earlierWindow 0 (rillDesc 1 1000 0) serving = true)) = true) ∧
    (∀ op ∈ [1, 2],
      let s := rilledOn [rillDesc op 1000 0] []
      s.nextDesc 0 0 op = some (rillDesc op 1000 0, serving) ∧ (rillDesc op 1000 0).legal serving = true ∧
      (reachGrid ((rillDesc op 1000 0).dueAt serving (s.rills[(0 : Fin 32)]).slip) s).any (fun s1 => decide (
        s1.earlierWindow 0 (rillDesc op 1000 0) serving = false ∧ (settleCore 0 s1).rangeOk serving (rillDesc op 1000 0) = true ∧
        (((settleCore 0 s1).cores[(0 : UnitIdx)]).basin 0).defined = true)) = true) ∧
    -- a window that a higher rill opened in the same cycle
    (let y : Desc := { rillDesc 2 1000 0 with active := true, since := 22801000, done := [false] }
     let s := rilledOn [rillDesc 2 1000 0] [y]
     s.nextDesc 0 0 2 = some (rillDesc 2 1000 0, serving) ∧
     (reachGrid ((rillDesc 2 1000 0).dueAt serving (s.rills[(0 : Fin 32)]).slip) s).any (fun s1 =>
       decide ((((settleCore 0 s1).windows 0 0 2).filter fun y => y.2.since == s1.clk.raw && decide ((0 : Fin 32) < y.1)) = [(1, y)])) = true) ∧
    (let s := rilled service [rillDesc 2 1000 0] [] id
     s.nextDesc 0 0 2 = some (rillDesc 2 1000 0, service) ∧ (rillDesc 2 1000 0).legal service = true ∧
     (reachGrid ((rillDesc 2 1000 0).dueAt service (s.rills[(0 : Fin 32)]).slip) s).any (fun s1 => !(settleCore 0 s1).rangeOk service (rillDesc 2 1000 0) &&
       decide ((settleCore 0 s1).job 0 = some service)) = true ∧ service.isSafety = false) ∧
    (let s := rilled service [rillDesc 3 1000 0] [] id
     s.nextDesc 0 0 3 = some (rillDesc 3 1000 0, service) ∧ (rillDesc 3 1000 0).legal service = true ∧
     (reachGrid ((rillDesc 3 1000 0).dueAt service (s.rills[(0 : Fin 32)]).slip) s).isSome = true) ∧
    ((rilled service [moved 1] [] id).rills[(0 : Fin 32)]).descs.find? (fun d => d.slot == 0 && d.complete) = some (moved 1) ∧
    (∀ n ∈ [1, 2],
      let s := rilled (outing n) [moved 2] [] id
      (s.rills[(0 : Fin 32)]).descs.find? (fun d => d.slot == 0 && d.complete) = some (moved 2) ∧ (moved 2).op ≠ 1 ∧
      (reach (moved 2).ends s).isSome = true ∧ s.job 0 = some (outing n) ∧
      (outing n).run.find? (·.index == (moved 2).period) = some { index := 0, weirPend := 1, outsLeft := n } ∧ (outing n).isSafety = false ∧
      ∀ p ∈ (outing n).run, p.index = (moved 2).period → p.weirPend ≠ 0) ∧
    (let s := inTag (flight 0 false) (rilled service [rillDesc 1 900 0] [] id)
     s.unanswered 0 0 = some (flight 0 false) ∧
     (reach ((flight 0 false).issued + max 1024 (s.rills[(0 : Fin 32)]).tmo.toNat) s).isSome = true ∧ s.job 0 = some service) := by
  decide +kernel

/-- An open descriptor of 16 arbitrated blocks from address 2880 on, which is line 3 of channel 3. -/
def arbitrated (op : Nat) : Desc :=
  { rillDesc op 900 0 with entry := entryAt 900 [0x000F0100, 2880, 0, 0, 11, 0], active := true, done := List.replicate 16 false }

theorem witness_rillDataMoves_arrivals :
    (let s := inTag (flight 0 true) (rilled service [openIn] [] id)
     (s.chans[(0 : Fin 128)]).slots[(63 : Fin 64)] = some (flight 0 true) ∧ (flight 0 true).zero = false ∧ s.stands (flight 0 true) = true ∧
     (s.rills[(0 : Fin 32)]).desc 0 0 = some openIn ∧ openIn.failed = false ∧ (flight 0 true).fits openIn = true ∧
     (s.rills[(0 : Fin 32)]).awaits (flight 0 true) = false ∧ openIn.active = true) ∧
    (let f : Flight := { flight 0 true with zero := true }
     let s := inTag f (rilled service [openIn] [] id)
     (s.chans[(0 : Fin 128)]).slots[(63 : Fin 64)] = some f ∧ (reach f.maxArrival s).any (fun s1 =>
       decide ((s1.chans[(0 : Fin 128)]).slots[(63 : Fin 64)] = some f) && s1.stands f) = true) ∧
    (let s := inTag (flight 0 true) (rilled service [] [] id)
     (s.chans[(0 : Fin 128)]).slots[(63 : Fin 64)] = some (flight 0 true) ∧ s.stands (flight 0 true) = true ∧
     (s.rills[(0 : Fin 32)]).desc 0 0 = none ∧ s.job 0 = some service ∧ service.isSafety = false ∧
     (s.chans[(0 : Fin 128)]).retrySlot = none) := by decide +kernel

theorem witness_rillDataMoves_landing :
    (let s : State := { rilled service [openIn] [] (fun r => { r with landing := [waitingBlock] }) with cores := (coreAs empty0).cores }
     (settleCore (coreUnit 0) s).nextLanding (coreUnit 0) = some (0, openIn, waitingBlock) ∧
     landRules ((settleCore (coreUnit 0) s).cores[coreUnit 0]) openIn waitingBlock = true ∧ openIn.core 0 = coreUnit 0 ∧
     (reach (max s.clk.raw ((s.cores[coreUnit 0]).fabric) + (waitingBlock.bytes.length + 255) / 256 - 1) (settleCore (coreUnit 0) s)).any (fun s1 =>
       (s1.cores[coreUnit 0]).banksOn s1.clk.raw (landRuns ((s1.cores[coreUnit 0]).basin openIn.basin) openIn waitingBlock) &&
         decide ((s1.chans[(7 : Fin 128)]).retrySlot = none ∧ (s1.chans[(7 : Fin 128)]).slots[(9 : Fin 64)] = none)) = true) := by decide +kernel

/-- A request of rill 0 for the first blocks of `arbitrated`. -/
def request : Request :=
  { job := 0, slot := 0, block := 0, blocks := 15, addr := 2880, chan := 3, write := false, due := 22501000, posted := 22500999 }

theorem witness_rillDataMoves_readOut :
    (let d := arbitrated 2
     let s : State := { rilled service [d] [] (fun r => { r with posted := [{ request with write := true }] }) with cores := (coreAs bothFull).cores }
     (s.rills[(0 : Fin 32)]).descs.find? (fun d => d.slot == 0 && d.op == 2 && d.open_) = some d ∧ s.job 0 = some service ∧
     (s.readOutFrom 0 service d 0 15).any (fun g => (((reachGrid g s).bind fun t => reach (t.cores[d.core 0]).fabricOut t).map (settleCore (d.core 0))).any fun s1 =>
       s1.canReadOut 0 d 0 15 && outRules (s1.cores[d.core 0]) d s1.clk.raw 0 15 &&
       (let last := s1.clk.raw + (64 * 15 + 255) / 256 - 1
        (reach last (modCore (d.core 0) (fun c => { c.modBasin d.basin (Basin.claim 2) with fabricOut := last + 1 }) s1)).isSome)) = true) := by
  decide +kernel

theorem witness_rillDataMoves_requests :
    (let s := rilled service [arbitrated 1] [] id
     (s.rills[(0 : Fin 32)]).posting = some (arbitrated 1) ∧ s.job 0 = some service ∧
     (s.rills[(0 : Fin 32)]).posted.length + inCycle s.grid (s.rills[(0 : Fin 32)]).grants < 16) ∧
    (let w : SlotWrite := { seq := 1, addr := 2880, bytes := List.replicate 64 1, held := 64 }
     let s : State := { running with sens := { running.sens with ctxs := modV running.sens.ctxs 23 fun c => { c with writes := [w] } } }
     (s.sens.ctxs[(23 : Fin 24)]).nextPost = some w) := by decide +kernel

/-! ### Channels -/

/-- A channel entry that issues in a state of which P holds. -/
theorem chanIssues_of {ch : Fin 128} {op : Nat} {e : Entry} {k : Fin 12} {j : Job} {per : Nat} {s : State} {P : State → Bool}
    (h : statedFirst ((s.chanHeads ch).filter fun x => x.2.2.1 == op && x.2.2.2.1 == e) = some (k, j, op, e, per) ∧ chanFormOk ch.1 op e = true ∧
      ((reachGrid (chanStated j (op, e, per) + (s.chans[ch]).slip) s).map (serveSlot ch)).any (fun s1 => decide (s1.job k = some j) && s1.phyOn ch &&
        !s1.chanWaits ch k (chanStated j (op, e, per)) && s1.chanReady ch k j per op e && P s1) = true) :
    ∃ s1, ChanIssues ch op e k j per s s1 ∧ P s1 = true := by
  obtain ⟨a, f, b⟩ := h
  cases h1 : (reachGrid (chanStated j (op, e, per) + (s.chans[ch]).slip) s).map (serveSlot ch) with
  | none => rw [h1] at b; simp at b
  | some s1 =>
    rw [h1] at b
    simp only [Option.any_some, Bool.and_eq_true, Bool.not_eq_true', decide_eq_true_eq] at b
    obtain ⟨⟨⟨⟨j1, p1⟩, w1⟩, r1⟩, x1⟩ := b
    exact ⟨s1, ⟨a, h1, j1, p1, f, w1, r1⟩, x1⟩

/-- A RILL_OUT of that block that has read it out in time. -/
def readOut : Desc :=
  { rillDesc 2 900 0 with entry := entryAt 900 [0, 2880, 0, 0, 0, 0], active := true, done := [true]
                          outs := [{ block := 0, began := 22800946, bytes := List.replicate 64 3 }] }

/-- A failed read of the job's that may be issued again. -/
def failedRead (timed : Bool) : Flight := { flight 2880 false with timed := timed, failedAt := 22800999 }

/-- The same channel with reads that have failed. -/
def failing (f : Flight) (s : State) : State := modChan 3 (fun c => { c with failed := [f] }) s

/-- A piece of a stream that waits for channel 3. -/
def piece : SlotWrite := { seq := 1, addr := 2880, bytes := List.replicate 64 1, held := 64, posted := some (22501000, 22500999) }

theorem witness_channelEntriesAndGrants_entries :
    (∃ s1, ChanIssues 3 1 (access 1010) 0 claiming 0 (onChan [(1, access 1010)] []) s1 ∧
      decide ((s1.chans[(3 : Fin 128)]).tag s1.clk.raw = some 0) = true) ∧
    (∃ s1, ChanIssues 3 2 (access 1010) 0 claiming 0 (onChan [(2, access 1010)] [readOut]) s1 ∧
      decide ((s1.chans[(3 : Fin 128)]).tag s1.clk.raw = some 0 ∧ (s1.outFor (accessOf (access 1010) 0 claiming 0 true)).isSome = true ∧
        Memory.wf 0 s1.mem.dram = true ∧ s1.place claiming 0 (chanFields (access 1010)).addr = some 2880) = true) ∧
    (∃ s1, ChanIssues 3 3 (entryAt 1000 [5]) 0 claiming 0 (onChan [(3, entryAt 1000 [5])] []) s1 ∧
      decide ((s1.chans[(3 : Fin 128)]).tag s1.clk.raw = some 0) = true) ∧
    (∃ s1, ChanIssues 3 4 (entryAt 1000 []) 0 claiming 0 (onChan [(4, entryAt 1000 [])] []) s1 ∧
      decide ((s1.chans[(3 : Fin 128)]).tag s1.clk.raw = some 0 ∧ (s1.chans[(3 : Fin 128)]).failed = []) = true) ∧
    (∃ s1, ChanIssues 3 4 (entryAt 1000 []) 0 claiming 0 (failing (failedRead true) (onChan [(4, entryAt 1000 [])] [])) s1 ∧
      decide ((s1.chans[(3 : Fin 128)]).tag s1.clk.raw = some 0 ∧
        (s1.chans[(3 : Fin 128)]).failed.find? (fun f => f.timed && f.job == 0 && s1.stands f && decide (f.failedAt < s1.clk.raw)) = some (failedRead true) ∧
        busCycles (failedRead true).blocks ≤ 160) = true) :=
  ⟨chanIssues_of (by decide +kernel), chanIssues_of (by decide +kernel), chanIssues_of (by decide +kernel), chanIssues_of (by decide +kernel),
   chanIssues_of (by decide +kernel)⟩

/-- A lane access past its job's list. -/
def past : Job := { claiming with extents := [{ base := 0, len := 983040, ro := false, shared := false, kind := 1, lanes := 1 }] }

theorem witness_channelEntriesAndGrants_lost : (withJobs [(0, past)]).place past 0 2880 = none := by decide +kernel

theorem witness_channelEntriesAndGrants_fetch :
    (let x : Fetch := { fetched (.group 0 1) with lines := [(2880, 1)], left := 1 }
     let s := fetching x running
     (s.chans[(3 : Fin 128)]).tag s.clk.raw = some 0 ∧ s.phyOn 3 = true ∧ s.busReady 3 = true ∧ (s.toRetry 3).filter (fun f => !f.timed) = none ∧
     earliest ((s.fetchesAt 3).filter fun x => decide (x.2.1.posted < s.grid) && s.eligible 3 none x.2.2.2) = some (22750000, x, 2880, 1)) := by
  decide +kernel

theorem witness_channelEntriesAndGrants_grants :
    (∀ v : Bool, let s : State := { running with sens := { running.sens with ctxs := modV running.sens.ctxs 23 fun c => { c with writes := [{ piece with void := v }] } } }
     (s.chans[(3 : Fin 128)]).tag s.clk.raw = some 0 ∧ ChanFree 3 s ∧
     earliest ((s.datedAt 3).filter fun x => s.mayGrant 3 x.2) = some (22501000, .stream 23 { piece with void := v }) ∧ Memory.wf 0 s.mem.dram = true) ∧
    (let s := rilled service [arbitrated 1] [] fun r => { r with posted := [request] }
     (s.chans[(3 : Fin 128)]).tag s.clk.raw = some 0 ∧ ChanFree 3 s ∧
     earliest ((s.datedAt 3).filter fun x => s.mayGrant 3 x.2) = some (22501000, .rill 0 request) ∧ request.write = false ∧
     (requestFlight s 0 request).isSome = true ∧ s.job request.job = some service) := by
  unfold ChanFree
  decide +kernel

/-- Wrong symbols of a block. -/
def wrong (b n : Nat) : List SymErr := (List.range n).map fun i => { block := b, symbol := i, flip := 1 }

theorem wrong_of_other {b n x : Nat} (h : x ≠ b) : blockErrs (wrong b n) x = [] := by
  have : ∀ y ∈ wrong b n, (y.block == x && decide (y.symbol < 68) && y.flip != 0) = false := by
    intro y hy
    simp only [wrong, List.mem_map, List.mem_range] at hy
    obtain ⟨i, _, rfl⟩ := hy
    have hb : (b == x) = false := by simp [Ne.symm h]
    simp [hb]
  simp only [blockErrs]
  rw [List.filter_eq_nil_iff.mpr (fun y hy => by rw [this y hy]; decide)]
  rfl

/-- A read of one block whose check ends in the present cycle. -/
def unchecked (retried : Bool) : Flight := { flight 0 false with ends := 22800990, retried := retried }

/-- What the code finds of that block with n wrong symbols. -/
def foundOf (n : Nat) : Bool := ((List.range 1).map (eccOf 0 (flight 0 false).data (wrong 0 n))).any (· == .bad)

theorem witness_eccRetriesRefreshAndScrub_found : foundOf 1 = false ∧ foundOf 2 = true := by decide +kernel

theorem witness_eccRetriesRefreshAndScrub_checks :
    (∀ r ∈ [true, false],
      let f := unchecked r
      let s := inTag f running
      (s.chans[(0 : Fin 128)]).slots[(63 : Fin 64)] = some f ∧ f.write = false ∧ f.own = false ∧ f.checked = false ∧ f.zero = false ∧
      f.data.length = 64 * f.blocks ∧ (s.chans[(0 : Fin 128)]).retrySlot = none ∧ f.kind = .rill ∧ s.job 0 = some service ∧ service.id = f.jid ∧
      (reach (f.ends + 15) s).any (fun s1 => decide ((s1.chans[(0 : Fin 128)]).retrySlot = none ∧
        s1.flightAt f = 0)) = true) ∧
    (∀ b, (blockErrs (wrong 0 1) b).length ≤ 1) ∧ (blockErrs (wrong 0 1) 0).length = 1 ∧
    (∀ n ∈ [2, 3], 2 ≤ (blockErrs (wrong 0 n) 0).length ∧ (blockErrs (wrong 0 n) 0).length ≤ 3) := by
  refine ⟨by decide +kernel, ?_, by decide, by decide⟩
  intro b
  by_cases h : b = 0
  · subst h; decide
  · simp [wrong_of_other h]

/-- The channel 127 in the lot of the present cycle, of which n refreshes have issued. -/
def refreshing (n : Nat) (s : State) : State :=
  modChan 127 (fun c => { c with refLot := s.clk.beat * 250 + s.clk.cyc / 1000 + 1, refK := n, refAt := s.clk.raw - 4 }) s

theorem witness_eccRetriesRefreshAndScrub_controller :
    (let s := failing (failedRead false) running
     s.phyOn 3 = true ∧ s.busReady 3 = true ∧ s.toRetry 3 = some (failedRead false) ∧ (s.chans[(3 : Fin 128)]).tag s.clk.raw = some 0) ∧
    (running.phyOn 127 = true ∧ running.parked = false ∧ running.clk.running = true ∧ running.ownRefresh 127 = some 1 ∧
      (running.chans[(127 : Fin 128)]).cmdFree ≤ running.clk.raw ∧ running.clk.cyc ≤ 1000 * (running.clk.cyc / 1000) + 859 ∧
      (∀ k : Fin 5, ((running.chans[(127 : Fin 128)]).banks[Fin.ofNat 16 (refreshSlot 1 1 k.1)]).busyTo ≤ running.clk.raw) ∧
      ((refreshing 4 running).chans[(127 : Fin 128)]).refAt + 4 ≤ running.clk.raw ∧ ((refreshing 4 running).chans[(127 : Fin 128)]).refLot = 90 * 250 + 2 ∧
      5 * 1 ≤ ((refreshing 5 running).chans[(127 : Fin 128)]).refK ∧ 1000 * 1 + 859 < ({ running with clk := at_ 90 1860 } : State).clk.cyc) ∧
    (running.busReady 127 = true ∧ running.lotNow 127 = none ∧ running.eligible 127 none 15 = true ∧ running.waitsAt 127 = false ∧
      running.lotScrubbed 127 = false ∧ running.det.strict = false ∧ (running.chans[(127 : Fin 128)]).tag running.clk.raw = some 0) := by decide +kernel

/-- Records of a load: a page of zeros at 0, one block of model store 0 behind it. -/
def zeroRec : LoadRec := { device := false, image := false, lba := 0, base := 0, len := 4096 }

/-- An image record. -/
def imageRec : LoadRec := { device := false, image := true, lba := 0, base := 4096, len := 4096 }

/-- RUNNING with a load of those records, of which `d` are done, with so many bytes left of each. -/
def loadingWith (d : List Bool) (n : Nat) : State :=
  { running with mem := { running.mem with loadState := 1, loadActive := true, loadList := [zeroRec, imageRec], loadDone := d, loadLeft := [n, n] } }

theorem witness_loadsWriteTheirRecords :
    (∀ d ∈ [[false, false], [false, true]],
      (loadingWith d 4096).mem.loadList[(0 : Fin 512).1]? = some zeroRec ∧ (loadingWith d 4096).mem.writing (0 : Fin 512).1 = true) ∧
    (let s := loadingWith [true, false] 4096
     s.mem.loadList[(1 : Fin 512).1]? = some imageRec ∧ s.mem.writing (1 : Fin 512).1 = true ∧ imageRec.image = true) ∧
    (∀ x ∈ [((0 : Fin 128), [false, false], 0, 0, 960), (4, [true, false], 1, 4096, 704)], let s := loadingWith x.2.1 4096
      ChanFree x.1 s ∧ s.datedAt x.1 = [] ∧ s.eligible x.1 none 15 = true ∧ s.det.strict = false ∧ s.loadAt x.1 = some x.2.2) ∧
    (loadingWith [] 4096).mem.loadLeft.getD 1 1 ≠ 0 ∧ (loadingWith [] 0).mem.loadLeft.getD 1 1 = 0 ∧
    Memory.wf 0 (loadingWith [] 0).mem.dram = true ∧ ∀ d : Fin 2, Memory.wf 0 ((loadingWith [] 0).mem.store[d]) = true := by
  unfold ChanFree
  decide +kernel

/-! ### Sensors and time -/

/-- Context n as given. -/
def ctxAs (n : Fin 24) (c : SnsCtx) (s : State) : State := { s with sens := { s.sens with ctxs := setV s.sens.ctxs n c } }

/-- A CSI-2 context of receiver 7, virtual channel 3 and RAW12, with a line of 64 bytes and frames of two lines. -/
def camera (f : Option Frame1) : SnsCtx :=
  { enable := true, receiver := 7, vc := 3, dt := 0x2C, lineUnits := 1, maxLines := 2, pages := 1, rate := 1, tmo := 1, frame := f, timer := 22701000 }

/-- A frame in progress. -/
def begun (b : Bool) : Frame1 := { fn := 4, begun := b, seq := 1 }

/-- READY with the camera in context 23. -/
def filming (f : Option Frame1) : State := ctxAs 23 (camera f) ready

/-- An Ethernet context whose frames take two packets, fed by filter 31 from port 3. -/
def listening (taken : Nat) : State :=
  let s := ctxAs 22 { camera (some (begun true)) with ether := true, lineUnits := 2, taken := taken } ready
  { s with sens := { s.sens with filts := setV s.sens.filts 31 { enable := true, ports := 8, ctx := 22, pkts := 2 } } }

theorem witness_sensorFrames_csi :
    (∀ x : Fin 3, let s := filming (if x = 0 then none else some (begun (x == 2)))
      s.hubOn 2 = true ∧ (s.sens.csis[(7 : Fin 8)]).lanes ≠ 3 ∧ (3 : BitVec 5).toNat ≤ 3 ∧ (s.sens.ctxs[(23 : Fin 24)]).enable = true ∧ (s.sens.ctxs[(23 : Fin 24)]).ether = false ∧
      (s.sens.ctxs[(23 : Fin 24)]).receiver = 7 ∧ (s.sens.ctxs[(23 : Fin 24)]).vc.toNat = (3 : BitVec 5).toNat ∧
      (s.sens.ctxs[(23 : Fin 24)]).frame = (if x = 0 then none else some (begun (x == 2))) ∧ (s.sens.ctxs[(23 : Fin 24)]).dt = 0x2C ∧ (s.sens.ctxs[(0 : Fin 24)]).enable = false) ∧
    supportedDt 0x2C = true ∧ supportedDt 0x12 = false ∧ HdrEcc.corrected ≠ .bad ∧
    (camera none).Fits 1 (List.replicate 64 1) ∧ ((filming (some (begun false))).sens.ctxs[(23 : Fin 24)]).freeSlot (boundSlots 23 (filming none)) = some 0 := by
  unfold SnsCtx.Fits
  decide +kernel

theorem witness_sensorFrames_ethernet :
    ((List.replicate 59 (0 : Byte)).length + 4 < 64) ∧ 9022 < 9019 + 4 ∧ ready.portOn 3 = true ∧ State.reset.portOn 3 = false ∧
    (∀ k : Fin 2, let s := listening k.1
      s.portOn 3 = true ∧
      let bs := List.replicate 60 (0 : Byte)
      64 ≤ bs.length + 4 ∧ bs.length + 4 ≤ 9022 ∧ ¬(be bs 0 6 = 0x0180C200000E ∧ be bs 12 2 = 0x88F7) ∧
      s.sens.filts.toList.find? (Filter.matches_ 3 bs) = some { enable := true, ports := 8, ctx := 22, pkts := 2 } ∧
      (s.sens.ctxs[(22 : Fin 24)]).enable = true ∧ (s.sens.ctxs[(22 : Fin 24)]).ether = true ∧
      (s.sens.ctxs[(22 : Fin 24)]).frame = some (begun true) ∧ (s.sens.ctxs[(22 : Fin 24)]).Fits 0 bs ∧ pktsOf 22 s = 2 ∧
      (s.sens.ctxs[(22 : Fin 24)]).taken = k.1) := by
  unfold SnsCtx.Fits
  decide +kernel

/-- A context with frames whose headers have not landed. -/
def closing (checked : Bool) : State := ctxAs 23 { camera none with ending := [{ begun true with checked := checked }] } ready

theorem witness_sensorFrames_ends :
    ((closing false).sens.ctxs[(23 : Fin 24)]).ending.find? (fun f => !f.checked) = some (begun true) ∧
    ((closing true).sens.ctxs[(23 : Fin 24)]).ending = [{ begun true with checked := true }] ∧
    (∀ w ∈ ((closing true).sens.ctxs[(23 : Fin 24)]).writes, w.seq = (begun true).seq → w.void = true) ∧ (closing true).clk.cyc ≠ 249999 ∧
    ({ closing true with clk := at_ 90 249999 } : State).clk.cyc = 249999 ∧
    (filming none).rst.episode = none ∧ ((filming none).sens.ctxs[(23 : Fin 24)]).enable = true ∧
    (reach (((filming none).sens.ctxs[(23 : Fin 24)]).timer + 100000 * ((filming none).sens.ctxs[(23 : Fin 24)]).tmo.toNat) (filming none)).isSome = true := by
  decide +kernel

/-- READY with 802.1AS on port 3, the servo in a state. -/
def synced (st : BitVec 3) (syncs : Nat) (f : Port → Port) : State :=
  { ready with cfg := { ready.cfg with timeSource := false, timePorts := 8 }
               time := { ready.time with state := st, slave := some 3, syncs := syncs, gm := some 5, offset := 0, twoStep := some (3, 9, 22801000) }
               sens := { ready.sens with ports := modV ready.sens.ports 3 fun p => f { p with exchanges := 4 } } }

/-- A Sync that says d ns more than corrected time. -/
def syncMsg (d : Nat) (gm : Quad) : SyncMsg := { domain := 0, logInt := -3, twoStep := false, seq := 9, gm := gm, time := BitVec.ofNat 64 (22801000 + d) }

theorem witness_timeSynchronisation :
    (synced 0 0 id).asPort 3 = true ∧ (synced 0 0 id).asPort 2 = false ∧
    (((synced 0 0 fun p => { p with pdelayWait := 1 }).sens.ports[(3 : Fin 4)]).pdelayWait = 1) ∧
    (((synced 0 0 fun p => { p with pdelayWait := 2 }).sens.ports[(3 : Fin 4)]).pdelayWait = 2) ∧
    (-6 : Int) < -5 ∧
    (∀ x ∈ [((0 : BitVec 3), 3), (0, 15), (1, 3), (2, 3), (3, 3)], let s := synced x.1 x.2 id
      s.time.slave = some 3 ∧ -5 ≤ (syncMsg 0 5).logInt ∧ (syncMsg 0 5).logInt ≤ 0 ∧ (s.sens.ports[(3 : Fin 4)]).barred = false ∧
      s.time.twoStep = some (3, (syncMsg 0 5).seq, 22801000) ∧ s.time.state = x.1 ∧ 4 ≤ (s.sens.ports[(3 : Fin 4)]).exchanges ∧ s.time.syncs = x.2 ∧
      s.time.gm = some (syncMsg 0 5).gm ∧
      (((syncMsg 1000000 5).time - s.time.at_ s.clk.raw).toInt.natAbs ≤ 1000000) ∧
      1000000 < (((syncMsg 1000001 5).time - s.time.at_ s.clk.raw).toInt).natAbs) := by decide +kernel

/-! ### The baseband DSP and the IQ port -/

/-- READY with the DSP running at address 100, where the word w stands. -/
def dspAt (w : Word) (f : Dsp → Dsp) : State :=
  let d := f { ready.dsp with run := .running, pc := 100 }
  { ready with dsp := { d with prog := Cells.put 0 [] d.pc.toNat w } }

/-- A MAC of pair 3 that reads X through generator 0 and C through generator 1. -/
def macOp : MacOp := { pair := 3, agx := 0, agy := 2, agc := 1, bsel := 0, noadv := false }

/-- A register-format instruction, of special register n. -/
def regOpOf (n : BitVec 6) : RegOp := { dst := 3, sra := 1, srb := 2, sh := n }

theorem witness_dspArithmetic :
    (∀ r ∈ macRows macOp, let s := dspAt (macWordOf r.1.2 macOp) fun d => { d with ags := modV d.ags 1 fun g => { g with ag := 4095 } }
     s.dsp.run = .running ∧ s.dsp.fetched = macWordOf r.1.2 macOp ∧ s.dsp.runsOff = false ∧
     macOperands macOp = some ((0, 0), (2, 1)) ∧ beyond 0 (s.dsp.atIssue.ags[(0 : Fin 8)]).ag = false ∧
     beyond 2 (s.dsp.atIssue.ags[(1 : Fin 8)]).ag = false) ∧
    (∀ k ∈ [0, 1, 2, 3, 4, 5], ∀ n ∈ [(0 : BitVec 6), 63], let s := dspAt (regWordOf k (regOpOf n)) id
     s.dsp.run = .running ∧ s.dsp.fetched = regWordOf k (regOpOf n) ∧ s.dsp.runsOff = false) ∧
    (∀ k ∈ [6, 7], ∀ n ∈ [(0 : BitVec 6), 4, 5, 6, 7, 14], let s := dspAt (regWordOf k (regOpOf n)) id
     s.dsp.run = .running ∧ s.dsp.fetched = regWordOf k (regOpOf n) ∧ s.dsp.runsOff = false ∧
     (special (regOpOf n).sh.toNat { s with dsp := s.dsp.atIssue }).isSome = true) := by decide +kernel

/-- The DSP in a loop body with the word w next. -/
def looping (w : Word) : State := dspAt w fun d => { d with lc := 2, ls := 100, le := 103 }

/-- A memory-format instruction. -/
def memOpOf (m : BitVec 2) (n : BitVec 6) : MemOp := { reg := 5, ag := 7, mem := m, sh := n }

theorem witness_dspMemoryAndControl :
    (∀ k ∈ [0, 1, 2], ∀ m ∈ [(0 : BitVec 2), 1], ∀ n ∈ [(0 : BitVec 6), 39, 40],
     let s := dspAt (memWordOf k (memOpOf m n)) fun d => { d with ags := modV d.ags 7 fun g => { g with ag := 0x3FFE } }
     s.dsp.run = .running ∧ s.dsp.fetched = memWordOf k (memOpOf m n) ∧ s.dsp.runsOff = false ∧ Cells.wf 0 s.dsp.x = true ∧
     Cells.wf 0 s.dsp.y = true ∧ Cells.wf 0 s.dsp.c = true ∧ (memSel (memOpOf m n).mem).isSome = true ∧
     beyond 0 (s.dsp.atIssue.ags[(7 : Fin 8)]).ag = false ∧ beyond 1 (s.dsp.atIssue.ags[(7 : Fin 8)]).ag = false ∧
     doorbellOf 0 0x3FFE = none ∧ doorbellOf 1 0x3FFE = none) ∧
    (∀ x ∈ ctlRows 5 6 3 true 1, let s := dspAt x.1.2 id
     s.dsp.run = .running ∧ s.dsp.fetched = x.1.2 ∧ s.dsp.runsOff = false ∧ s.dsp.inBody = false) ∧
    (let s := dspAt (ctlWordOf 5 0 (7 + 2 ^ 16 * 31)) fun d => { d with pc := 16351 }
     s.dsp.run = .running ∧ s.dsp.fetched = ctlWordOf 5 0 (7 + 2 ^ 16 * 31) ∧ s.dsp.runsOff = false ∧ s.dsp.inBody = false ∧
     s.dsp.pc.toNat + (31 : BitVec 5).toNat + 1 ≤ 16383) ∧
    (∀ x ∈ ctlRows 5 6 3 true 1, (looping x.1.2).dsp.run = .running ∧ (looping x.1.2).dsp.inBody = true ∧
     (looping x.1.2).dsp.fetched = x.1.2 ∧ (looping x.1.2).dsp.runsOff = false) ∧
    ((dspAt 0x7F000000 id).dsp.run = .running ∧ (dspAt 0x7F000000 id).dsp.traps .illegal = true) ∧
    (looping (ctlWordOf 0 0 5)).dsp.traps .loopBody = true ∧
    (dspAt (memWordOf 0 (memOpOf 2 0)) fun d => { d with ags := modV d.ags 7 fun g => { g with ag := 4096 } }).dsp.traps .address = true ∧
    (let s := dspAt 0 fun d => { d with irqEn := 0x88, irqPend := 0xF9, ints := true, run := .waiting, mask := 1 }
     (s.dsp.irqEn &&& s.dsp.irqPend).getLsbD 3 = true ∧ (∀ m, m < 3 → (s.dsp.irqEn &&& s.dsp.irqPend).getLsbD m = false) ∧
     s.dsp.run = .waiting ∧ s.dsp.ints = true ∧ s.dsp.branches = []) := by decide +kernel

/-- READY with pair 1 as given. -/
def pairAs (f : IqPair → IqPair) : State := { ready with iq := { ready.iq with rclk := true, pairs := modV ready.iq.pairs 1 f } }

theorem witness_iqSamplesAndRamps :
    (∀ k : Fin 2, let s := pairAs fun p => { p with mode := 1, rxLen := 16, rxwp := 15, rxrd := 0, count := if k = 0 then 0 else 255 }
      (s.iq.pairs[(1 : Fin 2)]).mode ≠ 0 ∧ ¬(s.iq.rate = 3 ∧ s.iq.pll = false) ∧ (s.iq.pairs[(1 : Fin 2)]).rxLen ≠ 0 ∧ Cells.wf 0 s.dsp.x = true ∧ s.iq.rclk = true ∧ (s.iq.pairs[(1 : Fin 2)]).tx = none ∧
      ((s.iq.pairs[(1 : Fin 2)]).count + 1 < 2 ^ (s.iq.pairs[(1 : Fin 2)]).blockLog.toNat ↔ k = 0)) ∧
    (∀ k : Fin 2, let s := pairAs fun p => { p with mode := 1, txLen := 16, txwp := BitVec.ofNat 14 k.1, tx := some { u := 22797000, e := none, step := 16 } }
      (s.iq.pairs[(1 : Fin 2)]).tx = some { u := 22797000, e := none, step := 16 } ∧ ({ u := 22797000, e := none, step := 16 } : Sending).active s.clk.raw = true ∧
      ¬(s.iq.rate = 3 ∧ s.iq.pll = false) ∧ (s.iq.pairs[(1 : Fin 2)]).txLen ≠ 0 ∧
      ((s.iq.pairs[(1 : Fin 2)]).txrd = (s.iq.pairs[(1 : Fin 2)]).txwp ↔ k = 0)) ∧
    (let s := pairAs fun p => { p with mode := 1, arm := some (91, 0) }
     s.clk.running = true ∧ s.clk.cyc < 250000 ∧ (s.iq.pairs[(1 : Fin 2)]).arm = some (s.clk.beat + 1, 0)) ∧
    (let s := pairAs fun p => { p with mode := 1, fired := some 22800900 }
     (s.iq.pairs[(1 : Fin 2)]).fired = some 22800900 ∧ (s.iq.pairs[(1 : Fin 2)]).tx = none ∧ (s.iq.pairs[(1 : Fin 2)]).mode ≠ 0 ∧ (reach (22800900 + 160) s).isSome = true) ∧
    (∀ n ∈ [15, 16, 31, 32], let x : Sending := { u := 22797000, e := none, step := n }
      let s := pairAs fun p => { p with mode := 1, tx := some x }
      (s.iq.pairs[(1 : Fin 2)]).fired = none ∧ (s.iq.pairs[(1 : Fin 2)]).tx = some x ∧ (reach (x.due s.clk.raw) s).isSome = true) := by decide +kernel

/-! ### The learned receivers -/

/-- READY with pair 1 as given and words in its handoff area. -/
def radioAs (hs : List (Nat × Word)) (f : Radio → Radio) : State :=
  { ready with radio := modV ready.radio 1 f
               dsp := { ready.dsp with y := hs.foldl (fun y h => Cells.put 0 y (12288 + h.1) h.2) [] } }

/-- A radio manifest in force. -/
def someMan : RadioMan := { image := 0, lenCe := 1024, lenDm := 1024, energy := 2, digest := [] }

/-- A slot of E 7. -/
def slot7 : RadioSlot := { e := 7 }

/-- A request of a phase for it, whose deadline lies 100 cycles ahead. -/
def phase7 (dm copied : Bool) : Phase := { dm := dm, e := 7, ready := 22801000, deadline := 22801100, copied := copied }

theorem witness_learnedReceivers_doorbells :
    (let s := radioAs [(0x26C, 7)] fun r => { r with active := some someMan }
     Cells.wf 0 s.dsp.y = true ∧ Cells.wf 0 (s.cores[radioUnit 1]).pad = true ∧ handoff 1 0x26C s = 7 ∧ (s.radio[(1 : Fin 2)]).learnedEn = true ∧
     (s.radio[(1 : Fin 2)]).active ≠ none ∧ (s.radio[(1 : Fin 2)]).queue.length < 2 ∧ (∀ x ∈ (s.radio[(1 : Fin 2)]).slots, x.e ≠ 7) ∧
     (s.radio[(1 : Fin 2)]).decoding = none ∧ bitOf (handoff 1 0x26D s).toNat 18 = false) ∧
    (let s := radioAs [(0x26C, 7), (0x26D, 0x40000)] fun r => { r with slots := [slot7], active := some someMan }
     let w := handoff 1 0x26D s
     let m : Quad := BitVec.ofNat 64 ((handoff 1 0x26E s).toNat + (handoff 1 0x26F s).toNat * 2 ^ 32)
     slotOfE 1 7 s = some slot7 ∧ slot7.ended = false ∧ slot7.decided = false ∧ bitOf w.toNat 18 = true ∧
     ¬(bits w.toNat 8 5 ≠ 0 ∧ bits m.toNat 39 0 = 0) ∧ (s.radio[(1 : Fin 2)]).queue.length < 2 ∧ bits w.toNat 4 3 ≠ 3) ∧
    (let s := radioAs [(0x26D, 0x18)] id
     bits (handoff 1 0x26D s).toNat 4 3 = 3) := by decide +kernel

theorem witness_learnedReceivers_endSlot :
    (let s := radioAs [(0x26C, 7), (0x26D, 0x40200)] fun r => { r with slots := [slot7] }
     let w := handoff 1 0x26D s
     let m : Quad := BitVec.ofNat 64 ((handoff 1 0x26E s).toNat + (handoff 1 0x26F s).toNat * 2 ^ 32)
     bitOf w.toNat 18 = true ∧ ¬(bits w.toNat 8 5 ≠ 0 ∧ bits m.toNat 39 0 = 0) ∧ lengthBad w m = false) := by decide +kernel

theorem witness_learnedReceivers_phases :
    (let s := radioAs [] fun r => { r with queue := [phase7 false false] }
     (s.radio[(1 : Fin 2)]).queue.find? (fun p => !p.copied) = some (phase7 false false) ∧ (phase7 false false).dm = false ∧ (s.radio[(1 : Fin 2)]).phase = none) ∧
    (∀ dm : Bool, let s := radioAs [] fun r => { r with queue := [phase7 dm true], active := some someMan, slots := [{ slot7 with ceOk := true }] }
     (s.radio[(1 : Fin 2)]).phase = none ∧ (s.radio[(1 : Fin 2)]).queue = [phase7 dm true] ∧ (s.radio[(1 : Fin 2)]).active ≠ none ∧
     (reach (max (phase7 dm true).ready (s.radio[(1 : Fin 2)]).freeAt) s).any (fun s1 =>
       decide (0 < ((phase7 dm true).deadline - BitVec.ofNat 32 s1.clk.raw).toInt)) = true ∧
     slotOfE 1 (phase7 dm true).e s = some { slot7 with ceOk := true }) ∧
    (∀ dm : Bool, let s := radioAs [] fun r => { r with phase := some (phase7 dm true), slots := [slot7], exitEn := dm }
     (s.radio[(1 : Fin 2)]).phase = some (phase7 dm true) ∧ slotOfE 1 7 s = some slot7 ∧ slot7.ended = false ∧ slot7.decided = false ∧ slot7.classic = false ∧
     (reach (rawOf (phase7 dm true).deadline s.clk.raw) s).isSome = true ∧ 
     (s.radio[(1 : Fin 2)]).exitEn = dm ∧
     (toExit 1 0 s).any (fun s1 => decide ((s1.radio[(1 : Fin 2)]).phase = some (phase7 dm true) ∧ (s1.cores[radioUnit 1]).eng.passes = [] ∧
       (s1.cores[radioUnit 1]).vec.entry = none ∧ (s1.cores[radioUnit 1]).seq.put = none ∧ s1.det.strict = false ∧
       (s1.radio[(1 : Fin 2)]).exitEn = dm ∧ confAtLeast (Cells.get 0 (s1.cores[radioUnit 1]).vec.cistern 0) 0 = true)) = true) ∧
    -- the same with the exit in the timetable of the phase
    (let m := { someMan with timetable := [(0x17, { beat := 0, cycle := 0, words := [0] })] }
     let s := radioAs [] fun r => { r with active := some m, phase := some (phase7 false true), slots := [slot7] }
     (toExit 1 0 s).any (fun s1 => decide ((s1.radio[(1 : Fin 2)]).phase = some (phase7 false true) ∧ (s1.radio[(1 : Fin 2)]).exitEn = false)) = true) := by
  decide +kernel

theorem witness_learnedReceivers_decodes :
    (let s := radioAs [] fun r => { r with slots := [{ slot7 with e := 22701000 }] }
     (s.radio[(1 : Fin 2)]).slots.find? (fun x => !x.decided) = some { slot7 with e := 22701000 } ∧ (reach (rawOf (22701000 + 170000) s.clk.raw) s).isSome = true) ∧
    (∀ d ∈ [Decode.header [], .data slot7 true [], .own [] 0], let s := radioAs [] fun r => { r with decoding := some d, decDue := 22801235 }
     (s.radio[(1 : Fin 2)]).decoding = some d ∧ (s.radio[(1 : Fin 2)]).decQueue = [] ∧ (reach (s.radio[(1 : Fin 2)]).decDue s).isSome = true) ∧
    (let s : State := { ready with dsp := { ready.dsp with x := Cells.put 0 [] 0x3E80 252 } }
     (Cells.get 0 s.dsp.x 0x3E80).toNat = 252 ∧ Cells.wf 0 s.dsp.x = true ∧ (Cells.get 0 ready.dsp.x 0x3E80).toNat = 0) := by decide +kernel

/-! ### Reset, start and monitor -/

theorem witness_resetSources :
    ready.pins.plateHot = false ∧ ready.rst.refclk = true ∧ ({ ready with rst := { ready.rst with refclk := false } } : State).rst.refclk = false ∧
    (ready.rst.removal = false ∧ ready.rst.absent = false ∧ ready.rst.episode = none ∧ ready.dev = .ready ∧ ready.rst.lockstep = false ∧
      ready.rst.clockFault = false ∧ ready.dev ≠ .booting) ∧
    (let s : State := { ready with rst := { ready.rst with removal := true, hostReset := true, lockstep := true } }
     s.rst.removal = true ∧ s.rst.hostReset = true ∧ s.rst.lockstep = true ∧ s.rst.episode = none) ∧
    booting9.dev = .booting ∧
    (let s : State := { ready with dev := .safeStop, rst := { ready.rst with refclk := false, clockFault := true } }
     s.rst.episode = none ∧ s.rst.clockFault = true) ∧
    ({ ready with pins := { ready.pins with mainIn := false } } : State).pins.mainIn = false := by decide +kernel

/-- The power-on episode with all sources released, the tally as given. -/
def released (tally : BitVec 3) : State :=
  { State.reset with rst := { State.reset.rst with episode := some { reach := 0 }, supplyLow := false, absent := false, mrst := false, wdt := false, refclk := true }
                     boot := { State.reset.boot with tally := tally, bkpValid := true } }

/-- BOOTING in a step. -/
def bootingIn (n i : Nat) (parked : Bool) : State :=
  { booting9 with boot := { booting9.boot with step := n, interval := i }, mem := { booting9.mem with parkValid := parked, loadActive := parked } }

theorem witness_startSteps :
    ready.rst.episode = none ∧
    (∀ k ∈ [(0 : BitVec 3), 4], Released { reach := 0 } (released k) ∧ (tallyAt (released k) = 4 ↔ k = 4) ∧ (released k).asMade = true ∧
      ((released k).sec.slots[(0 : Fin 4)]).valid = true ∧ (released k).sec.revoked = 0 ∧ (released k).sec.secverMin = 0 ∧
      (released k).boot.flashOp = none ∧ (released k).sec.fuseOp = none ∧ (released k).jrnl.erasing = none) ∧
    (∀ i ∈ [0, 1, 2, 9, 10], (bootingIn 6 i false).booting 6 = true ∧ (bootingIn 6 i false).boot.interval = i) ∧
    (∀ p : Bool, (bootingIn 7 0 p).booting 7 = true ∧ (bootingIn 7 0 p).mem.parkValid = p) ∧ (bootingIn 8 0 false).booting 8 = true ∧
    Memory.wf 0 (bootingIn 7 0 false).mem.dram = true ∧ (bootingIn 9 0 true).booting 9 = true ∧ (bootingIn 9 0 true).dsp.run = .stopped ∧ (bootingIn 9 0 true).mem.loadActive = true := by
  unfold Released
  decide +kernel

/-- A record. -/
def oneRec : JRec := { code := 1, payload := [], time := 0, episode := 3, state := 2 }

/-- READY with one record to commit. -/
def committing (phase : Option (Fin 3)) (erasing : Option Nat) (removal : Bool) : State :=
  { ready with jrnl := { ready.jrnl with queue := [oneRec], phase := phase, pos := 1024, erasing := erasing
                                         removal := if removal then some oneRec else none } }

theorem witness_journalWriter :
    Cells.wf 0xFF ready.boot.flash = true ∧ ready.journaling = true ∧ ready.jrnl.queue = [] ∧
    (∀ p ∈ [none, some 0, some 1, some 2], let s := committing p (some 7) false
      Cells.wf 0xFF s.boot.flash = true ∧ s.journaling = true ∧ s.jrnl.queue = [oneRec] ∧
      s.jrnl.erasing ≠ some (s.jrnl.pos / 1024) ∧ s.jrnl.phase = p) ∧
    (∀ r : Bool, let s := committing none (some 765) r
      s.journaling = true ∧ s.jrnl.erasing = some 765 ∧ (s.jrnl.removal = none ↔ r = false)) := by decide +kernel

theorem witness_monitorLines_refused :
    (monRowOf .monitorSt).isSome = true ∧ (monRowOf (.rr [some 0])).isSome = true ∧ State.reset.monTakes = false ∧ ready.monTakes = true ∧
    wrRow.allowed booting9 = false ∧ srRow.allowed (park ready) = false ∧ fwRow.allowed ready = true ∧ fwRow.argc [some 0].length = false ∧
    fwRow.argc [some 0, some 1].length = true ∧ fwRow.busy flashing = true ∧ fwRow.busy ready = false ∧ none ∈ [some 0, (none : Option Nat)] ∧
    [some 1, some 65536] = [1, 65536].map some ∧ fwRow.args [1, 65536] ready = false := by decide +kernel

theorem witness_monitorLines_accepted :
    (∀ x ∈ [(rrRow, [0xF000000000, 64]), (wrRow, [0xF000000000, 4294967295]), (mrRow, [479 * 2 ^ 30, 256]),
        (srRow, [63, 8388608 - 128, 32]), (swRow, [63, 8388600, 5]), (swRow, [63, 2 * 8388608 - 8, 5]), (logRow, []), (logRow, [256]), (jrRow, [4294967295, 64]),
        (fwRow, [0x1000000, 65536])], Accepted x.1 x.2 ready) := by
  unfold Accepted
  decide +kernel

theorem witness_monitorLines_noCount : Accepted rrRow [0xF000000000] ready := by
  refine ⟨by decide, by decide, by decide, by decide, ?_⟩
  have h : countArg 0 1 64 [0xF000000000] ≤ 64 := by
    have := Nat.mod_lt (Config.defaultCount 0) (by decide : 0 < 64)
    simp only [countArg, List.length_singleton, Nat.lt_irrefl, if_false]
    omega
  have e : rrRow.args [0xF000000000] ready = inRegs 0xF000000000 (countArg 0 1 64 [0xF000000000]) := by
    simp [rrRow, countOk, arg]
  rw [e]
  generalize countArg 0 1 64 [0xF000000000] = n at h
  simp only [inRegs, decide_eq_true_eq, show regBase = 0xF000000000 by decide]
  omega

theorem witness_monitorLines_cores :
    ready.coreOn 63 = true ∧ (settleCore (coreUnit 63) ready.lined).coreFree 63 = true ∧
    Memory.wf 0 ((settleCore (coreUnit 63) ready.lined).cores[coreUnit 63]).pad = true ∧
    ((settleCore (coreUnit 63) ready.lined).cores[coreUnit 63]).narrow = [] ∧
    (∀ b ∈ banksOf [(8388600, 8)], (((settleCore (coreUnit 63) ready.lined).cores[coreUnit 63]).banks[b]).at_ (settleCore (coreUnit 63) ready.lined).clk.raw = .on) ∧
    (let s := settleCore (coreUnit 63) ({ ready with cores := modV ready.cores 63 (bank31 .sleepRet 5) } : State).lined
     s.coreOn 63 = true ∧ s.coreFree 63 = true ∧ (s.cores[coreUnit 63]).narrow = [] ∧
     ∀ b ∈ banksOf [(8388600, 8)], ((s.cores[coreUnit 63]).banks[b]).at_ s.clk.raw = .sleepRet) ∧
    State.reset.lined.coreOn 63 = false ∧
    (settleCore (coreUnit 0) running.lined).coreFree 0 = false ∧ running.lined.dom.phy ≠ 0 := by decide +kernel

/-- READY in the data phase of fw for two bytes. -/
def fwPhase (bs : List Byte) : State := { ready with mon := { ready.mon with fw := some (65536, 2, bs) } }

theorem witness_monitorLines_data :
    ready.mon.fw = none ∧ (fwPhase [1, 2]).mon.fw = some (65536, 2, [1, 2]) ∧ (fwPhase []).pins.uart = true ∧ ([1, 2] : List Byte).length + 1 < 2 + 4 ∧
    (let d : List Byte := [1, 2]
     let c := natLE 4 (crc32c d).toNat
     leNat ((d ++ c).drop 2) = (crc32c d).toNat ∧ (d ++ c).take 2 = d ∧ (d ++ c.dropLast).length + 1 = 2 + 4 ∧
     leNat ((d ++ [0, 0, 0, 0]).drop 2) ≠ (crc32c d).toNat) ∧ (fwPhase []).boot.flashOp = none ∧ ready.dev ∈ [DevState.moored, .ready] := by decide +kernel

/-! ### Worked cases of the spec -/

/-- The tile of chapter 04: row 0 and columns 0 and 1 of its CB16 pass; what the case leaves open is zero. -/
def workedPass : PassData :=
  let zeros (n : Nat) : List Nat := List.replicate n 0
  let acts : List (List Nat) :=
    [[12, 253, 7, 0, 25, 248, 4, 1], [241, 6, 2, 9, 255, 0, 11, 252], [3, 3, 249, 18, 5, 254, 0, 8], [250, 10, 1, 244, 4, 7, 247, 2]]
  let codes : List (List Nat) :=
    [[0x92, 0x74, 0xB1, 0x03, 0x05, 0x29, 0x36, 0x4D], [0x5A, 0x2C, 0x68, 0xD1, 0xB2, 0x87, 0xE1, 0x92],
     [0xF4, 0x39, 0x26, 0xA5, 0x1C, 0xA6, 0x43, 0x50], [0x2B, 0x9E, 0x53, 0x6C, 0x83, 0x42, 0x9B, 0xF1]]
  let bytes (l : List Nat) : Array Byte := (l.map (BitVec.ofNat 8)).toArray
  { f := passFields { beat := 0, cycle := 0, words := [0x00004040, 0x00000004, 0] }, d := 8, fp := true
    act := bytes (acts.flatMap fun l => l ++ zeros 248)
    wgt := bytes ([0, 0, 0x40, 0x3F, 0, 0, 0, 0x3F] ++ zeros 120 ++ [0x18, 0x20] ++ zeros 30 ++ codes.flatMap fun l => l ++ zeros 120)
    init := #[]
    outa := bytes ([0x15, 0x42] ++ zeros 62 ++ [0x52, 0xC2] ++ zeros 62)
    outw := bytes ([0x20, 0xBD, 0x80, 0x3C] ++ zeros 60 ++ [0xC0, 0x3C, 0x00, 0xBC] ++ zeros 60)
    book := bytes [0x00, 0x30, 0x38, 0x3C, 0x40, 0x44, 0x48, 0x4C, 0xB0, 0xB8, 0xBC, 0xC0, 0xC4, 0xC8, 0xCC, 0xD0], bfmt := 1 }

theorem test_worked_tile_column0 : (workedPass.element 0 0).1 = 0x4109C800 := by decide +kernel

theorem test_worked_tile_column1 : (workedPass.element 0 1).1 = 0x3ECC0000 := by decide +kernel

/-- One stage on element 0 of a block, the rest zero; what it leaves. -/
def stageOn (g : Stage) (int : Bool) (x : Word) : Word :=
  f32Word (((runStage [] 0 0 g { x := laneValue int x :: List.replicate 31 (.zero false), xint := int }).1).x.headD .nan)

/-- A MUL by 0.75 with IFMT FP32 (R147). -/
def mul75 (m : Bool) : Stage := { op := 3, ifmt := 0, match_ := m, bsrc := 1, addr := 0, qfmt := 0, zero := true, imm := 0x3F400000 }

theorem test_cascade_mul_fused : stageOn (mul75 false) true 16777221 = 0x4B400004 := by decide +kernel

theorem test_cascade_mul_match : stageOn (mul75 true) true 16777221 = 0x4B400003 := by decide +kernel

/-- Tile A of R150's case. -/
def amaxCase : Flagged (List Sys2Proof.Machine.Num × Sys2Proof.Machine.Num) :=
  amaxQuant { op := 0x13, ifmt := 0, match_ := false, bsrc := 0, addr := 0, qfmt := 0, zero := true, imm := 0 } .f32
    ([0x3EC00000, 0x40540000, 0x417E0000].map ofF32)

theorem test_amax_quant : f32Word amaxCase.1.2 = 0x3E000000 ∧ amaxCase.1.1.map (fun x => (Fmt.i8.round x).code) = [3, 26, 127] := by decide +kernel

/-- The row-statistic slot of R152's case before a tile. -/
def softRow (l : Word) (h0 h1 : Word) : Nat → Word := fun a => if a = 0 then l else if a = 64 then h0 else if a = 96 then h1 else 0

/-- ROWSUM_UPD or CLOSE_SOFTMAX at address 0. -/
def softStage : Stage := { op := 0x16, ifmt := 0, match_ := false, bsrc := 5, addr := 0, qfmt := 0, zero := true, imm := 0 }

theorem test_softmax_sum :
    (rowSum softStage (softRow 0x42000000 0x3F800000 0x40000000) 1 0 (List.replicate 32 Sys2Proof.Machine.Num.one)).1 = (0, 0x422F16AC) := by decide +kernel

theorem test_softmax_close :
    ((closeSoftmax softStage .f32 (softRow 0x428F16AC 0x3F800000 0x40000000) 0 1 0 [Sys2Proof.Machine.Num.one]).1.map f32Word) = [0x3BA87E14] := by decide +kernel

theorem test_address_interleave :
    chanOf 0x4123456789 = 108 ∧ lineOf 0x4123456789 = lineAddr 108 359156 ∧ lineLeft 0x4123456789 = 5 ∧
    chanOf 0x11D00 = 12 ∧ chanOf 0x120C0 = 13 := by decide

/-- R278's serving job and its sequence. -/
def laneJob : Job := { service with
  extents := [{ base := 0x1005900000, len := 64 * 7864320, ro := false, shared := false, kind := 1, lanes := 64 }]
  run := [{ index := 512, list := [0, 0, 0, 117] }] }

theorem test_lane_window :
    (modSeq 117 (fun q => { q with kvBase := 0x1499700000, pages := 8 }) (withJobs [(0, laneJob)])).place laneJob 512 0x1006F92C00 = some 0x1499712C00 ∧
    chanOf 0x1006F92C00 = 16 ∧ chanOf 0x1499712C00 = 16 := by decide +kernel

/-- A placed job of R265's case. -/
def sharing (id : BitVec 8) (sh : BitVec 10) (cls use : Nat) : Job :=
  { service with id := id, hdr := { service.hdr with cls := cls }, shares := sh, frameUse := use, wholeFrame := true }

/-- The same after a frame with that use. -/
def afterFrame (use : Fin 12 → Nat) (s : State) : State :=
  { frameShares s with jobs := { (frameShares s).jobs with slots := Vector.ofFn fun i => ((frameShares s).job i).map fun j => { j with frameUse := use i } } }

/-- The three jobs of R265's case. -/
def sharers : State := withJobs [(0, sharing 21 600 1 180000000), (1, sharing 22 300 1 150000000), (2, sharing 23 100 2 70000000)]

theorem test_shares :
    let t := frameShares (afterFrame (fun i => if i = 0 then 180000000 else if i = 1 then 150000000 else 70000000) sharers)
    (t.job 0).map (·.bal.toInt) = some (-116250000) ∧ (t.job 1).map (·.bal.toInt) = some 58125000 ∧ (t.job 2).map (·.bal.toInt) = some 58125000 ∧
    shedNext t = some 2 := by decide +kernel

/-- The time base of R320's case after its step, and after its change of rate. -/
def lockedTime : TimeBase := TimeBase.stepTo 12000000000 1735689600000000000 21990233 {}

theorem test_corrected_time :
    lockedTime.at_ 12500000000 = 1735689600500010000 ∧ (lockedTime.setRate 12500000000 16492674).at_ 13000000000 = 1735689601000017499 := by decide

theorem test_dsp_word : macWord 2 { pair := 0, agx := 1, agy := 0, agc := 2, bsel := 0, noadv := false } = 0x04108000 := by decide

theorem test_dsp_str : strWord (BitVec.ofInt 40 (-81920)) 81920 15 0 = (0x0003FFFE, false) := by decide

/-- Jobs A, B and C of R424's case. -/
def powerJob (e : Nat) (j : Job) : Job := { j with hdr := { j.hdr with energyFrame := e } }

theorem test_power_budget :
    let s := withJobs [(0, powerJob 1120000 { safety with hdr := { safety.hdr with windowFirst := 16, windowBeats := 14 } }), (1, powerJob 1520000 service), (2, powerJob 600000 service)]
    s.budgetNow = 4920000 := by decide +kernel

/-- Lot 122 of channel 40 claimed in the present beat, in a cycle. -/
def arbiterAt (c : Nat) : State := { withJobs [(0, { service with lots := [{ chan := 40, beat := 10, lot := 122 }] })] with clk := at_ 90 c }

theorem test_last_grant : (arbiterAt 121599).eligible 40 none 15 = true ∧ (arbiterAt 121600).eligible 40 none 15 = false := by decide +kernel

end Sys2Proof.Tests
end

section
/-! PROOFS. Register accesses (O21): what an event of the present cycle keeps from a clear (R16), which writes have no effect
(R12, R15), and the reads of the beat number with their latch (R60). -/

namespace Sys2Proof.Machine

/-! ### Events and clears of one cycle (R16) -/

/-- Has an event of the present cycle set bit b of the register at address a? -/
def State.hasEvent (s : State) (a b : Nat) : Bool := decide (s.fresh.1 = s.clk.raw ∧ (a, b) ∈ s.fresh.2)

/-- A written word less the bit of one event, where that is an event bit of the register at address a: the step of `State.unset`. -/
def clearEvent (a : Nat) (v : Word) (x : Nat × Nat) : Word :=
  if x.1 = a ∧ (eventBits a).getLsbD x.2 then v &&& ~~~BitVec.twoPow 32 x.2 else v

theorem State.unset_eq_foldl {s : State} (h : s.fresh.1 = s.clk.raw) (a : Nat) (v : Word) :
    s.unset a v = s.fresh.2.foldl (clearEvent a) v := if_pos h

theorem State.unset_of_stale {s : State} (h : s.fresh.1 ≠ s.clk.raw) (a : Nat) (v : Word) : s.unset a v = v := if_neg h

theorem getLsbD_clearEvent (a : Nat) (v : Word) (x : Nat × Nat) {i : Nat} (hi : i < 32) :
    (clearEvent a v x).getLsbD i = (v.getLsbD i && !(decide (x = (a, i)) && (eventBits a).getLsbD i)) := by
  by_cases hx : x = (a, i)
  · subst hx
    by_cases h : (eventBits a).getLsbD i = true
    · simp [clearEvent, h, hi]
    · simp [clearEvent, h]
  · have hb : x.1 = a → x.2 ≠ i := fun h1 h2 => hx (Prod.ext h1 h2)
    unfold clearEvent
    split
    · next h => simp [hx, hi, (hb h.1).symm]
    · simp [hx]

theorem getLsbD_foldl_clearEvent (a : Nat) (l : List (Nat × Nat)) (v : Word) {i : Nat} (hi : i < 32) :
    (l.foldl (clearEvent a) v).getLsbD i = (v.getLsbD i && !(decide ((a, i) ∈ l) && (eventBits a).getLsbD i)) := by
  induction l generalizing v with
  | nil => simp
  | cons x l ih =>
    rw [List.foldl_cons, ih, getLsbD_clearEvent a v x hi]
    by_cases hx : x = (a, i)
    · cases (eventBits a).getLsbD i <;> simp [hx]
    · simp [hx, Ne.symm hx]

/-- A bit of a written word counts unless it is an event bit that an event of the cycle has set. -/
theorem State.getLsbD_unset (s : State) (a : Nat) (v : Word) {i : Nat} (hi : i < 32) :
    (s.unset a v).getLsbD i = (v.getLsbD i && !(s.hasEvent a i && (eventBits a).getLsbD i)) := by
  by_cases h : s.fresh.1 = s.clk.raw
  · simp [State.unset_eq_foldl h, getLsbD_foldl_clearEvent a _ v hi, State.hasEvent, h]
  · simp [State.unset_of_stale h, State.hasEvent, h]

/-- An event adds itself, and no other, to the events of its cycle. -/
theorem hasEvent_note (a b : Nat) (s : State) (a' b' : Nat) :
    (note a b s).hasEvent a' b' = (decide ((a', b') = (a, b)) || s.hasEvent a' b') := by
  by_cases h : s.fresh.1 = s.clk.raw
  · by_cases hm : (a, b) ∈ s.fresh.2
    · by_cases he : (a', b') = (a, b) <;> simp [State.hasEvent, note, h, hm, he]
    · simp [State.hasEvent, note, h, hm]
  · simp [State.hasEvent, note, h]

theorem State.unset_of_noEventBits {s : State} {a : Nat} (h : eventBits a = 0) (v : Word) : s.unset a v = v :=
  BitVec.eq_of_getLsbD_eq fun i hi => by simp [s.getLsbD_unset a v hi, h]

theorem getLsbD_unset_note_same {a b : Nat} (s : State) (v : Word) (hb : b < 32) (h : (eventBits a).getLsbD b = true) :
    ((note a b s).unset a v).getLsbD b = false := by
  simp [State.getLsbD_unset _ a v hb, hasEvent_note, h]

theorem getLsbD_unset_note_other {a b a' b' : Nat} (s : State) (v : Word) (hb : b' < 32) (h : (a', b') ≠ (a, b)) :
    ((note a b s).unset a' v).getLsbD b' = (s.unset a' v).getLsbD b' := by
  simp [State.getLsbD_unset _ a' v hb, hasEvent_note, h]

/-! ### Writes (R12 to R16) -/

theorem isReg_iff (a : Nat) : isReg a = true ↔ (regBase ≤ a ∧ a < 2 ^ 40) ∧ a % 4 = 0 := by
  simp [isReg]

theorem isReg_eq_false {a : Nat} (h : a < 0xF000000000 ∨ a % 4 ≠ 0) : isReg a = false := by
  rw [Bool.eq_false_iff, ne_eq, isReg_iff, regBase]
  omega

theorem regWrite_of_not_isReg {a : Nat} (h : isReg a = false) (v : Word) (s : State) : regWrite a v s = s := by
  simp [regWrite, h]

theorem regWrite_of_episode {s : State} (h : s.rst.episode ≠ none) (a : Nat) (v : Word) : regWrite a v s = s := by
  simp [regWrite, Option.isSome_iff_ne_none.2 h]

/-- Only an access to a window of a core or of a radio engine settles a core. -/
theorem settleReg_eq_self {a : Nat} (h : (a - regBase) / 2 ^ 24 ∉ [0x20, 0x21, 0x22]) (s : State) : settleReg a s = s :=
  if_neg (by simpa using h)

/-- Out of reset a write to a register outside the compute windows is the write to its block of what no event takes from the word. -/
theorem regWrite_eq_writeBlock {s : State} {a : Nat} (he : s.rst.episode = none) (ha : isReg a = true)
    (h : (a - regBase) / 2 ^ 24 ∉ [0x20, 0x21, 0x22]) (v : Word) :
    regWrite a v s = writeBlock ((a - regBase) / 2 ^ 24) (a % 2 ^ 24) (s.unset a v) s := by
  simp [regWrite, ha, he, settleReg_eq_self h]

theorem regWrite_islStatus {s : State} (he : s.rst.episode = none) (v : Word) :
    regWrite 0xF000000114 v s =
      { s with con := { s.con with status := s.con.status &&& ~~~((s.unset 0xF000000114 v).setWidth 7) } } := by
  rw [regWrite_eq_writeBlock he (by decide) (by decide)]
  simp [writeBlock, writeIsl, fld, regBase]

theorem regWrite_islBeatLo {s : State} (he : s.rst.episode = none) (v : Word) : regWrite 0xF000000104 v s = s := by
  rw [regWrite_eq_writeBlock he (by decide) (by decide)]
  simp [writeBlock, writeIsl, regBase]

/-- PWR_THR takes a TJ_SHED of 90 to 103 degrees (R429). -/
theorem regWrite_pwrThr {s : State} (he : s.rst.episode = none) (v : Word) :
    regWrite 0xF070000008 v s = { s with pwr := { s.pwr with
      tjShed := if 90 ≤ v.toNat % 256 ∧ v.toNat % 256 ≤ 103 then v.setWidth 8 else s.pwr.tjShed } } := by
  rw [regWrite_eq_writeBlock he (by decide) (by decide), State.unset_of_noEventBits (by decide)]
  by_cases h : 90 ≤ v.toNat % 256 ∧ v.toNat % 256 ≤ 103 <;> simp [writeBlock, regBase, bits, fld, modPwr, h]

/-! ### The beat number (R60) -/

theorem sampleInput_eq_self {a : Nat} (h : a ≠ 0xF070000020) (s : State) : sampleInput a s = s := if_neg h

/-- The upper half of a pair shows its latch while its unit is powered (R524). -/
theorem regWord_upper {s : State} {a : Nat} (hf : 4 ≤ a % 2 ^ 24)
    (hp : (s.pairValue ((a - regBase) / 2 ^ 24) (a % 2 ^ 24 - 4)).isSome = true)
    (hl : s.latchOn ((a - regBase) / 2 ^ 24) (a % 2 ^ 24) = true) : s.regWord a = Cells.get 0 s.latch a :=
  (if_pos ⟨hf, hp⟩).trans (if_pos hl)

theorem regWord_islBeatLo (s : State) : s.regWord 0xF000000104 = BitVec.ofNat 32 s.clk.beat := by
  have hp : s.pairValue 0 0x100 = none := rfl
  have hr : s.shown.blockReg 0 0x104 = s.clk.beat % 2 ^ 32 := rfl
  have hw : s.regWord 0xF000000104 = BitVec.ofNat 32 (s.clk.beat % 2 ^ 32) := by simp [State.regWord, regBase, hp, hr]
  exact hw.trans (BitVec.eq_of_toNat_eq (by simp))

/-- The read of the low half, and the latch of the high half at the address above. -/
theorem regRead_islBeatLo (s : State) : regRead 0xF000000104 s =
    (BitVec.ofNat 32 s.clk.beat, { s with latch := Cells.put 0 s.latch 0xF000000108 (hiWord s.clk.beat) }) := by
  have hp : s.shown.pairValue 0 0x104 = some s.clk.beat := rfl
  have hl : s.latchOn 0 0x104 = true := rfl
  simp [regRead, isReg, regBase, settleReg_eq_self (a := 0xF000000104) (by decide), sampleInput_eq_self,
    regWord_islBeatLo, hp, hl]

theorem regRead_islBeatHi (s : State) : (regRead 0xF000000108 s).1 = Cells.get 0 s.latch 0xF000000108 := by
  have hp : s.pairValue 0 0x104 = some s.clk.beat := rfl
  have hw : s.regWord 0xF000000108 = Cells.get 0 s.latch 0xF000000108 := regWord_upper (by decide) (by simp [regBase, hp]) rfl
  simp [regRead, isReg, regBase, settleReg_eq_self (a := 0xF000000108) (by decide), sampleInput_eq_self, hw]

/-! ### The commands -/

theorem completes_registerWrite (a : BitVec 40) (v : Word) (s : State) {P : State → Prop} (h : P (regWrite a.toNat v s)) :
    Completes (.registerWrite a v) s P := ⟨_, rfl, h⟩

theorem completes_latchingRead {s : State} (he : s.rst.episode = none) (a : BitVec 40) {P : State → Prop}
    (h : P (regRead a.toNat s).2) : Completes (.latchingRead a) s P := by
  refine ⟨_, rfl, ?_⟩
  simpa [he] using h

theorem completes_latchingRead_of_episode {s : State} (he : s.rst.episode ≠ none) (a : BitVec 40) :
    Completes (.latchingRead a) s (fun t => t = s) :=
  ⟨_, rfl, if_pos (Option.isSome_iff_ne_none.2 he)⟩

end Sys2Proof.Machine

open Sys2Proof Sys2Proof.Machine

/-- Settles O21: each access is an equation of `regRead` or `regWrite`, and what an event does to a clear is read off the bits of
`State.unset` before and after `note`. -/
theorem registerAccessAndLatches : Obligations.RegisterAccessAndLatches := by
  intro s
  refine ⟨fun he hwf => completes_latchingRead he _ ?_, fun he v => ⟨?_, ?_, fun a ha => ?_, ?_⟩,
    fun a v => ⟨fun h => State.unset_of_stale h a v, fun b hb => ⟨getLsbD_unset_note_same s v hb, ?_⟩⟩,
    fun he a v => ⟨?_, completes_latchingRead_of_episode he a⟩⟩
  · rw [regRead_islBeatHi, show (0xF000000104 : BitVec 40).toNat = 0xF000000104 from rfl, regRead_islBeatLo]
    exact ⟨rfl, Cells.get_put_same hwf, rfl, fun a ha => Cells.get_put_other hwf ha⟩
  · exact completes_registerWrite _ v s (regWrite_islStatus he v)
  · exact completes_registerWrite _ v s (regWrite_pwrThr he v)
  · exact completes_registerWrite a v s (regWrite_of_not_isReg (isReg_eq_false ha) v s)
  · exact completes_registerWrite _ v s (regWrite_islBeatLo he v)
  · exact fun a' b' hb' hne => getLsbD_unset_note_other s v hb' hne
  · exact completes_registerWrite a v s (regWrite_of_episode he a.toNat v)

end

section
/-! PROOFS. Accumulation (O37): a zero contribution and the sign of zero (R79, R80). -/

namespace Sys2Proof.Machine

/-! ### Integers as exact values -/

theorem roundDiv_one (n : Nat) : roundDiv n 1 = n := by simp [roundDiv, Nat.mod_one]

/-- An integer, made an exact value, rounds to itself. -/
theorem Num.toInteger_ofInt (v : Int) : (Num.ofInt v).toInteger = v := by
  by_cases h : v = 0
  · simp [Num.ofInt, h, Num.toInteger]
  · simp only [Num.ofInt, if_neg h, Num.toInteger, scaleFrac, signed, decide_eq_true_eq]
    simp only [Int.le_refl, if_true, Int.toNat_zero, Nat.pow_zero, Nat.mul_one, roundDiv_one]
    split <;> omega

/-- A zero of either sign added to an integer gives the integer: the zero among the integers is +0. -/
theorem Num.ofInt_add_zero (v : Int) (neg : Bool) : (Num.ofInt v).add (.zero neg) = Num.ofInt v := by
  by_cases h : v = 0 <;> simp [Num.ofInt, h, Num.add]

/-- Rounding to INT32 undoes the reading of an INT32 word. -/
theorem toIntW_ofI32 (w : Word) : (toIntW 32 (ofI32 w)).code = w.toNat := by
  by_cases h : w.toInt = 0
  · have hw : w = 0 := BitVec.eq_of_toInt_eq h
    subst hw
    rfl
  · have hlo : -2 ^ 31 ≤ w.toInt := BitVec.le_toInt w
    have hhi : w.toInt < 2 ^ 31 := BitVec.toInt_lt
    have hv : (ofI32 w).toInteger = w.toInt := Num.toInteger_ofInt w.toInt
    have hf : ofI32 w = .fin (decide (w.toInt < 0)) w.toInt.natAbs 1 0 := if_neg h
    simp only [toIntW, hf] at hv ⊢
    rw [hv, if_neg (by omega), if_neg (by omega), BitVec.ofInt_toInt]

/-! ### A step of accumulation (R79, R80) -/

theorem accFp_zero (acc : Word) (neg : Bool) : accFp acc (.zero neg) = acc := rfl

theorem accInt_zero (acc : Word × Bool) (neg : Bool) : (accInt acc (.zero neg)).1 = acc.1 := by
  unfold accInt
  split
  · rfl
  · have h : (ofI32 acc.1).add (.zero neg) = ofI32 acc.1 := Num.ofInt_add_zero acc.1.toInt neg
    simp [h, toIntW_ofI32]

/-- A step does not form −0. -/
theorem accFp_ne_minusZero {acc : Word} (h : acc ≠ 0x80000000) (c : Num) : accFp acc c ≠ 0x80000000 := by
  unfold accFp
  split
  · exact h
  · dsimp only
    split
    · decide
    · assumption

/-- Nor do the steps of a list. -/
theorem foldl_accFp_ne_minusZero {α : Type} (f : α → Num) (l : List α) {acc : Word} (h : acc ≠ 0x80000000) :
    l.foldl (fun a x => accFp a (f x)) acc ≠ 0x80000000 :=
  List.foldlRecOn (motive := (· ≠ 0x80000000)) l _ h fun _ ha x _ => accFp_ne_minusZero ha (f x)

theorem PassData.element_fp {p : PassData} (h : p.fp = true) (i j : Nat) :
    (p.element i j).1 = (List.range p.f.outl).foldl (fun a m => accFp a (p.outlier i j m))
      ((List.range p.f.steps).foldl (fun a s => accFp a (p.step i j s)) (p.start i j)) := by
  simp [PassData.element, h]

end Sys2Proof.Machine

open Sys2Proof Sys2Proof.Machine

/-- Settles O37: an element of a floating-point pass is its start value put through the main steps and then the outlier steps, none
of which forms −0. -/
theorem accumulatorNeverBecomesMinusZero : Obligations.AccumulatorNeverBecomesMinusZero := by
  refine ⟨accFp_zero, accInt_zero, fun acc c h => accFp_ne_minusZero h c, fun p i j hfp h => ?_⟩
  rw [PassData.element_fp hfp]
  exact foldl_accFp_ne_minusZero _ _ (foldl_accFp_ne_minusZero _ _ h)

end

section
/-! PROOFS. What an operation on one core or radio engine leaves alone: the other cores, the clock, the configuration, memory, rills
and channels; and what a list of changes does to a core's basins. -/

namespace Sys2Proof.Machine

/-! ### One unit of a vector -/

section
variable {α : Type} {n : Nat} (v : Vector α n)

@[simp] theorem getElem_setV_same (i : Fin n) (x : α) : (setV v i x)[i.1] = x := Vector.getElem_set_self i.2

@[simp] theorem getElem_setV_other {i j : Fin n} (h : j ≠ i) (x : α) : (setV v i x)[j.1] = v[j.1] :=
  Vector.getElem_set_ne i.2 j.2 fun he => h (Fin.ext he.symm)

@[simp] theorem getElem_modV_same (i : Fin n) (f : α → α) : (modV v i f)[i.1] = f v[i.1] := getElem_setV_same ..

@[simp] theorem getElem_modV_other {i j : Fin n} (h : j ≠ i) (f : α → α) : (modV v i f)[j.1] = v[j.1] := getElem_setV_other v h _

end

/-! ### Work on one unit -/

/-- Nothing but unit u has changed from s to t among the cores, and clock, configuration, memory, rills and channels stand. -/
structure UnitStep (u : UnitIdx) (s t : State) : Prop where
  others : ∀ v, v ≠ u → t.cores[v] = s.cores[v]
  clk : t.clk = s.clk
  cfg : t.cfg = s.cfg
  mem : t.mem = s.mem
  rills : t.rills = s.rills
  chans : t.chans = s.chans

section
variable {u : UnitIdx} {s t t' : State}

theorem UnitStep.rfl : UnitStep u s s := ⟨fun _ _ => Eq.refl _, Eq.refl _, Eq.refl _, Eq.refl _, Eq.refl _, Eq.refl _⟩

theorem UnitStep.trans (h : UnitStep u s t) (h' : UnitStep u t t') : UnitStep u s t' where
  others v hv := (h'.others v hv).trans (h.others v hv)
  clk := h'.clk.trans h.clk
  cfg := h'.cfg.trans h.cfg
  mem := h'.mem.trans h.mem
  rills := h'.rills.trans h.rills
  chans := h'.chans.trans h.chans

/-- An operation that changes no core and none of the rest. -/
theorem UnitStep.of_cores_eq (hcores : t.cores = s.cores) (clk : t.clk = s.clk) (cfg : t.cfg = s.cfg) (mem : t.mem = s.mem)
    (rills : t.rills = s.rills) (chans : t.chans = s.chans) : UnitStep u s t :=
  ⟨fun _ _ => by rw [hcores], clk, cfg, mem, rills, chans⟩

theorem UnitStep.foldl {α : Type} {f : State → α → State} (h : ∀ s x, UnitStep u s (f s x)) (l : List α) (s : State) :
    UnitStep u s (l.foldl f s) :=
  List.foldlRecOn (motive := UnitStep u s) l f .rfl fun _ ht x _ => ht.trans (h _ x)

theorem UnitStep.reserveAt (h : UnitStep u s t) : t.reserveAt = s.reserveAt := by simp [State.reserveAt, h.cfg]

end

theorem modCore_unitStep (u : UnitIdx) (f : Core → Core) (s : State) : UnitStep u s (modCore u f s) :=
  ⟨fun _ hv => getElem_modV_other _ hv f, rfl, rfl, rfl, rfl, rfl⟩

theorem safe_unitStep (u : UnitIdx) (x : Safety) (s : State) : UnitStep u s { s with safe := x } :=
  .of_cores_eq rfl rfl rfl rfl rfl rfl

theorem modEng_unitStep (u : UnitIdx) (f : Engine → Engine) (s : State) : UnitStep u s (modEng u f s) := modCore_unitStep ..

theorem modJob_unitStep (u : UnitIdx) (k : Fin 12) (f : Job → Job) (s : State) : UnitStep u s (modJob k f s) :=
  .of_cores_eq rfl rfl rfl rfl rfl rfl

/-! ### Work for a job's period (R388, R393) -/

@[simp] theorem unprove_cores (k : Option (Fin 12)) (i : Nat) (s : State) : (unprove k i s).cores = s.cores := by
  cases k <;> rfl

@[simp] theorem weirMore_cores (w : Work) (s : State) : (weirMore w s).cores = s.cores := by
  unfold weirMore; split <;> rfl

@[simp] theorem weirLess_cores (p : Pass) (s : State) : (weirLess p s).cores = s.cores := by
  unfold weirLess; split <;> rfl

theorem unprove_unitStep (u : UnitIdx) (k : Option (Fin 12)) (i : Nat) (s : State) : UnitStep u s (unprove k i s) := by
  cases k with
  | none => exact .rfl
  | some k => exact modJob_unitStep ..

theorem weirMore_unitStep (u : UnitIdx) (w : Work) (s : State) : UnitStep u s (weirMore w s) := by
  unfold weirMore
  split
  · exact .rfl
  · exact modJob_unitStep ..

theorem weirLess_unitStep (u : UnitIdx) (p : Pass) (s : State) : UnitStep u s (weirLess p s) := by
  unfold weirLess
  split
  · exact .rfl
  · exact modJob_unitStep ..

/-! ### What has fallen due on a core (R79, R145, R175, R264) -/

theorem contractEvent_unitStep (u : UnitIdx) (bit : Nat) (k : Option (Fin 12)) (s : State) : UnitStep u s (contractEvent bit k s) :=
  .of_cores_eq (by simp) (by simp) (by simp) (by simp) (by simp) (by simp)

theorem countLate_unitStep (u : UnitIdx) (w : Option (Fin 12)) (s : State) : UnitStep u s (countLate u w s) := by
  unfold countLate
  dsimp only
  split
  · exact (modCore_unitStep ..).trans (contractEvent_unitStep ..)
  · exact modCore_unitStep ..

theorem stepPut_unitStep (u : UnitIdx) (s : State) : UnitStep u s (stepPut u s) := by
  fun_cases stepPut u s with
  | case1 => exact .rfl
  | case2 => exact .rfl
  | case3 => exact modCore_unitStep ..
  | case4 => exact .rfl
  | case5 => exact modCore_unitStep ..
  | case6 => exact (modCore_unitStep ..).trans (countLate_unitStep ..)

theorem settleUse_unitStep (u : UnitIdx) (hi : Nat) (vec : Bool) (s : State) : UnitStep u s (settleUse u hi vec s) := by
  unfold settleUse
  refine UnitStep.trans ?_ (modCore_unitStep u _ _)
  split
  · exact .of_cores_eq rfl rfl rfl rfl rfl rfl
  · exact .rfl

theorem settleCore_unitStep (u : UnitIdx) (s : State) : UnitStep u s (settleCore u s) :=
  ((settleUse_unitStep ..).trans (modCore_unitStep ..)).trans (UnitStep.foldl (fun s _ => stepPut_unitStep u s) _ _)

/-! ### The basins of a core changed one after another -/

@[simp] theorem Core.basin_modBasin_same (n : Fin 16) (f : Basin → Basin) (c : Core) : (c.modBasin n f).basin n = f (c.basin n) :=
  getElem_modV_same ..

@[simp] theorem Core.basin_modBasin_other {m n : Fin 16} (h : m ≠ n) (f : Basin → Basin) (c : Core) :
    (c.modBasin n f).basin m = c.basin m := getElem_modV_other _ h f

/-- For each basin and byte count of a list in order, the basin changed: the form of `readBasins`, `commitReads` and of what a drain
gives back. -/
def Core.modBasins (f : Fin 16 × Nat → Basin → Basin) (rs : List (Fin 16 × Nat)) (c : Core) : Core :=
  rs.foldl (fun c r => c.modBasin r.1 (f r)) c

theorem Core.foldl_modBasin (f : Fin 16 × Nat → Basin → Basin) (rs : List (Fin 16 × Nat)) (c : Core) :
    rs.foldl (fun c r => c.modBasin r.1 (f r)) c = c.modBasins f rs := rfl

/-- Only the basins change. -/
theorem Core.modBasins_eq (f : Fin 16 × Nat → Basin → Basin) (rs : List (Fin 16 × Nat)) (c : Core) :
    c.modBasins f rs = { c with basins := (c.modBasins f rs).basins } :=
  List.foldlRecOn (motive := fun d : Core => d = { c with basins := d.basins }) rs _ rfl
    fun _ hd r _ => congrArg (Core.modBasin r.1 (f r)) hd

section
variable (f : Fin 16 × Nat → Basin → Basin) (rs : List (Fin 16 × Nat)) (c : Core)

@[simp] theorem Core.modBasins_eng : (c.modBasins f rs).eng = c.eng := by rw [Core.modBasins_eq]
@[simp] theorem Core.modBasins_vec : (c.modBasins f rs).vec = c.vec := by rw [Core.modBasins_eq]
@[simp] theorem Core.modBasins_pad : (c.modBasins f rs).pad = c.pad := by rw [Core.modBasins_eq]

end

/-- A basin sees the changes that name it, in their order. -/
theorem Core.basin_modBasins (f : Fin 16 × Nat → Basin → Basin) (rs : List (Fin 16 × Nat)) (c : Core) (n : Fin 16) :
    (c.modBasins f rs).basin n = (rs.filter fun r => r.1 == n).foldl (fun b r => f r b) (c.basin n) := by
  induction rs generalizing c with
  | nil => rfl
  | cons r rs ih =>
    rw [Core.modBasins, List.foldl_cons, ← Core.modBasins, ih]
    by_cases h : r.1 = n
    · subst h; simp
    · simp [h, Ne.symm h]

end Sys2Proof.Machine

end

section
/-! PROOFS. ENG_PASS enters the engine, ENG_LOAD_CB fills a codebook slot (O35): what the issue of an entry and the errors of its
reads leave, the basins a pass has read, the core it has entered (R83 to R89, R172, R173). -/

namespace Sys2Proof.Machine

/-! ### The issue of an entry (R185, R406) -/

/-- An entry that may issue and passes its checks runs. -/
theorem issueEntry_go {u : UnitIdx} {op : Nat} {e : Entry} {s s1 : State} {chk : State → Ready} (run : Work → State → State)
    (h : Issues u op e s s1) (hc : chk s1 = .go) :
    issueEntry u op e chk run s = run (s1.workOf u op e) (popNext u op e s1) := by
  obtain ⟨hs1, hmay⟩ := h
  simp [issueEntry, hs1, hmay, hc]

theorem notePhase_unitStep (u : UnitIdx) (s : State) : UnitStep u s (notePhase u s) := by
  unfold notePhase
  split
  · exact .of_cores_eq rfl rfl rfl rfl rfl rfl
  · exact .rfl

theorem popNext_unitStep (u : UnitIdx) (op : Nat) (e : Entry) (s : State) : UnitStep u s (popNext u op e s) := by
  unfold popNext
  dsimp only
  split
  · exact modCore_unitStep ..
  · exact (modCore_unitStep ..).trans (notePhase_unitStep ..)

@[simp] theorem notePhase_cores (u : UnitIdx) (s : State) : (notePhase u s).cores = s.cores := by
  unfold notePhase; split <;> rfl

theorem popNext_core (u : UnitIdx) (op : Nat) (e : Entry) (s : State) :
    (popNext u op e s).cores[u] = (s.cores[u]).popEntry op e := by
  simp [popNext, apply_ite State.cores]

section
variable (op : Nat) (e : Entry) (c : Core)

@[simp] theorem popEntry_pad : (c.popEntry op e).pad = c.pad := rfl
@[simp] theorem popEntry_basins : (c.popEntry op e).basins = c.basins := rfl
@[simp] theorem popEntry_tiles : (c.popEntry op e).eng.tiles = c.eng.tiles := by simp only [Core.popEntry]; split <;> rfl
@[simp] theorem popEntry_books : (c.popEntry op e).eng.books = c.eng.books := by simp only [Core.popEntry]; split <;> rfl
@[simp] theorem popEntry_passes : (c.popEntry op e).eng.passes = c.eng.passes := by simp only [Core.popEntry]; split <;> rfl
@[simp] theorem popEntry_basin (n : Fin 16) : (c.popEntry op e).basin n = c.basin n := rfl

end

theorem raiseFault_unitStep (u : UnitIdx) (code unit detail : Nat) (k : Option (Fin 12)) (s : State) :
    UnitStep u s (raiseFault code unit detail k s) :=
  .of_cores_eq (by simp) (by simp) (by simp) (by simp) (by simp) (by simp)

theorem upsetPad_unitStep (u : UnitIdx) (w : Work) (up : SramUpset) (s : State) : UnitStep u s (upsetPad u w up s) := by
  cases up with
  | none => exact .rfl
  | corrected n => exact safe_unitStep ..
  | double a flip =>
    unfold upsetPad
    refine .trans ?_ (unprove_unitStep ..)
    refine .trans ?_ (raiseFault_unitStep ..)
    refine .trans ?_ (safe_unitStep ..)
    exact modCore_unitStep ..

/-- An error of a read flips bits of the scratchpad or of the cistern: matrix engine and basins are as they were. -/
theorem upsetPad_core (u : UnitIdx) (w : Work) (up : SramUpset) (s : State) :
    ((upsetPad u w up s).cores[u]).eng = (s.cores[u]).eng ∧ ((upsetPad u w up s).cores[u]).basins = (s.cores[u]).basins := by
  cases up with
  | none => exact ⟨rfl, rfl⟩
  | corrected n => exact ⟨rfl, rfl⟩
  | double a flip =>
    simp only [upsetPad, unprove_cores, raiseFault_cores, modCore_cores, Fin.getElem_fin, getElem_modV_same]
    split <;> exact ⟨rfl, rfl⟩

/-- What a pass finds on its unit: passes in flight, tiles and basins are those of the state it issues in. -/
theorem upsetPad_popNext_core (u : UnitIdx) (op : Nat) (e : Entry) (w : Work) (up : SramUpset) (s : State) :
    let c := (upsetPad u w up (popNext u op e s)).cores[u]
    c.eng.passes = (s.cores[u]).eng.passes ∧ c.eng.tiles = (s.cores[u]).eng.tiles ∧ ∀ n, c.basin n = (s.cores[u]).basin n := by
  obtain ⟨heng, hbasins⟩ := upsetPad_core u w up (popNext u op e s)
  rw [popNext_core] at heng hbasins
  refine ⟨?_, ?_, fun n => congrArg (fun bs : Vector Basin 16 => bs[n]) hbasins⟩
  · rw [heng, popEntry_passes]
  · rw [heng, popEntry_tiles]

/-! ### The basins of a pass (R172, R173) -/

/-- What a pass that reads r leaves of a basin. -/
def readBasin (r : Fin 16 × Nat) (b : Basin) : Basin := { b.claim 0 with cursor := if b.hold then b.cursor else b.cursor + r.2 }

theorem readBasins_eq (rs : List (Fin 16 × Nat)) (c : Core) :
    readBasins rs c = { c with basins := (c.modBasins readBasin rs).basins } := Core.modBasins_eq readBasin rs c

theorem readBasin_fields (r : Fin 16 × Nat) (b : Basin) :
    (readBasin r b).head = b.head ∧ (readBasin r b).tail = b.tail ∧ (readBasin r b).hold = b.hold ∧
    (readBasin r b).cursor = b.cursor + if b.hold then 0 else r.2 := by
  cases h : b.hold <;> simp [readBasin, Basin.claim, h]

/-- The reads move the read position of a STREAM basin by their bytes; HEAD and TAIL stay. -/
theorem foldl_readBasin (rs : List (Fin 16 × Nat)) (b : Basin) :
    (rs.foldl (fun b r => readBasin r b) b).head = b.head ∧ (rs.foldl (fun b r => readBasin r b) b).tail = b.tail ∧
    (rs.foldl (fun b r => readBasin r b) b).cursor = b.cursor + if b.hold then 0 else (rs.map (·.2)).sum := by
  induction rs generalizing b with
  | nil => simp
  | cons r rs ih =>
    obtain ⟨hhead, htail, hhold, hcursor⟩ := readBasin_fields r b
    obtain ⟨ihhead, ihtail, ihcursor⟩ := ih (readBasin r b)
    refine ⟨ihhead.trans hhead, ihtail.trans htail, ?_⟩
    rw [List.foldl_cons, ihcursor, hhold, hcursor]
    cases b.hold <;> simp [Nat.add_assoc]

/-! ### The engine that a pass has entered (R83 to R85) -/

theorem enterPass_unitStep (u : UnitIdx) (e : Entry) (a : Approach) (beat : Nat) (up : SramUpset) (w : Work) (s : State) :
    UnitStep u s (enterPass u e a beat up w s) := by
  unfold enterPass
  dsimp only
  split
  · exact .rfl
  · refine (upsetPad_unitStep u w up s).trans ?_
    split
    · exact ((modCore_unitStep ..).trans (modEng_unitStep ..)).trans (weirMore_unitStep ..)
    · exact (modCore_unitStep ..).trans (modEng_unitStep ..)

/-- The pass stands behind the others, its tile is FILLING, its reads have moved the read positions. -/
theorem enterPass_core (u : UnitIdx) {e : Entry} {d : Nat} {fp : Bool}
    (hd : passDepth (passFields e).act (passFields e).wgt = some (d, fp)) (a : Approach) (beat : Nat) (up : SramUpset) (w : Work)
    (s : State) :
    let f := passFields e
    let c := (upsetPad u w up s).cores[u]
    let t := (enterPass u e a beat up w s).cores[u]
    (∃ p : Pass, t.eng.passes = c.eng.passes ++ [p] ∧ p.entry = e ∧ p.entered = s.clk.raw ∧ p.init = f.initCycles ∧
      p.len = f.occupancy ∧ p.target = f.tile ∧ p.fp = fp ∧ p.job = w.job ∧ p.period = w.period ∧
      p.result = (passData c f d fp).tile.map (·.1)) ∧
    t.eng.tiles[f.tile] = { c.eng.tiles[f.tile] with st := .filling, since := s.clk.raw } ∧
    (∀ x, x ≠ f.tile → t.eng.tiles[x] = c.eng.tiles[x]) ∧
    (∀ n, t.basin n = ((f.reads d).filter fun r => r.1 == n).foldl (fun b r => readBasin r b) (c.basin n)) ∧
    t.pad = c.pad ∧ t.vec = c.vec := by
  have hclk : (upsetPad u w up s).clk = s.clk := (upsetPad_unitStep u w up s).clk
  simp only [enterPass, hd, apply_ite State.cores, weirMore_cores, ite_self, modEng_cores, modCore_cores, Fin.getElem_fin,
    getElem_modV_same, readBasins_eq, hclk, true_and, and_true]
  exact ⟨⟨_, rfl, by simp⟩, fun x hx => getElem_modV_other _ hx _, fun n => Core.basin_modBasins ..⟩

/-! ### A codebook load (R89, R172) -/

theorem loadBook_unitStep (u : UnitIdx) (e : Entry) (w : Work) (s : State) : UnitStep u s (loadBook u e w s) :=
  modCore_unitStep ..

theorem take_claim_head (b : Basin) (k : Fin 3) (now n : Nat) : ((b.claim k).take now n).head = (b.head + n) % b.size := by
  unfold Basin.claim; split <;> rfl

/-- What ENG_LOAD_CB finds for its slot on a core: the bytes at the HEAD of its basin. -/
def loadedBook (e : Entry) (c : Core) : Codebook :=
  let v := wordAt e.words 0
  let b := c.basin (basinNo (bits v 7 4))
  { valid := true, big := bitOf v 8, fmt := BitVec.ofNat 2 (bits v 11 10), bytes := c.bytes b b.head (loadBytes e) }

/-- The slot is filled; a STREAM basin loses the bytes at once. -/
theorem loadBook_core (u : UnitIdx) (e : Entry) (w : Work) (s : State) :
    let c := s.cores[u]
    let t := (loadBook u e w s).cores[u]
    let k : Fin 2 := Fin.ofNat 2 (bits (wordAt e.words 0) 0 0)
    let n := basinNo (bits (wordAt e.words 0) 7 4)
    t.eng.books[k] = loadedBook e c ∧ (∀ x, x ≠ k → t.eng.books[x] = c.eng.books[x]) ∧ t.eng.tiles = c.eng.tiles ∧
    t.eng.passes = c.eng.passes ∧ ((c.basin n).hold = true → t.basins = c.basins) ∧
    ((c.basin n).hold = false → (t.basin n).head = ((c.basin n).head + loadBytes e) % (c.basin n).size) ∧
    (∀ m, m ≠ n → t.basin m = c.basin m) ∧ t.pad = c.pad := by
  simp only [loadBook, modCore_cores, Fin.getElem_fin, getElem_modV_same]
  split
  · next hold =>
    exact ⟨getElem_setV_same .., fun x hx => getElem_setV_other _ hx _, rfl, rfl, fun _ => rfl,
      fun h => absurd hold (Bool.eq_false_iff.1 h), fun _ _ => rfl, rfl⟩
  · next hold =>
    exact ⟨getElem_setV_same .., fun x hx => getElem_setV_other _ hx _, rfl, rfl, fun h => absurd h hold,
      fun _ => by rw [Core.basin_modBasin_same, take_claim_head]; rfl, fun m hm => Core.basin_modBasin_other hm _ _, rfl⟩

/-! ### The commands -/

theorem completes_engPass {u : UnitIdx} {e : Entry} {s s1 : State} (up : SramUpset) {P : State → Prop} (h : Issues u 1 e s s1)
    (hc : passCheck u e s1 = .go) (hP : ∀ a beat, P (enterPass u e a beat up (s1.workOf u 1 e) (popNext u 1 e s1))) :
    Completes (.engPass u e up) s P :=
  ⟨_, rfl, (issueEntry_go _ h hc).symm ▸ hP _ _⟩

theorem completes_engLoadCb {u : UnitIdx} {e : Entry} {s s1 : State} {P : State → Prop} (h : Issues u 2 e s s1)
    (hc : loadCheck u e s1 = .go) (hP : P (loadBook u e (s1.workOf u 2 e) (popNext u 2 e s1))) :
    Completes (.engLoadCb u e) s P :=
  ⟨_, rfl, (issueEntry_go _ h hc).symm ▸ hP⟩

end Sys2Proof.Machine

open Sys2Proof Sys2Proof.Machine

/-- Settles O35: a pass enters in the state that its issue and the errors of its reads leave, which differs from the present one in
nothing that the pass reads but bytes; a codebook load changes one slot and one basin of the core. -/
theorem passEntersTheEngine : Obligations.PassEntersTheEngine := by
  intro u e s s1
  refine ⟨fun up d fp hi hc hd => completes_engPass up hi hc fun a beat => ?_, fun hi hc => completes_engLoadCb hi hc ?_⟩
  · intro w f c
    have hunit := (popNext_unitStep u 1 e s1).trans (enterPass_unitStep u e a beat up w _)
    have hclk : (popNext u 1 e s1).clk = s1.clk := (popNext_unitStep u 1 e s1).clk
    obtain ⟨hcpasses, hctiles, hcbasin⟩ := upsetPad_popNext_core u 1 e w up s1
    obtain ⟨⟨p, hpasses, hentry, hentered, hinit, hlen, hp⟩, htile, hothers, hbasin, hpad, hvec⟩ :=
      enterPass_core u hd a beat up w (popNext u 1 e s1)
    rw [hcpasses] at hpasses
    rw [hclk] at hentered htile
    refine ⟨⟨p, hpasses, hentry, hentered, hinit, by rw [hinit]; exact hlen, hp⟩, congrArg Tile.st htile, congrArg Tile.since htile,
      fun x hx => (hothers x hx).trans (congrArg (fun ts : Vector Tile 4 => ts[x]) hctiles), fun n => ?_, hpad, hvec,
      hunit.others, hunit.clk, hunit.mem, hunit.rills, hunit.chans⟩
    rw [hbasin, hcbasin]
    exact foldl_readBasin ..
  · have hunit := (popNext_unitStep u 2 e s1).trans (loadBook_unitStep u e (s1.workOf u 2 e) _)
    have hcore := loadBook_core u e (s1.workOf u 2 e) (popNext u 2 e s1)
    rw [popNext_core] at hcore
    simp only [popEntry_books, popEntry_tiles, popEntry_passes, popEntry_basins, popEntry_basin, popEntry_pad] at hcore
    obtain ⟨hbook, hbooks, htiles, hpasses, hhold, hstream, hothers, hpad⟩ := hcore
    exact ⟨hbook, hbooks, htiles, hpasses, hhold, hstream, hothers, hpad, hunit.others, hunit.mem, hunit.clk⟩

end

section
/-! PROOFS. PASS_COMPLETE fills the tile, ENGINE_DRAIN_DONE discards what a stop interrupted (O36): the completion of a pass and its
check against the reserve (R53, R83, R85, R172), the passes and the vector entry that a drain gives up (R100, R101, R158). -/

namespace Sys2Proof.Machine

/-! ### A pass is complete (R79, R83, R85, R172) -/

theorem note_unitStep (u : UnitIdx) (a b : Nat) (s : State) : UnitStep u s (note a b s) :=
  .of_cores_eq rfl rfl rfl rfl rfl rfl

theorem noteIf_unitStep (u : UnitIdx) (c : Bool) (a b : Nat) (s : State) : UnitStep u s (noteIf c a b s) := by
  unfold noteIf
  split
  · exact note_unitStep ..
  · exact .rfl

theorem clearHop_unitStep (u : UnitIdx) (e : Entry) (s : State) : UnitStep u s (clearHop u e s) := by
  unfold clearHop
  split
  · exact safe_unitStep ..
  · exact .rfl

theorem suspectWork_unitStep (u : UnitIdx) (w : Work) (s : State) : UnitStep u s (suspectWork u w s) := by
  unfold suspectWork
  split
  · exact unprove_unitStep ..
  · exact .rfl

@[simp] theorem clearHop_cores (u : UnitIdx) (e : Entry) (s : State) : (clearHop u e s).cores = s.cores := by
  unfold clearHop; split <;> rfl

@[simp] theorem suspectWork_cores (u : UnitIdx) (w : Work) (s : State) : (suspectWork u w s).cores = s.cores := by
  simp [suspectWork, apply_ite State.cores]

/-- What does not complete in the reserve, did not issue in its stated cycle or is a radio engine's keeps R53. -/
theorem checkReserve_eq_self {u : UnitIdx} {slipless : Bool} {s : State} (w : Work)
    (h : slipless = false ∨ 64 ≤ u.1 ∨ s.clk.cyc < s.reserveAt) : checkReserve u w slipless s = s := by
  refine if_neg fun hc => ?_
  simp only [Bool.and_eq_true, decide_eq_true_eq] at hc
  obtain ⟨hslip, hu, hcyc⟩ := hc
  rcases h with h | h | h
  · simp [hslip] at h
  · omega
  · omega

/-- What the completion of a pass that read r leaves of a basin. -/
def commitRead (now : Nat) (r : Fin 16 × Nat) (b : Basin) : Basin := { b.take now r.2 with cursor := b.cursor - r.2 }

theorem commitReads_eq (now : Nat) (rs : List (Fin 16 × Nat)) (c : Core) :
    commitReads now rs c = { c with basins := (c.modBasins (commitRead now) rs).basins } := Core.modBasins_eq (commitRead now) rs c

/-- A pass ends in a state of which the reserve is then checked: its tile is FULL, its reads are committed, the count goes up. -/
theorem endPass_core (u : UnitIdx) (p : Pass) (upset : List (Nat × Word)) (s : State) :
    ∃ s', endPass u p upset s = checkReserve u { job := p.job, period := p.period } p.slipless s' ∧ UnitStep u s s' ∧
      let c := s.cores[u]
      let t := s'.cores[u]
      t.eng.tiles[p.target] = { st := .full, since := p.last + 1, el := Cells.puts 0 [] 0 (upsetTile p.result upset) } ∧
      (∀ x, x ≠ p.target → t.eng.tiles[x] = c.eng.tiles[x]) ∧ t.eng.passes = c.eng.passes.drop 1 ∧
      t.eng.passCnt = c.eng.passCnt + 1 ∧ t.eng.books = c.eng.books ∧
      (∀ n, t.basin n = (p.reads.filter fun r => r.1 == n).foldl (fun b r => commitRead p.last r b) (c.basin n)) ∧
      t.pad = c.pad ∧ t.vec = c.vec := by
  refine ⟨_, rfl, ?_, ?_⟩
  · exact (modCore_unitStep ..).trans <| (modEng_unitStep ..).trans <| (noteIf_unitStep ..).trans <| (noteIf_unitStep ..).trans <|
      (clearHop_unitStep ..).trans (suspectWork_unitStep ..)
  · simp only [suspectWork_cores, clearHop_cores, noteIf_cores, modEng_cores, modCore_cores, Fin.getElem_fin, getElem_modV_same,
      getElem_setV_same, commitReads_eq, true_and, and_true]
    exact ⟨fun x hx => getElem_setV_other _ hx _, fun n => Core.basin_modBasins ..⟩

/-- PASS_COMPLETE ends the oldest pass in the cycle of its last accumulation, what has fallen due until then having taken effect. -/
theorem completes_passComplete {u : UnitIdx} {s s1 : State} {p : Pass} {rest : List Pass} (upset : List (Nat × Word))
    {P : State → Prop} (hpasses : (s.cores[u]).eng.passes = p :: rest) (hdone : (s.cores[u]).eng.completes p = true)
    (hbad : p.bad = none) (hreach : reach p.last s = some s1) (hP : P (endPass u p upset (settleCore u s1))) :
    Completes (.passComplete u upset) s P := by
  have hreads : readsOff u s = s := by simp only [readsOff, hpasses, hbad]
  refine ⟨passComplete u upset s, rfl, ?_⟩
  simpa only [passComplete, hreads, hpasses, hdone, hbad, Option.isNone_none, Bool.and_self, if_true, atCycle, hreach] using hP

/-! ### What a stop interrupted (R100, R101, R158) -/

section
variable (now : Nat) (c : Core)

@[simp] theorem dropPass_pad (p : Pass) : (dropPass now c p).pad = c.pad := Core.modBasins_pad ..

@[simp] theorem dropPass_vec (p : Pass) : (dropPass now c p).vec = c.vec := Core.modBasins_vec ..

@[simp] theorem dropPass_tiles (p : Pass) :
    (dropPass now c p).eng.tiles = setV c.eng.tiles p.target { st := .free, since := now, el := [] } :=
  congrArg Engine.tiles (Core.modBasins_eng ..)

theorem foldl_dropPass_pad_vec (ps : List Pass) : (ps.foldl (dropPass now) c).pad = c.pad ∧ (ps.foldl (dropPass now) c).vec = c.vec :=
  List.foldlRecOn (motive := fun d : Core => d.pad = c.pad ∧ d.vec = c.vec) ps _ ⟨rfl, rfl⟩ fun _ hd _ _ => by simpa using hd

/-- The tiles of the discarded passes are FREE and zero, the others stay. -/
theorem foldl_dropPass_tile (ps : List Pass) (x : Fin 4) : ((ps.foldl (dropPass now) c).eng.tiles)[x.1] =
    if ∃ p ∈ ps, p.target = x then { st := .free, since := now, el := [] } else c.eng.tiles[x.1] := by
  induction ps generalizing c with
  | nil => simp
  | cons p ps ih =>
    rw [List.foldl_cons, ih, dropPass_tiles]
    by_cases hx : x = p.target
    · subst hx; simp
    · simp [hx, Ne.symm hx]

end

theorem foldl_weirLess_cores (ps : List Pass) (s : State) : (ps.foldl (fun s p => weirLess p s) s).cores = s.cores :=
  List.foldlRecOn (motive := fun t : State => t.cores = s.cores) ps _ rfl fun _ ht _ _ => by simpa using ht

theorem drainEngine_unitStep (u : UnitIdx) (t : Nat) (s : State) : UnitStep u s (drainEngine u t s) := by
  simp only [drainEngine, List.partition_eq_filter_filter]
  exact (UnitStep.foldl (fun s p => weirLess_unitStep u p s) _ s).trans ((modCore_unitStep ..).trans (modEng_unitStep ..))

/-- The passes whose last accumulation a stop in cycle t found done stay; the others are gone, their tiles FREE and zero. -/
theorem drainEngine_core (u : UnitIdx) (t : Nat) (s : State) :
    let c := s.cores[u]
    let d := (drainEngine u t s).cores[u]
    d.eng.passes = c.eng.passes.filter (fun p => decide (p.last ≤ t)) ∧
    (∀ p ∈ c.eng.passes, t < p.last → (d.eng.tiles[p.target]).st = .free ∧ (d.eng.tiles[p.target]).el = []) ∧
    (∀ x, (∀ p ∈ c.eng.passes, t < p.last → p.target ≠ x) → d.eng.tiles[x] = c.eng.tiles[x]) ∧ d.pad = c.pad ∧ d.vec = c.vec := by
  simp only [drainEngine, List.partition_eq_filter_filter, modEng_cores, modCore_cores, foldl_weirLess_cores, Fin.getElem_fin,
    getElem_modV_same, foldl_dropPass_pad_vec, and_true, true_and]
  refine ⟨fun p hp hlast => ?_, fun x hx => ?_⟩
  · rw [foldl_dropPass_tile, if_pos ⟨p, by simp [hp, hlast], rfl⟩]
    exact ⟨rfl, rfl⟩
  · rw [foldl_dropPass_tile, if_neg]
    rintro ⟨p, hp, rfl⟩
    simp only [List.mem_filter, Function.comp_apply, Bool.not_eq_true', decide_eq_false_iff_not, Nat.not_le] at hp
    obtain ⟨hmem, hlast⟩ := hp
    exact hx p hmem hlast rfl

theorem drainVector_unitStep (u : UnitIdx) (t : Nat) (s : State) : UnitStep u s (drainVector u t s) := by
  unfold drainVector
  split
  · exact (modCore_unitStep ..).trans (note_unitStep ..)
  · exact modCore_unitStep ..

/-- An interrupted vector entry is gone, V0 to V31 hold what they held at its issue. -/
theorem drainVector_core (u : UnitIdx) (t : Nat) (s : State) :
    let c := s.cores[u]
    let d := (drainVector u t s).cores[u]
    d.eng = c.eng ∧ d.pad = c.pad ∧ d.vec.draining = none ∧
    ∀ v x, c.vec.entry = some v → c.vec.draining = some x →
      d.vec.entry = none ∧ d.vec.v = v.saved ∧ d.vec.interrupted = true ∧ d.vec.cistern = c.vec.cistern := by
  unfold drainVector
  split
  · next v x hv hx =>
    simp only [note_cores, modCore_cores, Fin.getElem_fin, getElem_modV_same, Core.foldl_modBasin, Core.modBasins_eng,
      Core.modBasins_vec, Core.modBasins_pad, true_and, and_true]
    intro v' x' hv' hx'
    rw [Option.some.inj (hv.symm.trans hv')]
  · next h =>
    simp only [modCore_cores, Fin.getElem_fin, getElem_modV_same]
    exact ⟨trivial, trivial, trivial, fun v x hv hx => absurd hx (h v x hv)⟩

/-- ENGINE_DRAIN_DONE discards 64 cycles after the stop, what has fallen due until then having taken effect. -/
theorem completes_engineDrainDone {u : UnitIdx} {s s1 : State} {ts : Nat} {P : State → Prop}
    (hstop : (s.cores[u]).stopCycle = some ts) (hreach : reach (ts + 64) s = some s1)
    (hP : P (drainVector u ts (drainEngine u ts (settleCore u s1)))) : Completes (.engineDrainDone u) s P :=
  ⟨_, rfl, by simpa only [hstop, atCycle, hreach] using hP⟩

end Sys2Proof.Machine

open Sys2Proof Sys2Proof.Machine

/-- Settles O36: both commands act on the core as it stands once what has fallen due on it has taken effect. -/
theorem passCompletesOrIsInterrupted : Obligations.PassCompletesOrIsInterrupted := by
  intro u s s1
  have hsettle := settleCore_unitStep u s1
  refine ⟨fun p rest upset hpasses hdone hbad hreach hreserve => completes_passComplete upset hpasses hdone hbad hreach ?_,
    fun ts hstop hreach => completes_engineDrainDone hstop hreach ?_⟩
  · generalize settleCore u s1 = s2 at hsettle ⊢
    obtain ⟨s', hend, hstep, htile, hothers, hps, hcnt, hbooks, hbasins, hpad, hvec⟩ := endPass_core u p upset s2
    have hunit := hsettle.trans hstep
    rw [hend, checkReserve_eq_self _ (by rwa [hunit.clk, hunit.reserveAt])]
    exact ⟨htile, hothers, hps, hcnt, hbooks, hbasins, hpad, hvec, hunit.others, hunit.clk, hunit.mem⟩
  · generalize settleCore u s1 = s2 at hsettle ⊢
    have hunit := hsettle.trans ((drainEngine_unitStep u ts _).trans (drainVector_unitStep u ts _))
    obtain ⟨hps, hlost, hkept, hpad, hvec⟩ := drainEngine_core u ts s2
    obtain ⟨heng, hpad', hdrain, hentry⟩ := drainVector_core u ts (drainEngine u ts s2)
    rw [hvec] at hentry
    exact ⟨by rw [heng]; exact hps, fun p hp hlast => by rw [heng]; exact hlost p hp hlast,
      fun x hx => by rw [heng]; exact hkept x hx, hdrain, hentry, hpad'.trans hpad, hunit.others, hunit.clk, hunit.mem⟩

end

section
/-! PROOFS. The sequencer's own entries (O43, O44): what each of them leaves of its core and of the machine, the state in which its
change takes effect, and the reads in progress after a change of a bank (R179). -/

namespace Sys2Proof.Machine

/-! ### Changes of one core -/

theorem modCore_modCore (u : UnitIdx) (f g : Core → Core) (s : State) :
    modCore u g (modCore u f s) = modCore u (fun c => g (f c)) s := by
  simp [modCore, modV, setV]

theorem modV_eq_self {α : Type} {n : Nat} {v : Vector α n} {i : Fin n} {f : α → α} (h : f v[i] = v[i]) : modV v i f = v := by
  rw [modV, h]; exact Vector.set_getElem_self i.2

theorem modCore_eq_self {u : UnitIdx} {f : Core → Core} {s : State} (h : f s.cores[u] = s.cores[u]) : modCore u f s = s := by
  rw [modCore, modV_eq_self h]

theorem modCore_core (u : UnitIdx) (f : Core → Core) (s : State) : (modCore u f s).cores[u] = f s.cores[u] := getElem_modV_same ..

theorem modCore_congr {u : UnitIdx} {f g : Core → Core} {s : State} (h : f s.cores[u] = g s.cores[u]) :
    modCore u f s = modCore u g s := by
  rw [modCore, modCore, modV, h, ← modV]

/-- What the sequencer's own entries leave of a core: V0 to V31, cistern and tiles, pass and vector entry but for what is known of
their reads, the count of entries and the counted engine time. -/
structure Core.EnginesKept (c d : Core) : Prop where
  v : d.vec.v = c.vec.v
  cistern : d.vec.cistern = c.vec.cistern
  entry : d.vec.entry.map VecEntry.bare = c.vec.entry.map VecEntry.bare
  tiles : d.eng.tiles = c.eng.tiles
  passes : d.eng.passes.map Pass.bare = c.eng.passes.map Pass.bare
  issued : d.seq.issued = c.seq.issued
  useTo : d.useTo = c.useTo

theorem Core.EnginesKept.rfl {c : Core} : c.EnginesKept c :=
  ⟨Eq.refl _, Eq.refl _, Eq.refl _, Eq.refl _, Eq.refl _, Eq.refl _, Eq.refl _⟩

theorem Core.EnginesKept.trans {c d d' : Core} (h : c.EnginesKept d) (h' : d.EnginesKept d') : c.EnginesKept d' where
  v := h'.v.trans h.v
  cistern := h'.cistern.trans h.cistern
  entry := h'.entry.trans h.entry
  tiles := h'.tiles.trans h.tiles
  passes := h'.passes.trans h.passes
  issued := h'.issued.trans h.issued
  useTo := h'.useTo.trans h.useTo

/-- A change outside the engines. -/
theorem Core.EnginesKept.of_eq {c d : Core} (heng : d.eng = c.eng) (hvec : d.vec = c.vec) (hissued : d.seq.issued = c.seq.issued)
    (huse : d.useTo = c.useTo) : c.EnginesKept d :=
  ⟨by rw [hvec], by rw [hvec], by rw [hvec], by rw [heng], by rw [heng], hissued, huse⟩

/-- A sequencer that has issued as many entries. -/
theorem Core.EnginesKept.with_seq {c d : Core} {q : Sequencer} (h : c.EnginesKept d) (hq : q.issued = c.seq.issued) :
    c.EnginesKept { d with seq := q } := { h with issued := hq }

/-- A change of a bank is noted for the reads in progress, and touches no more of the engines. -/
theorem Core.recheck_enginesKept (t : Nat) (c : Core) : c.EnginesKept (c.recheck t) where
  v := rfl
  cistern := rfl
  entry := by rw [Core.recheck, Option.map_map]; rfl
  tiles := rfl
  passes := by rw [Core.recheck, List.map_map]; rfl
  issued := rfl
  useTo := rfl

/-! ### The issue of an entry (R185) -/

section
variable (u : UnitIdx) (op : Nat) (e : Entry) (s : State)

@[simp] theorem notePhase_jobs : (notePhase u s).jobs = s.jobs := by unfold notePhase; split <;> rfl
@[simp] theorem notePhase_con : (notePhase u s).con = s.con := by unfold notePhase; split <;> rfl

@[simp] theorem popNext_jobs : (popNext u op e s).jobs = s.jobs := by simp [popNext, apply_ite State.jobs]
@[simp] theorem popNext_con : (popNext u op e s).con = s.con := by simp [popNext, apply_ite State.con]
@[simp] theorem popNext_clk : (popNext u op e s).clk = s.clk := (popNext_unitStep u op e s).clk

end

section
variable (op : Nat) (e : Entry) (c : Core)

@[simp] theorem popEntry_banks : (c.popEntry op e).banks = c.banks := rfl
@[simp] theorem popEntry_v : (c.popEntry op e).vec.v = c.vec.v := by simp only [Core.popEntry]; split <;> rfl
@[simp] theorem popEntry_cistern : (c.popEntry op e).vec.cistern = c.vec.cistern := by simp only [Core.popEntry]; split <;> rfl
@[simp] theorem popEntry_entry : (c.popEntry op e).vec.entry = c.vec.entry := by simp only [Core.popEntry]; split <;> rfl

theorem popEntry_issued : (c.popEntry op e).seq.issued = c.seq.issued + 1 := by simp only [Core.popEntry]; split <;> rfl

end

/-- An entry whose change of its core leaves the engines alone keeps the frame of the sequencer's own entries. -/
theorem seqFrame_modCore {u : UnitIdx} {op : Nat} {e : Entry} {s1 : State} {f : Core → Core}
    (h : ((s1.cores[u]).popEntry op e).EnginesKept (f ((s1.cores[u]).popEntry op e))) :
    SeqFrame u s1 (modCore u f (popNext u op e s1)) := by
  have hcore : (modCore u f (popNext u op e s1)).cores[u] = f ((s1.cores[u]).popEntry op e) := by
    rw [modCore_core, popNext_core]
  have hunit := (popNext_unitStep u op e s1).trans (modCore_unitStep u f _)
  unfold SeqFrame
  rw [hcore, h.v, h.cistern, h.entry, h.tiles, h.passes, h.issued, popEntry_v, popEntry_cistern, popEntry_entry, popEntry_tiles,
    popEntry_passes, popEntry_issued]
  exact ⟨rfl, rfl, rfl, rfl, rfl, rfl, hunit.others, hunit.mem, by simp, by simp, hunit.clk, hunit.rills, hunit.chans⟩

theorem completes_of_exec_eq {cmd : Instr} {s t : State} {P : State → Prop} (h : exec cmd s = .next t) (hP : P t) : Completes cmd s P :=
  ⟨t, h, hP⟩

/-- An entry that issues and keeps its rules, and whose run is a change g of its core, which leaves the engines alone. -/
theorem completes_seqEntry {cmd : Instr} {u : UnitIdx} {op : Nat} {e : Entry} {s s1 : State} {chk : State → Ready} {P : State → Prop}
    (g : Nat → Core → Core) (hexec : exec cmd s = .next (issueEntry u op e chk (fun _ s => modCore u (g s.clk.raw) s) s))
    (h : Issues u op e s s1) (hc : chk s1 = .go) (hkept : ∀ c : Core, c.EnginesKept (g s1.clk.raw c))
    (hP : ∀ t, SeqFrame u s1 t → t.cores[u] = g s1.clk.raw ((s1.cores[u]).popEntry op e) → P t) : Completes cmd s P := by
  refine ⟨_, hexec, ?_⟩
  rw [issueEntry_go _ h hc, popNext_clk]
  exact hP _ (seqFrame_modCore (hkept _)) (by rw [modCore_core, popNext_core])

theorem must_eq_go {b : Bool} (h : b = true) : must b = .go := by rw [must, if_pos h]

end Sys2Proof.Machine

end

section
/-! PROOFS. BASIN_DEF, BASIN_POP, BASIN_FREE, SEQ_PUT and SEQ_MARK (O43): a core on which nothing is due, the first word of a SEQ_PUT
(R175, R186), the MANIFEST event of one that would run into the reserve (R53, R57). -/

namespace Sys2Proof.Machine

/-! ### A core on which nothing is due (R79, R145, R264) -/

/-- On the core nothing has fallen due by raw cycle `now` but saturations and words of a SEQ_PUT: its engine time is counted, and the
release of a cascade's tile lies ahead. -/
structure Core.UpToDate (now : Nat) (c : Core) : Prop where
  useTo : now ≤ c.useTo
  release : ∀ v t r, c.vec.entry = some v → v.release = some (t, r) → now < r

theorem Core.UpToDate.of_enginesKept {now : Nat} {c d : Core} (h : c.UpToDate now) (hk : c.EnginesKept d) : d.UpToDate now where
  useTo := hk.useTo ▸ h.useTo
  release v t r hv hr := by
    have he := hk.entry
    rw [hv, Option.map_some, eq_comm, Option.map_eq_some_iff] at he
    obtain ⟨v', hv', hbare⟩ := he
    exact h.release v' t r hv' ((congrArg VecEntry.release hbare).trans hr)

theorem Core.release_eq_self {now : Nat} {c : Core} (h : c.UpToDate now) : c.release now = c := by
  unfold Core.release
  split
  · rfl
  · next v hv =>
    split
    · rfl
    · next t r hr => exact if_pos (h.release v t r hv hr)

theorem Core.release_upToDate {now : Nat} {c : Core} (h : now ≤ c.useTo) : (c.release now).UpToDate now := by
  unfold Core.release
  split
  · next hv => exact ⟨h, fun v t r hv' => by simp [hv] at hv'⟩
  · next v hv =>
    split
    · next hr => exact ⟨h, fun v' t r hv' hr' => by simp_all⟩
    · next t r hr =>
      split
      · next hlt =>
        refine ⟨h, fun v' t' r' hv' hr' => ?_⟩
        obtain rfl : v = v' := Option.some.inj (hv.symm.trans hv')
        rw [hr] at hr'
        cases hr'
        exact hlt
      · exact ⟨h, fun v' t' r' hv' hr' => by cases hv'; cases hr'⟩

theorem wakeAll_enginesKept (now w : Nat) (ks : List (Fin 32)) (c : Core) : c.EnginesKept (c.wakeAll now w ks) := by
  refine .trans ?_ (Core.recheck_enginesKept ..)
  refine List.foldlRecOn (motive := fun d : Core => c.EnginesKept d) ks _ .rfl fun d hd k _ => hd.trans ?_
  unfold Core.wake
  split
  · exact .of_eq rfl rfl rfl rfl
  · exact .rfl

theorem putWord_enginesKept (t : Nat) (p : SeqPut) (c : Core) : c.EnginesKept (c.putWord t p) := by
  unfold Core.putWord
  dsimp only
  split <;> exact .of_eq rfl rfl rfl rfl

theorem countLate_core (u : UnitIdx) (w : Option (Fin 12)) (s : State) : (s.cores[u]).EnginesKept (countLate u w s).cores[u] := by
  simp only [countLate, apply_ite State.cores, contractEvent_cores, ite_self, modCore_core]
  exact .of_eq rfl rfl rfl rfl

theorem stepPut_core (u : UnitIdx) (s : State) : (s.cores[u]).EnginesKept (stepPut u s).cores[u] := by
  fun_cases stepPut u s with
  | case1 => exact .rfl
  | case2 => exact .rfl
  | case3 => rw [modCore_core]; exact putWord_enginesKept ..
  | case4 => exact .rfl
  | case5 => rw [modCore_core]; exact (wakeAll_enginesKept ..).with_seq rfl
  | case6 =>
    refine .trans ?_ (countLate_core ..)
    rw [modCore_core]
    exact (wakeAll_enginesKept ..).with_seq rfl

theorem landPut_core (u : UnitIdx) (s : State) : (s.cores[u]).EnginesKept (landPut u s).cores[u] :=
  List.foldlRecOn (motive := fun t : State => (s.cores[u]).EnginesKept t.cores[u]) _ _ .rfl
    fun t ht _ _ => ht.trans (stepPut_core u t)

/-- Settling brings a core up to date. -/
theorem settleCore_upToDate (u : UnitIdx) (s : State) : ((settleCore u s).cores[u]).UpToDate s.clk.raw := by
  refine .of_enginesKept ?_ (landPut_core u _)
  rw [modCore_core]
  refine Core.release_upToDate ?_
  have h : ((settleUse u s.clk.raw true s).cores[u]).useTo = max (s.cores[u]).useTo s.clk.raw := by
    unfold settleUse
    dsimp only
    rw [modCore_core]
    split <;> rfl
  exact h ▸ Nat.le_max_right ..

/-- Behind carried entries the present owner finds a core with new registers, and nothing due on it. -/
theorem takeOver_upToDate {u : UnitIdx} {now : Nat} {s : State} (op : Nat) (e : Entry) (h : (s.cores[u]).UpToDate now) :
    ((takeOver u op e s).cores[u]).UpToDate now := by
  unfold takeOver
  split
  · rw [modCore_core]; exact ⟨h.useTo, h.release⟩
  · exact h

theorem takeOver_clk (u : UnitIdx) (op : Nat) (e : Entry) (s : State) : (takeOver u op e s).clk = s.clk := by
  unfold takeOver; split <;> rfl

/-- An entry finds its core up to date. -/
theorem Issues.upToDate {u : UnitIdx} {op : Nat} {e : Entry} {s s1 : State} (h : Issues u op e s s1) :
    (s1.cores[u]).UpToDate s1.clk.raw := by
  obtain ⟨hs1, -⟩ := h
  simp only [toEntry, Option.map_map, Option.map_eq_some_iff, Function.comp_apply] at hs1
  obtain ⟨s0, -, rfl⟩ := hs1
  rw [takeOver_clk, (settleCore_unitStep u s0).clk]
  exact takeOver_upToDate op e (settleCore_upToDate u s0)

/-! ### Settling a core that is up to date -/

theorem Core.useOf_eq_zero {lo hi : Nat} (h : hi ≤ lo) (k : Fin 12) (vec : Bool) (c : Core) : c.useOf k lo hi vec = 0 := by
  have hclip : ∀ i, clip lo hi i = 0 := fun i => by unfold clip; omega
  have hsum : ∀ is : List (Nat × Nat), (is.map (clip lo hi)).sum = 0 := fun is => by
    induction is with
    | nil => rfl
    | cons i is ih => rw [List.map_cons, List.sum_cons, hclip, Nat.zero_add, ih]
  unfold Core.useOf
  dsimp only
  rw [hsum, hclip, Nat.zero_sub]

/-- No cycle is counted twice (R264). -/
theorem settleUse_eq_self {u : UnitIdx} {hi : Nat} {s : State} (h : hi ≤ (s.cores[u]).useTo) (vec : Bool) :
    settleUse u hi vec s = s := by
  unfold settleUse
  simp only [Core.useOf_eq_zero h, BitVec.add_zero, Nat.add_zero, ite_self, Option.map_id_fun', id_eq]
  rw [show (Vector.ofFn fun k => s.jobs.slots[k]) = s.jobs.slots from Vector.ext fun i hi => by simp, ite_self]
  exact modCore_eq_self (by rw [Nat.max_eq_left h])

theorem foldl_stepPut_eq_self {α : Type} {u : UnitIdx} {s : State} (h : stepPut u s = s) (l : List α) :
    l.foldl (fun s _ => stepPut u s) s = s :=
  List.foldlRecOn (motive := fun t : State => t = s) l _ rfl fun _ ht _ _ => (congrArg (stepPut u) ht).trans h

/-- Where a word of a SEQ_PUT changes nothing, none lands. -/
theorem landPut_eq_self {u : UnitIdx} {s : State} (h : stepPut u s = s) : landPut u s = s := foldl_stepPut_eq_self h _

/-- Where the first word leaves none that is due, it is the one that lands. -/
theorem landPut_eq_stepPut {u : UnitIdx} {s : State} (h : stepPut u (stepPut u s) = stepPut u s) : landPut u s = stepPut u s := by
  rw [landPut, List.range_succ_eq_map, List.foldl_cons]
  exact foldl_stepPut_eq_self h _

/-- Saturations up to raw cycle `now` shown in SAT (R79). -/
def Core.settleEng (now : Nat) (c : Core) : Core := { c with eng := c.eng.settle now }

theorem settleCore_eq_landPut {u : UnitIdx} {s : State} (h : (s.cores[u]).UpToDate s.clk.raw) :
    settleCore u s = landPut u (modCore u (Core.settleEng s.clk.raw) s) := by
  rw [settleCore, settleUse_eq_self h.useTo]
  exact congrArg (landPut u) (modCore_congr (Core.release_eq_self ⟨h.useTo, h.release⟩))

/-! ### The words of a SEQ_PUT (R175, R186) -/

theorem stepPut_of_none {u : UnitIdx} {s : State} (h : (s.cores[u]).seq.put = none) : stepPut u s = s := by
  simp only [stepPut, h]

theorem stepPut_of_later {u : UnitIdx} {s : State} {p : SeqPut} (h : (s.cores[u]).seq.put = some p) (hnext : s.clk.raw < p.next) :
    stepPut u s = s := by
  simp only [stepPut, h, hnext, if_true]

/-- A word whose cycle has come and whose banks are ON is written. -/
theorem stepPut_of_banksOn {u : UnitIdx} {s : State} {p : SeqPut} (h : (s.cores[u]).seq.put = some p) (hnext : p.next ≤ s.clk.raw)
    (hon : (s.cores[u]).banksOn p.next ((s.cores[u]).putRuns8 p) = true) : stepPut u s = modCore u (Core.putWord p.next p) s := by
  simp only [stepPut, h, Nat.not_lt.2 hnext, if_false, Core.onFrom, hon, if_true]

theorem putWord_put (t : Nat) (p : SeqPut) (c : Core) : (c.putWord t p).seq.put =
    if p.bytes.length ≤ 8 * (p.done + 1) then none else some { p with done := p.done + 1, next := t + 1 } := by
  unfold Core.putWord; dsimp only; split <;> rfl

theorem putWord_pad (t : Nat) (p : SeqPut) (c : Core) : (c.putWord t p).pad = putRuns c.pad (c.putRuns8 p) p.word := by
  unfold Core.putWord; dsimp only; split <;> rfl

theorem putWord_banks (t : Nat) (p : SeqPut) (c : Core) : (c.putWord t p).banks = c.banks := by
  unfold Core.putWord; dsimp only; split <;> rfl

theorem putWord_basins_more {t : Nat} {p : SeqPut} {c : Core} (h : 8 * (p.done + 1) < p.bytes.length) :
    (c.putWord t p).basins = c.basins := by
  unfold Core.putWord; dsimp only; rw [if_neg (Nat.not_le.2 h)]; rfl

/-- With the last word TAIL moves by all the bytes. -/
theorem putWord_tail_last {t : Nat} {p : SeqPut} {c : Core} (h : p.bytes.length ≤ 8 * (p.done + 1)) :
    ((c.putWord t p).basin p.basin).tail = ((c.basin p.basin).tail + p.bytes.length) % (c.basin p.basin).size := by
  unfold Core.putWord; dsimp only; rw [if_pos h]
  exact congrArg Basin.tail (Core.basin_modBasin_same ..)

/-! ### SEQ_PUT -/

theorem length_natLE (n v : Nat) : (natLE n v).length = n := by
  induction n generalizing v with
  | zero => rfl
  | succ n ih => rw [natLE, List.length_cons, ih]

theorem length_flatMap_wordBytes (ws : List Word) : (ws.flatMap wordBytes).length = 4 * ws.length := by
  induction ws with
  | nil => rfl
  | cons w ws ih => rw [List.flatMap_cons, List.length_append, ih, wordBytes, length_natLE, List.length_cons]; omega

/-- The put that starts in raw cycle t. -/
def newPut (t : Nat) (e : Entry) (c : Core) : SeqPut :=
  let n := basinNo (bits (wordAt e.words 0) 3 0)
  { basin := n, start := (c.basin n).tail, bytes := (e.words.drop 1).flatMap wordBytes, next := t }

/-- Its core: the space is reserved, the port noted, no word written. -/
def Core.beginPut (t : Nat) (e : Entry) (c : Core) : Core :=
  let d := c.modBasin (basinNo (bits (wordAt e.words 0) 3 0)) fun b => { b with reserved := b.reserved + 8 * putWords e, port := some 2 }
  { d with seq := { d.seq with put := some (newPut t e c) } }

/-- Its core when the first word is written in the same cycle. -/
def Core.putFirst (t : Nat) (e : Entry) (c : Core) : Core :=
  ((c.beginPut t e).settleEng t).putWord t (newPut t e c)

theorem startPut_eq (u : UnitIdx) (e : Entry) (w : Work) (s : State) : startPut u e w s =
    if s.putLate u e then manifestAt u w (modCore u (Core.beginPut s.clk.raw e) s) else modCore u (Core.beginPut s.clk.raw e) s := by
  simp only [startPut, modCore, modV, Core.beginPut, newPut]

theorem popNext_putLate (u : UnitIdx) (op : Nat) (e : Entry) (s : State) : (popNext u op e s).putLate u e = s.putLate u e := by
  have hres : (popNext u op e s).reserveAt = s.reserveAt := (popNext_unitStep u op e s).reserveAt
  simp only [State.putLate, popNext_core, popEntry_basin, State.onTime, popNext_clk, hres, Core.banksOn, popEntry_banks]

theorem beginPut_enginesKept (t : Nat) (e : Entry) (c : Core) : c.EnginesKept (c.beginPut t e) := ⟨rfl, rfl, rfl, rfl, rfl, rfl, rfl⟩

theorem settleEng_enginesKept (t : Nat) (c : Core) : c.EnginesKept (c.settleEng t) := ⟨rfl, rfl, rfl, rfl, rfl, rfl, rfl⟩

theorem putFirst_enginesKept (t : Nat) (e : Entry) (c : Core) : c.EnginesKept (c.putFirst t e) :=
  (beginPut_enginesKept ..).trans ((settleEng_enginesKept ..).trans (putWord_enginesKept ..))

theorem beginPut_basin_same (t : Nat) (e : Entry) (c : Core) :
    let n := basinNo (bits (wordAt e.words 0) 3 0)
    (c.beginPut t e).basin n = { c.basin n with reserved := (c.basin n).reserved + 8 * putWords e, port := some 2 } :=
  Core.basin_modBasin_same ..

theorem beginPut_basin_other (t : Nat) {e : Entry} {m : Fin 16} (h : m ≠ basinNo (bits (wordAt e.words 0) 3 0)) (c : Core) :
    (c.beginPut t e).basin m = c.basin m := Core.basin_modBasin_other h ..

/-- The first word goes to the TAIL of the basin. -/
theorem beginPut_putRuns8 (t : Nat) (e : Entry) (c : Core) : let b := c.basin (basinNo (bits (wordAt e.words 0) 3 0))
    ((c.beginPut t e).settleEng t).putRuns8 (newPut t e c) = b.runs b.tail 8 := by
  have h := congrArg (fun b : Basin => b.runs (newPut t e c).start 8) (beginPut_basin_same t e c)
  exact h

theorem putFirst_put (t : Nat) (e : Entry) (c : Core) : (c.putFirst t e).seq.put =
    if ((e.words.drop 1).flatMap wordBytes).length ≤ 8 then none else some { newPut t e c with done := 1, next := t + 1 } := putWord_put ..

theorem putFirst_pad (t : Nat) (e : Entry) (c : Core) : let b := c.basin (basinNo (bits (wordAt e.words 0) 3 0))
    (c.putFirst t e).pad = putRuns c.pad (b.runs b.tail 8) (((e.words.drop 1).flatMap wordBytes).take 8) := by
  rw [Core.putFirst, putWord_pad, beginPut_putRuns8]
  rfl

theorem putFirst_banks (t : Nat) (e : Entry) (c : Core) : (c.putFirst t e).banks = c.banks := putWord_banks ..

/-- A put of several words moves no pointer with its first. -/
theorem putFirst_basin_more (t : Nat) {e : Entry} (h : 8 < ((e.words.drop 1).flatMap wordBytes).length) (c : Core) (m : Fin 16) :
    (c.putFirst t e).basin m = (c.beginPut t e).basin m :=
  congrArg (fun bs : Vector Basin 16 => bs[m]) (putWord_basins_more h)

/-- A put of one word moves TAIL at once. -/
theorem putFirst_tail_last (t : Nat) {e : Entry} (h : ((e.words.drop 1).flatMap wordBytes).length = 8) (c : Core) :
    let n := basinNo (bits (wordAt e.words 0) 3 0)
    ((c.putFirst t e).basin n).tail = ((c.basin n).tail + 8) % (c.basin n).size := by
  have htail := putWord_tail_last (t := t) (p := newPut t e c) (c := (c.beginPut t e).settleEng t) (Nat.le_of_eq h)
  rw [show (newPut t e c).bytes.length = 8 from h] at htail
  have hbasin := congrArg (fun b : Basin => (b.tail + 8) % b.size) (beginPut_basin_same t e c)
  exact htail.trans hbasin

/-- After its first word no word of a put is due in the same cycle. -/
theorem stepPut_putFirst (u : UnitIdx) (e : Entry) (s : State) :
    stepPut u (modCore u (Core.putFirst s.clk.raw e) s) = modCore u (Core.putFirst s.clk.raw e) s := by
  have hput := putFirst_put s.clk.raw e s.cores[u]
  have hcore := congrArg (fun c : Core => c.seq.put) (modCore_core u (Core.putFirst s.clk.raw e) s)
  split at hput
  · exact stepPut_of_none (hcore.trans hput)
  · exact stepPut_of_later (hcore.trans hput) (Nat.lt_succ_self _)

/-- A put that does not run into the reserve, its banks ON, writes its first word in its cycle and no other. -/
theorem settleCore_startPut {u : UnitIdx} {e : Entry} {s : State} (w : Work) (hup : (s.cores[u]).UpToDate s.clk.raw)
    (hlate : s.putLate u e = false)
    (hon : let b := (s.cores[u]).basin (basinNo (bits (wordAt e.words 0) 3 0));
      (s.cores[u]).banksOn s.clk.raw (b.runs b.tail 8) = true) :
    settleCore u (startPut u e w s) = modCore u (Core.putFirst s.clk.raw e) s := by
  have hup' : ((modCore u (Core.beginPut s.clk.raw e) s).cores[u]).UpToDate s.clk.raw :=
    (modCore_core u _ s).symm ▸ hup.of_enginesKept (beginPut_enginesKept ..)
  rw [startPut_eq, hlate, if_neg Bool.false_ne_true, settleCore_eq_landPut hup', modCore_modCore, modCore_clk]
  have hstep : stepPut u (modCore u (fun c => (c.beginPut s.clk.raw e).settleEng s.clk.raw) s) =
      modCore u (Core.putFirst s.clk.raw e) s := by
    refine (stepPut_of_banksOn (s := modCore u _ s) (p := newPut s.clk.raw e s.cores[u]) ?_ (Nat.le_refl _) ?_).trans ?_
    · rw [modCore_core]; rfl
    · rw [modCore_core, beginPut_putRuns8]; exact hon
    · rw [modCore_modCore]; exact modCore_congr rfl
  exact (landPut_eq_stepPut (by rw [hstep, stepPut_putFirst])).trans hstep

theorem completes_seqPut {u : UnitIdx} {e : Entry} {s s1 : State} {P : State → Prop} (h : Issues u 0x15 e s s1)
    (hc : putCheck u e s1 = .go) (hP : P (settleCore u (startPut u e (s1.workOf u 0x15 e) (popNext u 0x15 e s1)))) :
    Completes (.seqPut u e) s P :=
  ⟨_, rfl, (issueEntry_go _ h hc).symm ▸ hP⟩

/-- A SEQ_PUT that writes its first word at once. -/
theorem completes_seqPut_banksOn {u : UnitIdx} {e : Entry} {s s1 : State} {P : State → Prop} (h : Issues u 0x15 e s s1)
    (hc : putCheck u e s1 = .go) (hlate : s1.putLate u e = false)
    (hon : let b := (s1.cores[u]).basin (basinNo (bits (wordAt e.words 0) 3 0));
      (s1.cores[u]).banksOn s1.clk.raw (b.runs b.tail 8) = true)
    (hP : ∀ t, SeqFrame u s1 t → t.cores[u] = ((s1.cores[u]).popEntry 0x15 e).putFirst s1.clk.raw e → P t) :
    Completes (.seqPut u e) s P := by
  have hclk : (popNext u 0x15 e s1).clk = s1.clk := popNext_clk ..
  refine completes_seqPut h hc ?_
  rw [settleCore_startPut _ ?_ (by rw [popNext_putLate, hlate]) ?_, hclk]
  · exact hP _ (seqFrame_modCore (putFirst_enginesKept ..)) (by rw [modCore_core, popNext_core])
  · rw [hclk, popNext_core]
    exact ⟨h.upToDate.useTo, fun v t r hv => h.upToDate.release v t r (popEntry_entry .. ▸ hv)⟩
  · rw [hclk, popNext_core]
    exact hon

/-! ### One that would run into the reserve (R53, R57) -/

theorem finishJob_job (k : Fin 12) (cause code : Nat) (fault : Bool) (s : State) : (finishJob k cause code fault s).job k = none := by
  unfold finishJob
  split
  · next h => exact h
  · exact getElem_setV_same ..

/-- The MANIFEST event of a job that is no SAFETY job sets its bit and ends the job. -/
theorem manifestEvent_ends {k : Fin 12} {j : Job} {s : State} (hj : s.job k = some j) (hclass : j.isSafety = false) :
    (manifestEvent k s).con.status.getLsbD 5 = true ∧ (manifestEvent k s).job k = none := by
  simp only [manifestEvent, hj, hclass]
  refine ⟨?_, finishJob_job ..⟩
  obtain ⟨-, -, -, hcon, -⟩ := finishJob_same k 3 5 false (stopEngines k 3 { contractEvent 5 (some k) s with
    con := { (contractEvent 5 (some k) s).con with refused := (contractEvent 5 (some k) s).con.refused ++ [j.hdr.digest] } })
  refine (congrArg (fun c : Contract => c.status.getLsbD 5) hcon).trans ?_
  simp [stopEngines, contractEvent_status]

theorem countLate_jobs (u : UnitIdx) (w : Option (Fin 12)) (s : State) : (countLate u w s).jobs = s.jobs := by
  unfold countLate
  dsimp only
  split
  · rw [contractEvent_jobs]; rfl
  · rfl

/-- A late write clears no event of the contract. -/
theorem countLate_status {u : UnitIdx} {w : Option (Fin 12)} {s : State} {i : Nat} (h : s.con.status.getLsbD i = true) :
    (countLate u w s).con.status.getLsbD i = true := by
  unfold countLate
  dsimp only
  split
  · simp [contractEvent_status, h]
  · exact h

theorem stepPut_jobs (u : UnitIdx) (s : State) : (stepPut u s).jobs = s.jobs := by
  fun_cases stepPut u s with
  | case6 => rw [countLate_jobs]; rfl
  | _ => rfl

theorem stepPut_status {u : UnitIdx} {s : State} {i : Nat} (h : s.con.status.getLsbD i = true) :
    (stepPut u s).con.status.getLsbD i = true := by
  fun_cases stepPut u s with
  | case6 => exact countLate_status h
  | _ => exact h

theorem landPut_jobs (u : UnitIdx) (s : State) : (landPut u s).jobs = s.jobs :=
  List.foldlRecOn (motive := fun t : State => t.jobs = s.jobs) _ _ rfl fun t ht _ _ => (stepPut_jobs u t).trans ht

theorem landPut_status {u : UnitIdx} {s : State} {i : Nat} (h : s.con.status.getLsbD i = true) :
    (landPut u s).con.status.getLsbD i = true := by
  unfold landPut
  exact List.foldlRecOn (motive := fun t : State => t.con.status.getLsbD i = true) _ _ h fun _ ht _ _ => stepPut_status ht

theorem settleUse_con (u : UnitIdx) (hi : Nat) (vec : Bool) (s : State) : (settleUse u hi vec s).con = s.con := by
  simp only [settleUse, modCore_con, apply_ite State.con, ite_self]

theorem settleUse_job_none {u : UnitIdx} {hi : Nat} {vec : Bool} {s : State} {k : Fin 12} (h : s.job k = none) :
    (settleUse u hi vec s).job k = none := by
  have h' : s.jobs.slots[k.1] = none := h
  unfold settleUse
  dsimp only
  split
  · simp [State.job, h']
  · exact h

/-- What falls due on a core neither clears an event nor admits a job. -/
theorem settleCore_keeps_end {u : UnitIdx} {s : State} {k : Fin 12} {i : Nat} (hbit : s.con.status.getLsbD i = true)
    (hjob : s.job k = none) : (settleCore u s).con.status.getLsbD i = true ∧ (settleCore u s).job k = none := by
  constructor
  · rw [settleCore]
    refine landPut_status ?_
    rw [modCore_con, settleUse_con]
    exact hbit
  · have hjobs : (settleCore u s).jobs = (settleUse u s.clk.raw true s).jobs := landPut_jobs ..
    have hnone : (settleUse u s.clk.raw true s).job k = none := settleUse_job_none hjob
    rw [State.job, hjobs]
    exact hnone

theorem completes_seqPut_late {u : UnitIdx} {e : Entry} {s s1 : State} {k : Fin 12} {p : Nat} {j : Job} (h : Issues u 0x15 e s s1)
    (hc : putCheck u e s1 = .go) (hlate : s1.putLate u e = true) (hwork : s1.workOf u 0x15 e = { job := some k, period := p })
    (hj : s1.job k = some j) (hclass : j.isSafety = false) :
    Completes (.seqPut u e) s (fun t => t.con.status.getLsbD 5 = true ∧ t.job k = none) := by
  have hcore : u.1 < 64 := by
    simp only [State.putLate, Bool.and_eq_true, decide_eq_true_eq] at hlate
    obtain ⟨⟨⟨hcore, -⟩, -⟩, -⟩ := hlate
    exact hcore
  refine completes_seqPut h hc ?_
  rw [startPut_eq, popNext_putLate, if_pos hlate, hwork, manifestAt, if_pos hcore]
  have hend := manifestEvent_ends (k := k) (j := j)
    (s := modCore u (Core.beginPut (popNext u 0x15 e s1).clk.raw e) (popNext u 0x15 e s1)) ?_ hclass
  · exact settleCore_keeps_end hend.1 hend.2
  · rw [State.job, modCore_jobs, popNext_jobs]; exact hj

/-! ### Basins freed (R169) -/

/-- The basins of a list are undefined, the others stay; nothing else of the core changes. -/
theorem foldl_noBasin (ns : List (Fin 16)) (c : Core) :
    ns.foldl (fun c n => c.modBasin n noBasin) c = { c with basins := (ns.foldl (fun c n => c.modBasin n noBasin) c).basins } ∧
    ∀ m, (ns.foldl (fun c n => c.modBasin n noBasin) c).basin m = if m ∈ ns then noBasin (c.basin m) else c.basin m := by
  induction ns generalizing c with
  | nil => simp
  | cons n ns ih =>
    obtain ⟨heq, hbasin⟩ := ih (c.modBasin n noBasin)
    refine ⟨heq, fun m => ?_⟩
    rw [List.foldl_cons, hbasin]
    by_cases h : m = n
    · subst h; simp [noBasin]
    · simp [h]

theorem mem_maskBasins (v : Nat) (n : Fin 16) : n ∈ maskBasins v ↔ bitOf v n.1 = true := by simp [maskBasins]

end Sys2Proof.Machine

open Sys2Proof Sys2Proof.Machine

/-- Settles O43: each entry is a change of its core outside the engines; a SEQ_PUT's is that of its first word, since its core is up to
date and no other word is due. -/
theorem basinAndSequencerEntries : Obligations.BasinAndSequencerEntries := by
  intro u e s s1
  refine ⟨fun hi hr => ?_, fun hi hr => ?_, fun hi hr => ?_, fun hi hr => ?_, fun hi hc hwords hlate hon => ?_,
    fun hi hc hwords hlate hbs hon => ?_, fun k p j hi hc hlate hwork hj hclass => completes_seqPut_late hi hc hlate hwork hj hclass⟩
  · refine completes_seqEntry (fun _ c => c.modBasin _ (newBasin e)) rfl hi (must_eq_go hr) (fun _ => .of_eq rfl rfl rfl rfl)
      fun t hframe ht => ?_
    rw [ht]
    exact ⟨hframe, rfl, rfl, fun m hm => Core.basin_modBasin_other hm _ _, Core.basin_modBasin_same ..⟩
  · have hrules := hr
    simp only [popRules, Bool.and_eq_true] at hrules
    obtain ⟨⟨-, hdef⟩, -⟩ := hrules
    refine completes_seqEntry (fun now c => c.modBasin _ (Basin.take now _)) rfl hi (must_eq_go hr)
      (fun _ => .of_eq rfl rfl rfl rfl) fun t hframe ht => ?_
    rw [ht, Core.basin_modBasin_same]
    exact ⟨hframe, rfl, rfl, fun m hm => Core.basin_modBasin_other hm _ _, rfl, rfl, hdef⟩
  · refine completes_seqEntry (fun _ c => (maskBasins _).foldl (fun c n => c.modBasin n noBasin) c) rfl hi (must_eq_go hr)
      (fun c => ?_) fun t hframe ht => ?_
    · rw [(foldl_noBasin _ c).1]
      exact .of_eq rfl rfl rfl rfl
    · obtain ⟨heq, hbasin⟩ := foldl_noBasin (maskBasins (wordAt e.words 0)) ((s1.cores[u]).popEntry 0x12 e)
      have hpad : (t.cores[u]).pad = (s1.cores[u]).pad := by rw [ht, heq]; rfl
      have hbanks : (t.cores[u]).banks = (s1.cores[u]).banks := by rw [ht, heq]; rfl
      refine ⟨hframe, hpad, hbanks, fun m => ⟨fun hm => ?_, fun hm => ?_⟩⟩
      · rw [ht, hbasin, if_pos ((mem_maskBasins ..).2 hm)]; rfl
      · rw [ht, hbasin, if_neg (by simp [mem_maskBasins, hm])]; rfl
  · refine completes_seqEntry (fun _ c => { c with seq := { c.seq with mark := BitVec.ofNat 32 (wordAt e.words 0) } }) rfl hi
      (must_eq_go hr) (fun _ => .of_eq rfl rfl rfl rfl) fun t hframe ht => ?_
    rw [ht]
    exact ⟨hframe, rfl, rfl, rfl, rfl⟩
  · refine completes_seqPut_banksOn hi hc hlate hon fun t hframe ht => ?_
    have hlen : 8 < ((e.words.drop 1).flatMap wordBytes).length := by
      rw [length_flatMap_wordBytes, List.length_drop]
      unfold putWords at hwords
      omega
    rw [ht, putFirst_pad, putFirst_banks, putFirst_put, if_neg (Nat.not_le.2 hlen)]
    simp only [putFirst_basin_more _ hlen, beginPut_basin_same]
    exact ⟨hframe, rfl, rfl, fun m hm => beginPut_basin_other _ hm _, rfl, rfl, rfl⟩
  · refine completes_seqPut_banksOn hi hc hlate hon fun t hframe ht => ?_
    rw [ht, putFirst_pad, putFirst_tail_last _ hbs, putFirst_put, if_pos (Nat.le_of_eq hbs), List.take_of_length_le (Nat.le_of_eq hbs)]
    exact ⟨hframe, rfl, rfl, rfl⟩

end

section
/-! PROOFS. BANK_SLEEP, BANK_WAKE and the end of a wake (O44): what each leaves of a bank (R178, R180), and of the scratchpad once the
bytes of SLEEP_OFF are gone. -/

namespace Sys2Proof.Machine

/-! ### Several units of a vector changed one after another -/

theorem modV_congr {α : Type} {n : Nat} {v : Vector α n} {i : Fin n} {f g : α → α} (h : f v[i] = g v[i]) : modV v i f = modV v i g :=
  congrArg (setV v i) h

theorem getElem_foldl_modV {α : Type} {n : Nat} (f : α → α) (v : Vector α n) {ks : List (Fin n)} (hks : ks.Nodup) (k : Fin n) :
    (ks.foldl (fun v k => modV v k f) v)[k.1] = if k ∈ ks then f v[k.1] else v[k.1] := by
  induction ks generalizing v with
  | nil => simp
  | cons j ks ih =>
    obtain ⟨hj, hks⟩ := List.nodup_cons.1 hks
    rw [List.foldl_cons, ih _ hks]
    by_cases h : k = j
    · subst h; simp [hj]
    · simp [h]

theorem nodup_maskBanks (m : Nat) : (maskBanks m).Nodup := (List.nodup_finRange 32).filter _

theorem mem_maskBanks (m : Nat) (k : Fin 32) : k ∈ maskBanks m ↔ bitOf m k.1 = true := by simp [maskBanks]

/-! ### A bank (R178, R180) -/

theorem Bank.at_to_before {now w : Nat} (h : now < w) (x : BankState) (b : Bank) : (b.to now w x).at_ now = b.at_ now :=
  if_neg (Nat.not_le.2 h)

theorem Bank.at_to_from {now w t : Nat} (h : w ≤ t) (x : BankState) (b : Bank) : (b.to now w x).at_ t = x := if_pos h

/-- What BANK_SLEEP leaves of a bank of its mask. -/
def Bank.toSleep (now : Nat) (retain : Bool) (b : Bank) : Bank :=
  if b.at_ now = .on then b.to now (now + 1) (if retain then .sleepRet else .sleepOff) else b

/-- What a wake that begins in raw cycle w leaves of a bank. -/
def Bank.toWake (now w : Nat) (b : Bank) : Bank := if b.asleep now then b.to now w .waking else b

theorem Bank.at_toWake {now w : Nat} (h : now < w) (b : Bank) : (b.toWake now w).at_ now = b.at_ now := by
  unfold Bank.toWake
  split
  · exact Bank.at_to_before h ..
  · rfl

/-! ### BANK_SLEEP -/

theorem Core.sleepBank_eq (now : Nat) (retain : Bool) (k : Fin 32) (c : Core) :
    c.sleepBank now retain k = { c with banks := modV c.banks k (Bank.toSleep now retain) } := by
  unfold Core.sleepBank
  split
  · next h => rw [modV_congr (f := Bank.toSleep now retain) (if_pos (beq_iff_eq.1 h))]
  · next h => rw [modV_eq_self (f := Bank.toSleep now retain) (if_neg fun h' => h (beq_iff_eq.2 h'))]

theorem foldl_sleepBank (now : Nat) (retain : Bool) (ks : List (Fin 32)) (c : Core) :
    ks.foldl (fun c k => c.sleepBank now retain k) c =
      { c with banks := ks.foldl (fun v k => modV v k (Bank.toSleep now retain)) c.banks } := by
  induction ks generalizing c with
  | nil => rfl
  | cons k ks ih => rw [List.foldl_cons, ih, Core.sleepBank_eq]; rfl

/-- A core whose banks of a list have gone to sleep. -/
def Core.sleepAll (retain : Bool) (ks : List (Fin 32)) (now : Nat) (c : Core) : Core :=
  (ks.foldl (fun c k => c.sleepBank now retain k) c).recheck (now + 1)

theorem sleepAll_enginesKept (retain : Bool) (ks : List (Fin 32)) (now : Nat) (c : Core) : c.EnginesKept (c.sleepAll retain ks now) := by
  refine .trans ?_ (Core.recheck_enginesKept ..)
  rw [foldl_sleepBank]
  exact .of_eq rfl rfl rfl rfl

section
variable (retain : Bool) (now : Nat) (c : Core)

theorem sleepAll_pad (ks : List (Fin 32)) : (c.sleepAll retain ks now).pad = c.pad := by rw [Core.sleepAll, foldl_sleepBank]; rfl

theorem sleepAll_basins (ks : List (Fin 32)) : (c.sleepAll retain ks now).basins = c.basins := by
  rw [Core.sleepAll, foldl_sleepBank]; rfl

theorem sleepAll_bank (m : Nat) (k : Fin 32) : (c.sleepAll retain (maskBanks m) now).banks[k] =
    if bitOf m k.1 then (c.banks[k]).toSleep now retain else c.banks[k] := by
  simp only [← mem_maskBanks, Core.sleepAll, foldl_sleepBank]
  exact getElem_foldl_modV _ _ (nodup_maskBanks m) k

end

/-! ### BANK_WAKE -/

theorem Core.wake_eq (now w : Nat) (k : Fin 32) (c : Core) : c.wake now w k = { c with
    banks := modV c.banks k (Bank.toWake now w)
    pad := if (c.banks[k]).at_ now = .sleepOff then Cells.clear c.pad (k.1 * bankBytes) bankBytes else c.pad } := by
  unfold Core.wake
  split
  · next h => simp only [modV_congr (f := Bank.toWake now w) (if_pos h), beq_iff_eq]
  · next h =>
    have hoff : (c.banks[k]).at_ now ≠ .sleepOff := fun ho => h (by rw [Bank.asleep, ho]; rfl)
    rw [modV_eq_self (f := Bank.toWake now w) (if_neg h), if_neg hoff]

theorem foldl_wake_banks (now w : Nat) (ks : List (Fin 32)) (c : Core) :
    (ks.foldl (fun c k => c.wake now w k) c).banks = ks.foldl (fun v k => modV v k (Bank.toWake now w)) c.banks := by
  induction ks generalizing c with
  | nil => rfl
  | cons k ks ih => rw [List.foldl_cons, ih, Core.wake_eq]; rfl

theorem foldl_wake_basins (now w : Nat) (ks : List (Fin 32)) (c : Core) :
    (ks.foldl (fun c k => c.wake now w k) c).basins = c.basins :=
  List.foldlRecOn (motive := fun d : Core => d.basins = c.basins) ks _ rfl fun d hd k _ => by rw [Core.wake_eq]; exact hd

theorem wake_at {now w : Nat} (h : now < w) (j k : Fin 32) (c : Core) :
    ((c.wake now w j).banks[k]).at_ now = (c.banks[k]).at_ now := by
  rw [Core.wake_eq]
  by_cases hk : k = j
  · subst hk; simp [Bank.at_toWake h]
  · simp [hk]

/-- The byte at a is lost when the banks of a list wake: one of them holds it and sleeps in SLEEP_OFF. -/
def Core.losesByte (now : Nat) (ks : List (Fin 32)) (a : Nat) (c : Core) : Bool :=
  ks.any fun k => (c.banks[k]).at_ now == .sleepOff && decide (k.1 * bankBytes ≤ a ∧ a < (k.1 + 1) * bankBytes)

theorem losesByte_eq_true {now : Nat} {ks : List (Fin 32)} {a : Nat} {c : Core} : c.losesByte now ks a = true ↔
    ∃ k ∈ ks, (c.banks[k]).at_ now = .sleepOff ∧ k.1 * bankBytes ≤ a ∧ a < (k.1 + 1) * bankBytes := by
  simp [Core.losesByte]

theorem losesByte_cons (now : Nat) (k : Fin 32) (ks : List (Fin 32)) (a : Nat) (c : Core) :
    c.losesByte now (k :: ks) a = (c.losesByte now [k] a || c.losesByte now ks a) := by simp [Core.losesByte]

/-- Which bytes are lost does not change while the banks are woken one after another. -/
theorem losesByte_wake {now w : Nat} (h : now < w) (j : Fin 32) (ks : List (Fin 32)) (a : Nat) (c : Core) :
    (c.wake now w j).losesByte now ks a = c.losesByte now ks a := by simp only [Core.losesByte, wake_at h]

theorem wake_wf (now w : Nat) (k : Fin 32) {c : Core} (hwf : Cells.wf 0 c.pad = true) : Cells.wf 0 (c.wake now w k).pad = true := by
  simp only [Core.wake_eq]
  split
  · exact Cells.wf_clear hwf
  · exact hwf

theorem wake_get (now w : Nat) (k : Fin 32) {c : Core} (hwf : Cells.wf 0 c.pad = true) (a : Nat) :
    Cells.get 0 (c.wake now w k).pad a = if c.losesByte now [k] a then 0 else Cells.get 0 c.pad a := by
  simp only [Core.wake_eq, losesByte_eq_true, List.mem_singleton, exists_eq_left, Nat.add_one_mul]
  by_cases h : (c.banks[k]).at_ now = .sleepOff
  · rw [if_pos h, Cells.get_clear hwf]
    simp only [h, true_and]
  · rw [if_neg h, if_neg fun hl => h hl.1]

/-- Woken banks that slept in SLEEP_OFF hold zeros, every other byte stays. -/
theorem foldl_wake_get {now w : Nat} (h : now < w) (ks : List (Fin 32)) {c : Core} (hwf : Cells.wf 0 c.pad = true) (a : Nat) :
    Cells.get 0 (ks.foldl (fun c k => c.wake now w k) c).pad a = if c.losesByte now ks a then 0 else Cells.get 0 c.pad a := by
  induction ks generalizing c with
  | nil => rfl
  | cons k ks ih =>
    rw [List.foldl_cons, ih (wake_wf now w k hwf), losesByte_wake h, wake_get now w k hwf, losesByte_cons now k ks]
    cases c.losesByte now [k] a <;> simp

section
variable {now w : Nat} {ks : List (Fin 32)} {c : Core}

theorem wakeAll_basins : (c.wakeAll now w ks).basins = c.basins := foldl_wake_basins ..

theorem wakeAll_bank (m : Nat) (k : Fin 32) :
    (c.wakeAll now w (maskBanks m)).banks[k] = if bitOf m k.1 then (c.banks[k]).toWake now w else c.banks[k] := by
  simp only [← mem_maskBanks]
  have h := foldl_wake_banks now w (maskBanks m) c
  exact (congrArg (fun v : Vector Bank 32 => v[k]) h).trans (getElem_foldl_modV _ _ (nodup_maskBanks m) k)

theorem wakeAll_get (h : now < w) (hwf : Cells.wf 0 c.pad = true) (a : Nat) :
    Cells.get 0 (c.wakeAll now w ks).pad a = if c.losesByte now ks a then 0 else Cells.get 0 c.pad a := foldl_wake_get h ks hwf a

end

/-! ### The end of a wake -/

/-- A cycle that is reached is not before the one that was asked for. -/
theorem le_of_reach {t : Nat} {s u : State} (h : reach t s = some u) : t ≤ u.clk.raw := by
  obtain ⟨-, hclk, -⟩ := reach_same h
  rw [hclk]
  simp only [Clock.plus]
  omega

/-- A core whose bank k is ON from raw cycle w on. -/
def Core.bankOn (now w : Nat) (k : Fin 32) (c : Core) : Core := { c with banks := modV c.banks k (Bank.to now w .on) }.recheck w

theorem bankOn_enginesKept (now w : Nat) (k : Fin 32) (c : Core) : c.EnginesKept (c.bankOn now w k) := by
  unfold Core.bankOn
  refine .trans ?_ (Core.recheck_enginesKept ..)
  exact .of_eq rfl rfl rfl rfl

/-- The writes of a vector entry wait for a bank or do not, whatever is known of its reads. -/
theorem bankOn_entry_late {now w : Nat} {k : Fin 32} {c : Core} (h : ∀ v, c.vec.entry = some v → v.late = false) :
    ∀ v, (c.bankOn now w k).vec.entry = some v → v.late = false := by
  intro v hv
  obtain ⟨v', hv', rfl⟩ := Option.map_eq_some_iff.1 hv
  exact h v' hv'

theorem landNarrow_eq_self {now : Nat} {c : Core} (h : c.narrow = []) : c.landNarrow now = c := by
  simp only [Core.landNarrow, h, List.filter_nil, List.foldl_nil]
  rw [← h]

theorem landLate_eq_self {u : UnitIdx} {s : State} (h : s.waiting u = []) : landLate u s = s := by
  rw [landLate, h]
  rfl

/-- The writes held for banks of a core that are now ON take effect (R179): the second part of BANK_WAKE_DONE. -/
def landHeld (u : UnitIdx) (s : State) : State :=
  let s := match s.cores[u].vec.entry with
    | none => s
    | some v => if v.late then commitEntry u v s else s
  landLate u (landPut u (modCore u (Core.landNarrow s.clk.raw) s))

theorem bankWakeDone_of_waking {u : UnitIdx} {k : Fin 32} {s s1 : State} (hst : ((s.cores[u]).banks[k]).st = .waking)
    (hreach : reach (((s.cores[u]).banks[k]).since + 200) s = some s1) : bankWakeDone u k s =
      landHeld u (modCore u (Core.bankOn s1.clk.raw (((s.cores[u]).banks[k]).since + 200) k) s1) := by
  simp only [bankWakeDone, hst, atCycle, hreach]
  rfl

/-- With no write held for a bank, none takes effect. -/
theorem landHeld_eq_self {u : UnitIdx} {s : State} (hlate : ∀ v, (s.cores[u]).vec.entry = some v → v.late = false)
    (hput : (s.cores[u]).seq.put = none) (hnarrow : (s.cores[u]).narrow = []) (hwait : s.waiting u = []) : landHeld u s = s := by
  have hrest : landLate u (landPut u (modCore u (Core.landNarrow s.clk.raw) s)) = s := by
    rw [modCore_eq_self (landNarrow_eq_self hnarrow), landPut_eq_self (stepPut_of_none hput), landLate_eq_self hwait]
  unfold landHeld
  split
  · exact hrest
  · next v hv =>
    rw [hlate v hv]
    exact hrest

/-- With no write held for a bank, the end of a wake changes the bank's state and what is known of the reads in progress. -/
theorem bankWakeDone_eq {u : UnitIdx} {k : Fin 32} {s s1 : State} (hst : ((s.cores[u]).banks[k]).st = .waking)
    (hreach : reach (((s.cores[u]).banks[k]).since + 200) s = some s1) (hlate : ∀ v, (s1.cores[u]).vec.entry = some v → v.late = false)
    (hput : (s1.cores[u]).seq.put = none) (hnarrow : (s1.cores[u]).narrow = []) (hwait : s1.waiting u = []) :
    bankWakeDone u k s = modCore u (Core.bankOn s1.clk.raw (((s.cores[u]).banks[k]).since + 200) k) s1 := by
  rw [bankWakeDone_of_waking hst hreach]
  generalize ((s.cores[u]).banks[k]).since + 200 = w
  have hcore := modCore_core u (Core.bankOn s1.clk.raw w k) s1
  refine landHeld_eq_self ?_ ?_ ?_ hwait
  · rw [hcore]; exact bankOn_entry_late hlate
  · rw [hcore]; exact hput
  · rw [hcore]; exact hnarrow

end Sys2Proof.Machine

open Sys2Proof Sys2Proof.Machine

/-- Settles O44: what each command leaves is read off bank by bank, the scratchpad off the banks that slept in SLEEP_OFF. -/
theorem banksSleepAndWake : Obligations.BanksSleepAndWake := by
  intro u e s s1
  refine ⟨fun hi hok hzero => ?_, fun hi hok hwf => ?_, fun k hst hreach hlate hput hnarrow hwait => ?_⟩
  · refine completes_seqEntry (Core.sleepAll (bitOf (wordAt e.words 1) 0) (maskBanks (wordAt e.words 0))) rfl hi
      (must_eq_go (by simp [hok, hzero])) (sleepAll_enginesKept _ _ _) fun t hframe ht => ?_
    rw [ht, sleepAll_pad, sleepAll_basins]
    refine ⟨hframe, rfl, rfl, fun k => ?_⟩
    rw [sleepAll_bank, popEntry_banks]
    refine ⟨fun hm hon => ?_, fun hne => ?_⟩
    · rw [if_pos hm, Bank.toSleep, if_pos hon]
      exact ⟨(Bank.at_to_before (Nat.lt_succ_self _) ..).trans hon, Bank.at_to_from (Nat.le_refl _) ..⟩
    · rcases hne with hm | hon
      · rw [if_neg (Bool.eq_false_iff.1 hm)]
      · rw [Bank.toSleep, if_neg hon, ite_self]
  · refine completes_seqEntry (fun now c => c.wakeAll now (now + 1) (maskBanks _)) rfl hi
      (must_eq_go hok) (fun _ => wakeAll_enginesKept ..) fun t hframe ht => ?_
    have hpad : Cells.wf 0 ((s1.cores[u]).popEntry 0x14 e).pad = true := hwf
    rw [ht, wakeAll_basins]
    refine ⟨hframe, rfl, fun k => ?_, fun k hm hoff a hlo hhi => ?_, fun a hother => ?_⟩
    · rw [wakeAll_bank, popEntry_banks]
      refine ⟨fun hm hasleep => ?_, fun hne => ?_⟩
      · rw [if_pos hm, Bank.toWake, if_pos hasleep]
        exact Bank.at_to_from (Nat.le_refl _) ..
      · rcases hne with hm | hawake
        · rw [if_neg (Bool.eq_false_iff.1 hm)]
        · rw [Bank.toWake, if_neg (Bool.eq_false_iff.1 hawake), ite_self]
    · rw [wakeAll_get (Nat.lt_succ_self _) hpad, if_pos]
      exact losesByte_eq_true.2 ⟨k, (mem_maskBanks ..).2 hm, hoff, hlo, hhi⟩
    · rw [wakeAll_get (Nat.lt_succ_self _) hpad, if_neg]
      · rfl
      · intro hl
        obtain ⟨k, hk, hoff, hlo, hhi⟩ := losesByte_eq_true.1 hl
        rcases hother k hlo hhi with hm | hne
        · exact Bool.eq_false_iff.1 hm ((mem_maskBanks ..).1 hk)
        · exact hne hoff
  · refine completes_of_exec_eq (congrArg Host.Outcome.next (bankWakeDone_eq hst hreach hlate hput hnarrow hwait)) ?_
    have hkept := bankOn_enginesKept s1.clk.raw (((s.cores[u]).banks[k]).since + 200) k s1.cores[u]
    have hothers := (modCore_unitStep u (Core.bankOn s1.clk.raw (((s.cores[u]).banks[k]).since + 200) k) s1).others
    rw [modCore_core]
    refine ⟨?_, fun x hx => getElem_modV_other _ hx _, rfl, hothers, rfl, hkept.passes, hkept.entry⟩
    exact (congrArg (Bank.at_ s1.clk.raw) (getElem_modV_same ..)).trans (Bank.at_to_from (le_of_reach hreach) ..)

end

section
/-! PROOFS. CONTEXT_FETCH, DESCRIPTOR_FETCH and FETCH_LANDED (O45): the request at the channels (R238), the half that is asked for and
lands whole (R182, R184), the group of descriptors (R237). -/

namespace Sys2Proof.Machine

/-! ### The request (R238) -/

/-- The fetch of a range of bytes that a request adds. -/
def newFetch (kind : FetchKind) (k : Fin 12) (j : Job) (due posted : Nat) (range : Option (Nat × Nat)) : Fetch :=
  let ls := match range with | none => [] | some (a, n) => readsOf a n
  { kind := kind, job := k, jid := j.id, due := due, posted := posted, lines := ls, left := ls.length }

theorem postFetch_eq (kind : FetchKind) (k : Fin 12) (j : Job) (due : Nat) (range : Option (Nat × Nat)) (s : State) :
    postFetch kind k j due range s =
      { s with mem := { s.mem with fetches := s.mem.fetches ++ [newFetch kind k j due s.grid range] } } := rfl

/-- A fetch of a kind, for a job, posted in a grid cycle, all of whose reads are still to come. -/
def Fetch.Asked (kind : FetchKind) (k : Fin 12) (j : Job) (posted : Nat) (f : Fetch) : Prop :=
  f.kind = kind ∧ f.job = k ∧ f.jid = j.id ∧ f.posted = posted ∧ f.left = f.lines.length ∧ f.got = []

theorem newFetch_asked (kind : FetchKind) (k : Fin 12) (j : Job) (due posted : Nat) (range : Option (Nat × Nat)) :
    (newFetch kind k j due posted range).Asked kind k j posted := ⟨rfl, rfl, rfl, rfl, rfl, rfl⟩

/-! ### A context half (R182, R184) -/

/-- A core whose half h of context k is asked for: it names a beat and holds no entry. -/
def Core.askHalf (k : Fin 5) (h : Fin 2) (beat : Nat) (c : Core) : Core :=
  { c with seq := { c.seq with halves := modV c.seq.halves k fun hs => setV hs h { beat := beat, entries := [], complete := false } } }

section
variable (k : Fin 5) (h : Fin 2) (beat : Nat) (c : Core)

theorem askHalf_same : ((c.askHalf k h beat).seq.halves[k])[h] = { beat := beat, entries := [], complete := false } := by
  simp [Core.askHalf]

theorem askHalf_half {i : Fin 2} (hi : i ≠ h) : ((c.askHalf k h beat).seq.halves[k])[i] = (c.seq.halves[k])[i] := by
  simp [Core.askHalf, hi]

theorem askHalf_context {i : Fin 5} (hi : i ≠ k) : (c.askHalf k h beat).seq.halves[i] = c.seq.halves[i] := getElem_modV_other _ hi _

end

theorem any_beat_eq_false {hs : Vector Half 2} {beat : Nat} (h : ∀ i : Fin 2, (hs[i]).beat ≠ beat) :
    hs.toList.any (fun x => x.beat == beat) = false := by
  rw [List.any_eq_false]
  intro x hx
  obtain ⟨i, hi, rfl⟩ := Vector.mem_iff_getElem.1 (Vector.mem_toList_iff.1 hx)
  simpa using h ⟨i, hi⟩

/-- CONTEXT_FETCH asks for the half that may receive the next beat. -/
theorem contextFetch_eq {c : Fin 64} {k : Fin 5} {s : State} {x : Fin 12} {j : Job} {h : Fin 2} (hx : s.ctxJob c.1 k.1 = some x)
    (hj : s.job x = some j) (hmarks : j.marks (s.clk.beat + 1) = true)
    (hnew : ∀ i : Fin 2, (((s.cores[coreUnit c]).seq.halves[k])[i]).beat ≠ s.clk.beat + 1)
    (hfree : freeHalf s.clk.beat ((s.cores[coreUnit c]).seq.halves[k]) = some h) :
    ∃ f : Fetch, f.Asked (.context c k) x j s.grid ∧ f.due = (s.clk.beat + 1) * 250000 ∧
      contextFetch c k s = modCore (coreUnit c) (Core.askHalf k h (s.clk.beat + 1))
        { s with mem := { s.mem with fetches := s.mem.fetches ++ [f] } } := by
  have hany := any_beat_eq_false hnew
  unfold coreUnit at hany hfree ⊢
  simp only [contextFetch, hx, hj, hmarks, hany, hfree]
  exact ⟨_, newFetch_asked .., rfl, rfl⟩

/-- A core on which what was asked for of context k has landed, read from an image. -/
def Core.landHalves (c : Fin 64) (k : Fin 5) (j : Job) (img : List Byte) (core : Core) : Core :=
  { core with seq := { core.seq with halves := modV core.seq.halves k fun hs => hs.map fun h =>
      if h.asked then { h with entries := coreEntries img j c.1 h.beat, complete := true } else h } }

theorem landHalves_half (c : Fin 64) (k : Fin 5) (j : Job) (img : List Byte) (core : Core) (i : Fin 2) :
    ((core.landHalves c k j img).seq.halves[k])[i] =
      (let h := (core.seq.halves[k])[i]
       if h.asked then { h with entries := coreEntries img j c.1 h.beat, complete := true } else h) := by
  simp [Core.landHalves]

/-! ### What has landed (R184, R237) -/

/-- Without a request all of whose reads have landed nothing changes. -/
theorem fetchLanded_of_none {k : FetchKind} {s : State}
    (h : s.mem.fetches.find? (fun x => x.kind == k && x.lines.isEmpty && x.left == 0) = none) : fetchLanded k s = s := by
  simp only [fetchLanded, h]

theorem fetchLanded_context {c : Fin 64} {k : Fin 5} {s : State} {f : Fetch} {j : Job}
    (h : s.mem.fetches.find? (fun x => x.kind == .context c k && x.lines.isEmpty && x.left == 0) = some f) (hj : s.job f.job = some j) :
    fetchLanded (.context c k) s = modCore (coreUnit c) (Core.landHalves c k j (s.imageAs f.got j))
      { s with mem := { s.mem with fetches := s.mem.fetches.erase f } } := by
  have hj' : State.job { s with mem := { s.mem with fetches := s.mem.fetches.erase f } } f.job = some j := hj
  simp only [fetchLanded, h, hj']
  rfl

theorem fetchLanded_group {r : Fin 32} {g : Fin 4} {s : State} {f : Fetch} {j : Job}
    (h : s.mem.fetches.find? (fun x => x.kind == .group r g && x.lines.isEmpty && x.left == 0) = some f) (hj : s.job f.job = some j) :
    fetchLanded (.group r g) s = landGroup r g f.job j (s.imageAs f.got j)
      { s with mem := { s.mem with fetches := s.mem.fetches.erase f } } := by
  have hj' : State.job { s with mem := { s.mem with fetches := s.mem.fetches.erase f } } f.job = some j := hj
  simp only [fetchLanded, h, hj']
  rfl

/-! ### A group of descriptors (R237) -/

theorem modRill_rill (r : Fin 32) (f : Rill → Rill) (s : State) : (modRill r f s).rills[r] = f s.rills[r] := getElem_modV_same ..

theorem modRill_other {r q : Fin 32} (h : q ≠ r) (f : Rill → Rill) (s : State) : (modRill r f s).rills[q] = s.rills[q] :=
  getElem_modV_other _ h _

/-- What a landed group leaves of a descriptor, with the rule read as a proposition. -/
theorem landed_desc (k : Fin 12) (g : Fin 4) (d d' : Desc) :
    (if (d.job == k && inGroup g d.slot && d.retired) = true then d' else d) =
      if d.job = k ∧ d.slot.1 / 16 = g.1 ∧ d.retired = true then d' else d := by
  simp [inGroup, and_assoc]

/-- A rill that fetches one group more, for job k. -/
def Rill.askGroup (g : Fin 4) (k : Fin 12) (x : Rill) : Rill := { x with fetching := x.fetching ++ [(k, g)] }

/-- DESCRIPTOR_FETCH asks for the group of the job whose descriptors have all retired. -/
theorem execDescriptorFetch_eq {r : Fin 32} {g : Fin 4} {k : Fin 12} {j : Job} {s : State} (hk : (s.rills[r]).refillJob g = some k)
    (hj : s.job k = some j) : ∃ f : Fetch, f.Asked (.group r g) k j s.grid ∧ execDescriptorFetch r g s =
      .next (modRill r (Rill.askGroup g k) { s with mem := { s.mem with fetches := s.mem.fetches ++ [f] } }) := by
  simp only [execDescriptorFetch, hk, fetchGroup, hj, postFetch_eq]
  exact ⟨_, newFetch_asked .., rfl⟩

end Sys2Proof.Machine

open Sys2Proof Sys2Proof.Machine

/-- Settles O45: a request is one fetch more and the half or group that it names; what lands is one core's context or one rill's queue. -/
theorem timetableFetches : Obligations.TimetableFetches := by
  intro s
  refine ⟨fun c k x j h hx hj hmarks hnew hfree => ?_, fun k h => completes_of_exec_eq rfl (fetchLanded_of_none h),
    fun c k f j h hj => completes_of_exec_eq (congrArg Host.Outcome.next (fetchLanded_context h hj)) ?_, fun r g k j hk hj => ?_,
    fun r g f j h hj => completes_of_exec_eq (congrArg Host.Outcome.next (fetchLanded_group h hj)) ?_⟩
  · obtain ⟨f, ⟨hkind, hjob, hjid, hposted, hleft, hgot⟩, hdue, heq⟩ := contextFetch_eq hx hj hmarks hnew hfree
    refine completes_of_exec_eq (congrArg Host.Outcome.next heq) ?_
    rw [modCore_core]
    exact ⟨askHalf_same .., fun i hi => askHalf_half _ _ _ _ hi, fun i hi => askHalf_context _ _ _ _ hi,
      ⟨f, rfl, hkind, hjob, hjid, hdue, hposted, hleft, hgot⟩, rfl, fun v hv => getElem_modV_other _ hv _, rfl, rfl⟩
  · rw [modCore_core]
    exact ⟨fun i => landHalves_half .., fun i hi => getElem_modV_other _ hi _, rfl, fun v hv => getElem_modV_other _ hv _, rfl, rfl⟩
  · obtain ⟨f, ⟨hkind, hjob, hjid, hposted, hleft, hgot⟩, heq⟩ := execDescriptorFetch_eq hk hj
    exact ⟨_, heq, ⟨f, rfl, hkind, hjob, hjid, hposted, hleft, hgot⟩, rfl, fun q hq => modRill_other hq .., modRill_rill ..⟩
  · simp only [← landed_desc]
    exact ⟨rfl, fun q hq => modRill_other hq .., modRill_rill ..⟩

end

section
/-! PROOFS. The mailbox commands on jobs and on the sequence table (O18, O19): a command taken with the arguments R468 requires is DONE
with its operation's effect (R464); the changes of one job (R265, R269) and of one entry of the table (R274). -/

namespace Sys2Proof.Machine

/-! ### A command that is taken (R464) -/

/-- A GO that is taken, whose arguments are as R468 requires and whose operation answers DONE, leaves the operation's state with the
reply waiting. -/
theorem completes_of_takes {cmd : Instr} {c : CmdRow} {act : List Byte → State → (Nat × List Byte) × State} {f : Frame} {s t : State}
    {n : Nat} {payload : List Byte} {P : State → Prop} (hcmd : exec cmd s = .next (go c act f s)) (ht : Takes c.legal n f s)
    (hn : n ≤ 4080) (hlen : c.lenOk n = true) (hzero : c.zero (frameBody f) = true) (hbusy : c.busy s.begun = false)
    (hargs : c.args (frameBody f) s.begun = true) (hact : act (frameBody f) s.begun = done payload t)
    (hP : P (t.withReply (replyTo c.op 0 f s payload))) : Completes cmd s P := by
  obtain ⟨hon, hidle, hlegal, hparked, hcrc, hhdr, hflen⟩ := ht
  have hcheck : c.check f (acceptGo s) = 0 :=
    check_ok c f s.begun n hflen hn hcrc hlegal (.inl hparked) hlen hhdr hzero hbusy hargs
  have hgo : go c act f s = t.withReply (replyTo c.op 0 f s payload) := by
    rw [go_ok c act f s hon hidle hcheck, show acceptGo s = s.begun from rfl, hact]
    rfl
  exact completes_of_exec_eq (hcmd.trans (congrArg Host.Outcome.next hgo)) hP

/-! ### What the GO itself leaves of jobs and table -/

@[simp] theorem begun_seqs (s : State) : s.begun.jobs.seqs = s.jobs.seqs := rfl

@[simp] theorem begun_jobOf (s : State) (id : Nat) : s.begun.jobOf id = s.jobOf id := rfl

@[simp] theorem begun_placedSlot (s : State) (id : Nat) : s.begun.placedSlot id = s.placedSlot id := rfl

@[simp] theorem begun_freeSeq (s : State) : s.begun.freeSeq = s.freeSeq := rfl

@[simp] theorem begun_entryState (s : State) (bs : List Byte) : s.begun.entryState bs = s.entryState bs := rfl

@[simp] theorem begun_cacheOk (s : State) (e : Option (Fin 256)) (base pages : Nat) (j : Job) :
    s.begun.cacheOk e base pages j = s.cacheOk e base pages j := rfl

/-! ### One job changed -/

section
variable {k : Fin 12} {s : State}

theorem modJob_job {j : Job} (hj : s.job k = some j) (f : Job → Job) : (modJob k f s).job k = some (f j) :=
  (getElem_modV_same ..).trans (congrArg (Option.map f) hj)

theorem modJob_job_other {i : Fin 12} (h : i ≠ k) (f : Job → Job) : (modJob k f s).job i = s.job i := getElem_modV_other _ h _

end

/-! ### JOB_STOP and JOB_SHARES (R265, R269) -/

theorem hostStop_eq (s : State) (j : Job) : hostStop s j = stopAsked s j := by
  by_cases hc : j.hdr.cls = 0
  · by_cases hw : j.startBeat ≤ s.clk.beat ∧ j.hdr.windowFirst ≤ s.beatInFrame ∧
        s.beatInFrame < j.hdr.windowFirst + j.hdr.windowBeats <;>
      simp [hostStop, stopAsked, Job.isSafety, Job.started, Job.inWindow, hc, hw]
  · simp [hostStop, stopAsked, Job.isSafety, hc]

/-- The job with the stop that the host asks for, unless one is scheduled. -/
def Job.stopBy (s : State) (j : Job) : Job := { j with stop := some (j.stop.getD (hostStop s j)) }

theorem stopBy_of_some {s : State} {j : Job} {x : StopReq} (h : j.stop = some x) : j.stopBy s = j := by
  rw [Job.stopBy, h, Option.getD_some, ← h]

theorem stopBy_of_none {s : State} {j : Job} (h : j.stop = none) : j.stopBy s = { j with stop := some (stopAsked s j) } := by
  simp [Job.stopBy, h, hostStop_eq]

theorem doJobStop_of_none {bs : List Byte} {s : State} (h : s.slotOf (idWord bs 0) = none) : doJobStop bs s = done [] s := by
  simp [doJobStop, h]

theorem doJobStop_of_some {bs : List Byte} {s : State} {k : Fin 12} (h : s.slotOf (idWord bs 0) = some k) :
    doJobStop bs s = done [] (modJob k (Job.stopBy s) s) := by
  simp only [doJobStop, h]; rfl

theorem placedSlot_eq {s : State} {id : Nat} {k : Fin 12} {j : Job} (hk : s.slotOf id = some k) (hj : s.job k = some j)
    (hc : j.hdr.cls ≠ 0) : s.placedSlot id = some k := by
  simp [State.placedSlot, hk, hj, Job.isSafety, hc]

/-- The job with the SHARES and STALL_THR of a JOB_SHARES to come. -/
def Job.sharesTo (bs : List Byte) (j : Job) : Job :=
  { j with pendShares := some (BitVec.ofNat 10 (wordOf bs 1), BitVec.ofNat 32 (wordOf bs 2)) }

theorem doShares_of_placed {bs : List Byte} {s : State} {k : Fin 12} (h : s.placedSlot (idWord bs 0) = some k) :
    doShares bs s = done (natLE 4 (wordOf bs 1) ++ natLE 4 (wordOf bs 2)) (modJob k (Job.sharesTo bs) s) := by
  simp only [doShares, h]; rfl

end Sys2Proof.Machine

open Sys2Proof Sys2Proof.Machine

/-- Settles O18: each command is one job changed, JOB_STOP by the stop it asks for unless one is scheduled, JOB_SHARES by the shares to
come. -/
theorem jobCommands : Obligations.JobCommands := by
  intro f s w
  refine ⟨fun ht hz => ⟨fun hk => ?_, fun k j hk hj => ?_⟩, fun k j ht hz hk hj hc h1 h1000 => ?_⟩
  · exact completes_of_takes (c := jobStopRow) rfl ht (by decide) rfl (beq_iff_eq.2 hz) rfl rfl (doJobStop_of_none hk) rfl
  · refine completes_of_takes (c := jobStopRow) rfl ht (by decide) rfl (beq_iff_eq.2 hz) rfl rfl (doJobStop_of_some hk)
      ⟨fun x hx => ?_, fun hx => ?_, fun i hi => modJob_job_other hi _, rfl⟩
    · exact (modJob_job (s := s.begun) hj _).trans (congrArg some (stopBy_of_some hx))
    · exact (modJob_job (s := s.begun) hj _).trans (congrArg some (stopBy_of_none hx))
  · have hplaced : s.placedSlot (idWord (frameBody f) 0) = some k := placedSlot_eq hk hj hc
    refine completes_of_takes (c := sharesRow) rfl ht (by decide) rfl (beq_iff_eq.2 hz) rfl ?_ (doShares_of_placed hplaced)
      ⟨⟨_, modJob_job hj _, rfl⟩, fun i hi => modJob_job_other hi _, rfl⟩
    simp [sharesRow, hplaced, h1, h1000]

namespace Sys2Proof.Machine

/-! ### One entry of the sequence table changed -/

section
variable (i : Fin 256) (g : Seq → Seq) (s : State)

theorem modSeq_same : (modSeq i g s).jobs.seqs[i] = g s.jobs.seqs[i] := getElem_modV_same ..

theorem modSeq_other {x : Fin 256} (h : x ≠ i) : (modSeq i g s).jobs.seqs[x] = s.jobs.seqs[x] := getElem_modV_other _ h _

end

/-- The lowest FREE entry is the first that is FREE. -/
theorem freeSeq_eq {s : State} {i : Fin 256} (hfree : (s.jobs.seqs[i]).state = .free) (hlow : ∀ x < i, (s.jobs.seqs[x]).state ≠ .free) :
    s.freeSeq = some i := by
  refine List.find?_eq_some_iff_getElem.2 ⟨beq_iff_eq.2 hfree, i.1, by simp, by simp, fun x hx => ?_⟩
  simpa using hlow ⟨x, by omega⟩ hx

theorem seqWord_eq {bs : List Byte} {i : Fin 256} (h : wordOf bs 0 = i.1) : seqWord bs = some i := by
  simp [seqWord, h]

theorem entryState_eq {bs : List Byte} {s : State} {i : Fin 256} (h : wordOf bs 0 = i.1) :
    s.entryState bs = some (s.jobs.seqs[i]).state := by
  simp [State.entryState, seqWord_eq h]

/-! ### The four commands (R274) -/

/-- The entry that SEQ_OPEN opens. -/
def openedSeq (bs : List Byte) : Seq :=
  { id := BitVec.ofNat 32 (wordOf bs 1), job := BitVec.ofNat 8 (idWord bs 0), state := .waiting, auto := bitOf (wordOf bs 0) 11
    kvBasin := BitVec.ofNat 4 (bits (wordOf bs 0) 15 12), lenMax := BitVec.ofNat 24 (wordOf bs 2)
    kvBase := BitVec.ofNat 40 (payAddr bs 3), pages := BitVec.ofNat 16 (wordOf bs 5) }

/-- An entry fed with the tokens of a payload, READY since a period. -/
def Seq.fed (bs : List Byte) (since : Nat) (q : Seq) : Seq :=
  { q with next := BitVec.ofNat 16 (wordOf bs 1), state := .ready, readySince := BitVec.ofNat 32 since }

/-- An ORPHANED entry given to the job that a payload names. -/
def Seq.rebound (bs : List Byte) (q : Seq) : Seq :=
  { q with state := q.kept, job := BitVec.ofNat 8 (idWord bs 1), kept := .free }

/-- The period that an entry of a job is READY since when it is fed: the job's next to be listed. -/
def State.sinceOf (s : State) (id : Nat) : Nat := ((s.jobOf id).map s.nextList).getD 0

/-- The fields of an entry that has been fed, its period read off the entry. -/
theorem eq_of_eq_fed {bs : List Byte} {since : Nat} {q q' : Seq} (h : q' = q.fed bs since) :
    q' = { q with next := BitVec.ofNat 16 (wordOf bs 1), state := .ready, readySince := q'.readySince } := by
  rw [h, Seq.fed]

theorem sinceOf_eq {s : State} {id : Nat} {j : Job} (h : s.jobOf id = some j) : s.sinceOf id = s.nextList j := by
  simp [State.sinceOf, h]

section
variable {bs : List Byte} {s : State} {i : Fin 256}

theorem doSeqOpen_eq (h : s.freeSeq = some i) : doSeqOpen bs s = done (natLE 4 i.1) (modSeq i (fun _ => openedSeq bs) s) := by
  simp only [doSeqOpen, h]; rfl

theorem doSeqFeed_eq (h : wordOf bs 0 = i.1) :
    doSeqFeed bs s = done [] (modSeq i (Seq.fed bs (s.sinceOf (s.jobs.seqs[i]).job.toNat)) s) := by
  simp only [doSeqFeed, seqWord_eq h]; rfl

theorem doSeqClose_listed (h : wordOf bs 0 = i.1) (hl : (s.jobs.seqs[i]).state = .listed) :
    doSeqClose bs s = done [] (closeListed i s) := by
  simp only [doSeqClose, seqWord_eq h, hl, if_true]

theorem doSeqClose_of_not_listed (h : wordOf bs 0 = i.1) (hl : (s.jobs.seqs[i]).state ≠ .listed) :
    doSeqClose bs s = done [] (modSeq i (fun _ => {}) s) := by
  simp only [doSeqClose, seqWord_eq h, hl, if_false]

theorem doSeqRebind_eq (h : wordOf bs 0 = i.1) : doSeqRebind bs s = done [] (modSeq i (Seq.rebound bs) s) := by
  simp only [doSeqRebind, seqWord_eq h]; rfl

end

/-! ### A listed entry closes with its period (R274) -/

/-- A period with what it closes: entry i too, where it lists it. -/
def Period.toClose (i : Fin 256) (p : Period) : Period :=
  if p.list.contains i && !p.closing.contains i then { p with closing := p.closing ++ [i] } else p

theorem toClose_index (i : Fin 256) (p : Period) : (p.toClose i).index = p.index := by
  unfold Period.toClose; split <;> rfl

theorem toClose_list (i : Fin 256) (p : Period) : (p.toClose i).list = p.list := by
  unfold Period.toClose; split <;> rfl

theorem mem_toClose_closing {i : Fin 256} {p : Period} (h : i ∈ p.list) : i ∈ (p.toClose i).closing := by
  by_cases hc : i ∈ p.closing <;> simp [Period.toClose, h, hc]

/-- Every period of the job that the entry belongs to is marked. -/
theorem closeListed_job {i : Fin 256} {s : State} {k : Fin 12} {j : Job} (hj : s.job k = some j) (hid : j.id = (s.jobs.seqs[i]).job) :
    (closeListed i s).job k = some { j with run := j.run.map (Period.toClose i), past := j.past.map (Period.toClose i) } :=
  (Vector.getElem_map ..).trans ((congrArg (Option.map _) hj).trans (congrArg some (if_pos hid)))

end Sys2Proof.Machine

open Sys2Proof Sys2Proof.Machine

/-- Settles O19: each command is one entry of the table changed, but SEQ_CLOSE of a LISTED one, which marks the entry in the period of
its job that lists it. -/
theorem sequenceCommands : Obligations.SequenceCommands := by
  intro f s i b _ _
  refine ⟨fun j ht hz hfree hlow hj hcache => ?_, fun hi =>
    ⟨fun ht hw h1 hmax => ?_, fun ht hfree hlisted => ?_, fun ht hlisted => ?_, fun j ht hz horph hj hcache => ?_⟩⟩
  · have hlowest : s.freeSeq = some i := freeSeq_eq hfree hlow
    refine completes_of_takes (c := seqOpenRow) rfl ht (by decide) rfl hz rfl ?_ (doSeqOpen_eq hlowest)
      ⟨modSeq_same .., fun x hx => modSeq_other _ _ _ hx, rfl⟩
    have hj' : s.jobOf (idWord b 0) = some j := hj
    simp [seqOpenRow, hlowest, hj', hcache, b]
  · refine completes_of_takes (c := seqFeedRow) rfl ht (by decide) rfl rfl rfl ?_ (doSeqFeed_eq hi)
      ⟨eq_of_eq_fed (modSeq_same ..), fun j hj => ?_, fun x hx => modSeq_other _ _ _ hx, rfl⟩
    · simp [seqFeedRow, entryState_eq hi, hw, h1, hmax, b, -Fin.getElem_fin]
    · exact (congrArg Seq.readySince (modSeq_same ..)).trans (congrArg (BitVec.ofNat 32) (sinceOf_eq hj))
  · refine completes_of_takes (c := seqCloseRow) rfl ht (by decide) rfl rfl rfl ?_ (doSeqClose_of_not_listed hi hlisted)
      ⟨modSeq_same .., fun x hx => modSeq_other _ _ _ hx, rfl⟩
    simp [seqCloseRow, entryState_eq hi, hfree, b, -Fin.getElem_fin]
  · refine completes_of_takes (c := seqCloseRow) rfl ht (by decide) rfl rfl rfl ?_ (doSeqClose_listed hi hlisted)
      ⟨rfl, fun k j p hj hid hp hmem => ⟨_, closeListed_job hj hid, _, List.mem_map_of_mem hp, toClose_index i p, toClose_list i p,
        mem_toClose_closing hmem⟩, rfl⟩
    simp [seqCloseRow, entryState_eq hi, hlisted, b, -Fin.getElem_fin]
  · refine completes_of_takes (c := seqRebindRow) rfl ht (by decide) rfl (beq_iff_eq.2 hz) rfl ?_ (doSeqRebind_eq hi)
      ⟨modSeq_same .., fun x hx => modSeq_other _ _ _ hx, rfl⟩
    have hj' : s.jobOf (idWord b 1) = some j := hj
    simp [seqRebindRow, seqWord_eq hi, horph, hj', hcache, b, -Fin.getElem_fin]

end

section
/-! PROOFS. CTL_STRICT (O23): the value that BOOTING ends with (R292), the three answers to a write of ISL_DET_CTRL (R16, R292, R298),
and the reply of an admission, which takes a change of its own cycle back (R293). -/

namespace Sys2Proof.Machine

/-! ### The end of BOOTING (R292) -/

@[simp] theorem settleProof_det (s : State) : (settleProof s).det = s.det := by
  unfold settleProof; split
  · rfl
  · split <;> rfl

@[simp] theorem proofBoundary_det (s : State) : (proofBoundary s).det = s.det := by
  unfold proofBoundary; dsimp only; split
  · exact settleProof_det s
  · exact settleProof_det s

@[simp] theorem reportCutLoad_det (s : State) : (reportCutLoad s).det = s.det := by
  unfold reportCutLoad; split <;> rfl

@[simp] theorem dspStart_det (s : State) : (dspStart s).det = s.det := by
  unfold dspStart; dsimp only; split <;> rfl

theorem enterReady_strict {s : State} (h : s.booting 9 = true) : (enterReady s).det.strict = s.cfg.strict := by
  simp [enterReady, h, firstOwners, readCoolant, freshSlips]

/-! ### A write to ISL_DET_CTRL (R16, R292, R298) -/

/-- CTL_STRICT can change in this cycle: READY, no job admitted, and no admission has its reply (R292, R293). -/
def State.mayTurn (s : State) : Prop := s.dev = .ready ∧ s.published.jobCount = 0 ∧ s.det.replyAt ≠ some s.clk.raw

/-- CTL_STRICT as it stood before the changes of the present cycle (R293). -/
def State.strictBefore (s : State) : Bool :=
  s.det.turned.elim s.det.strict fun x => if x.1 = s.clk.raw then x.2 else s.det.strict

/-- The guard of `detCtrl` is `State.mayTurn`. -/
theorem State.mayTurn_iff (s : State) :
    (s.dev == .ready && s.published.jobCount == 0 && s.det.replyAt != some s.clk.raw) = true ↔ s.mayTurn := by
  simp [State.mayTurn, and_assoc]

/-- The first change of a cycle notes the value before it, and a later one keeps that note. -/
theorem State.turned_eq_strictBefore (s : State) :
    (if (!s.det.turned.any (·.1 == s.clk.raw)) = true then some (s.clk.raw, s.det.strict) else s.det.turned) =
      some (s.clk.raw, s.strictBefore) := by
  cases h : s.det.turned with
  | none => simp [State.strictBefore, h]
  | some x =>
    by_cases hx : x.1 = s.clk.raw
    · simp [State.strictBefore, h, ← hx]
    · simp [State.strictBefore, h, hx]

section
variable {s : State} (he : s.rst.episode = none) {v : Word}
include he

theorem detCtrl_same (h : v.getLsbD 0 = s.det.strict) : detCtrl v s =
    { s with det := { s.det with provAll := v.getLsbD 1, refused := s.det.refused && !v.getLsbD 2 } } := by
  have hc : (v.getLsbD 0 != s.det.strict) = false := bne_eq_false_iff_eq.2 h
  simp only [detCtrl, he, hc, noteIf, Option.isSome_none, Bool.false_and, Bool.or_false, Bool.false_eq_true, if_false]

theorem detCtrl_turns (h : v.getLsbD 0 ≠ s.det.strict) (hok : s.mayTurn) : detCtrl v s =
    { s with det := { s.det with strict := v.getLsbD 0, provAll := v.getLsbD 1, refused := s.det.refused && !v.getLsbD 2
                                 turned := some (s.clk.raw, s.strictBefore) } } := by
  have hc : (v.getLsbD 0 != s.det.strict) = true := bne_iff_ne.2 h
  simp only [detCtrl, he, hc, s.mayTurn_iff.2 hok, s.turned_eq_strictBefore, noteIf, Option.isSome_none, Bool.true_and, Bool.not_true,
    Bool.or_false, Bool.false_eq_true, if_true, if_false]

theorem detCtrl_refuses (h : v.getLsbD 0 ≠ s.det.strict) (hok : ¬ s.mayTurn) : detCtrl v s =
    note 0xF000000130 2 { s with det := { s.det with provAll := v.getLsbD 1, refused := true } } := by
  have hc : (v.getLsbD 0 != s.det.strict) = true := bne_iff_ne.2 h
  have hno := Bool.eq_false_iff.2 (mt s.mayTurn_iff.1 hok)
  simp only [detCtrl, he, hc, hno, noteIf, Option.isSome_none, Bool.true_and, Bool.false_and, Bool.not_false, Bool.or_true,
    Bool.false_eq_true, if_true, if_false]

end

/-! ### The reply of an admission (R293) -/

theorem replyCycle_of_turned {s : State} {was : Bool} (h : s.det.turned = some (s.clk.raw, was)) : (replyCycle s).det =
    { s.det with replyAt := some s.clk.raw, strict := was, turned := none
                 refused := s.det.refused || s.det.strict != was } := by
  simp [replyCycle, h]

theorem replyCycle_strict {s : State} {was : Bool} (h : s.det.turned = some (s.clk.raw, was)) : (replyCycle s).det.strict = was := by
  rw [replyCycle_of_turned h]

/-- A change that the reply takes back counts as a write refused. -/
theorem replyCycle_refuses {s : State} {was : Bool} (h : s.det.turned = some (s.clk.raw, was))
    (hback : (replyCycle s).det.strict ≠ s.det.strict) : (replyCycle s).det.refused = true := by
  rw [replyCycle_of_turned h] at hback ⊢
  simpa using .inr hback.symm

/-! ### The command -/

/-- Of the fields of ISL_DET_CTRL only STRICT_REFUSED is a bit that an event sets. -/
theorem unset_detCtrl (s : State) (v : Word) :
    (s.unset 0xF000000130 v).getLsbD 0 = v.getLsbD 0 ∧ (s.unset 0xF000000130 v).getLsbD 1 = v.getLsbD 1 ∧
    (s.unset 0xF000000130 v).getLsbD 2 = (v.getLsbD 2 && !s.hasEvent 0xF000000130 2) := by
  have hbits : eventBits 0xF000000130 = 4 := by decide
  refine ⟨?_, ?_, ?_⟩
  all_goals rw [State.getLsbD_unset _ _ _ (by decide), hbits]; simp

theorem completes_ctlStrictWrite {v : Word} {s t : State} {P : State → Prop} (ht : detCtrl (s.unset 0xF000000130 v) s = t) (h : P t) :
    Completes (.ctlStrictWrite v) s P := ⟨t, congrArg Host.Outcome.next ht, h⟩

end Sys2Proof.Machine

open Sys2Proof Sys2Proof.Machine

/-- Settles O23: a write leaves, turns or is refused by `State.mayTurn`; a change notes the value before its cycle, to which the reply
of an admission goes back. -/
theorem strictControl : Obligations.StrictControl := by
  intro s
  refine ⟨fun h => ⟨_, rfl, enterReady_strict h⟩, fun he v => ?_⟩
  obtain ⟨hwant, hprov, hclr⟩ := unset_detCtrl s v
  refine ⟨fun hsame => ?_, fun hne hok => ?_, fun hne hno => ?_⟩
  · refine completes_ctlStrictWrite (detCtrl_same he (hwant.trans hsame)) ?_
    rw [hprov, hclr]; rfl
  · refine completes_ctlStrictWrite (detCtrl_turns he (hwant.symm ▸ hne) hok) ?_
    rw [hwant, hprov, hclr]
    refine ⟨rfl, (replyCycle_strict rfl).trans ?_, replyCycle_refuses rfl⟩
    rw [State.strictBefore]
    cases s.det.turned <;> rfl
  · exact completes_ctlStrictWrite (detCtrl_refuses he (hwant.symm ▸ hne) hno) (by rw [hprov])

end
